-- ==== Sys2Proof/Word.lean ====
section
/-! DEFINITION. The words of the Ivroth 576: byte, half, word and double (spec/00_scope.md R2), the 6-bit register
field of an instruction word (spec/04 R76), and a team's lane mask, 32 group masks of 32 bits (spec/02 R23). -/

namespace Sys2Proof

/-- 8 bits (R2). -/
abbrev Byte := BitVec 8
/-- 16 bits (R2). -/
abbrev Half := BitVec 16
/-- 32 bits (R2). -/
abbrev Word := BitVec 32
/-- 64 bits (R2). -/
abbrev Double := BitVec 64
/-- A 6-bit field of an instruction word that names a register, a predicate, a tile or a small count (R76). -/
abbrev Reg := BitVec 6
/-- A set of physical positions of a team: bit 32g + j is row g, position j (R23). -/
abbrev Mask := BitVec 1024

end Sys2Proof
end

