-- ==== Sys2Proof/Syntax.lean ====
section
/-! DEFINITION. The steps of the part as data: one constructor of Instr for each row of the opcode table. The first
199 are Veluic instructions with their fields (spec/04 R76 to R89); the rest are the events of
spec/95_what_each_step_holds.md, with what the outside supplies as operands. -/

namespace Sys2Proof

/-- Bits [3:0] of every instruction word: LUA, LUB and STALL (R76). -/
structure Mods where
  lua : Bool
  lub : Bool
  stall : BitVec 2
  deriving DecidableEq, Repr

/-- LB, the branch layout: a signed offset in words (R85). -/
structure LB where
  offset : BitVec 32
  deriving DecidableEq, Repr

/-- LI, the immediate layout, read by TYPE (R85). -/
structure LI where
  imm : BitVec 32
  deriving DecidableEq, Repr

/-- LM, the new mode fields of the field form of MODE (R86). -/
structure LM where
  mode : BitVec 19
  deriving DecidableEq, Repr

/-- PLOG: truth table (R89). -/
structure LPlog where
  table : BitVec 4
  deriving DecidableEq, Repr

/-- SHFL: value, and kind 0 index, 1 xor, 2 up, 3 down (R89). -/
structure LShfl where
  kind : BitVec 2
  value : BitVec 5
  deriving DecidableEq, Repr

/-- QSWZ: 2-bit selector i in bits [2i+1:2i] (R89). -/
structure LQswz where
  sel : BitVec 8
  deriving DecidableEq, Repr

/-- FXC, FXR: flag mask, bits as the lane flag byte (R89). -/
structure LFlags where
  mask : BitVec 7
  deriving DecidableEq, Repr

/-- SEL: predicate and sense (R89). -/
structure LSel where
  sense : Bool
  pred : BitVec 4
  deriving DecidableEq, Repr

/-- literal shift count (R85). -/
structure LCount where
  count : BitVec 6
  deriving DecidableEq, Repr

/-- literal field specification of BFI, BFX: position and width (R85). -/
structure LSpec where
  width : BitVec 7
  pos : BitVec 6
  deriving DecidableEq, Repr

/-- CMP: condition (R89). -/
structure LCmp where
  cond : BitVec 3
  deriving DecidableEq, Repr

/-- CVT: source format, destination format, RC, saturate (R89). -/
structure LCvt where
  sat : Bool
  rc : BitVec 3
  dst : BitVec 4
  src : BitVec 4
  deriving DecidableEq, Repr

/-- QNT: block format and RC (R89). -/
structure LQnt where
  rc : BitVec 3
  fmt : BitVec 2
  deriving DecidableEq, Repr

/-- DQNT: block format (R89). -/
structure LDqnt where
  fmt : BitVec 2
  deriving DecidableEq, Repr

/-- LS, the literal of class 5 (R87). -/
structure LS where
  scope : BitVec 3
  ord : Bool
  hint : BitVec 2
  size : BitVec 3
  offset : BitVec 23
  deriving DecidableEq, Repr

/-- LA, the literal of ATOM, ATOMS and ATOMR (R88). -/
structure LA where
  scope : BitVec 3
  order : BitVec 2
  op : BitVec 4
  width : Bool
  ret : Bool
  offset : BitVec 21
  deriving DecidableEq, Repr

/-- FENCE: SCOPE and KIND (R88). -/
structure LFence where
  scope : BitVec 3
  kind : BitVec 2
  deriving DecidableEq, Repr

/-- ENQ, ENQF: coalescing node index (R89). -/
structure LNode where
  node : BitVec 8
  deriving DecidableEq, Repr

/-- MLOOP: K-step count (R89). -/
structure LMloop where
  k : BitVec 16
  deriving DecidableEq, Repr

/-- MACR: destination format and RC (R89). -/
structure LMacr where
  rc : BitVec 3
  fmt : BitVec 3
  deriving DecidableEq, Repr

/-- MACW: source format (R89). -/
structure LMacw where
  fmt : BitVec 3
  deriving DecidableEq, Repr

/-- CVCFG: log capacity, and 0 site-keyed, 1 sequential (R89). -/
structure LCvcfg where
  mode : Bool
  cap : BitVec 16
  deriving DecidableEq, Repr

/-- HEIR: slot, heir kind, quiet (R89). -/
structure LHeir where
  quiet : Bool
  kind : BitVec 2
  slot : BitVec 5
  deriving DecidableEq, Repr

/-- RCQ: train mode (R89). -/
structure LRcq where
  train : Bool
  deriving DecidableEq, Repr

/-- RPKT, RPRCV: tree or port id (R89). -/
structure LTree where
  id : BitVec 6
  deriving DecidableEq, Repr

/-- SRD, SWR, CTR: an index; TRAP: the software code (R89). -/
structure LIdx where
  idx : BitVec 8
  deriving DecidableEq, Repr

/-- SYSC: service number (R89). -/
structure LSysc where
  n : BitVec 16
  deriving DecidableEq, Repr

/-- BNDS: bound register (R89). -/
structure LBnds where
  n : BitVec 4
  deriving DecidableEq, Repr

/-- An entry of a process's peer table: the peer device, the peer process and the queue pair to use (R303). -/
structure PeerEntry where
  device : Nat
  process : Nat
  queuePair : Nat
  deriving DecidableEq, Repr

/-- The Serai launch call: process (with its address space, peers and dump policy), launching thread, queue, the 256-byte descriptor, and whether xanori is attached (R182). -/
structure LaunchCall where
  pid : Nat
  tid : Nat
  asn : Nat
  root : Nat
  peers : List (Option PeerEntry)
  dumpPolicy : Nat
  queue : BitVec 4
  desc : List Byte
  debugged : Bool
  deriving DecidableEq, Repr

/-- A range of virtual addresses of one address space (R139). -/
structure TransRange where
  asn : Nat
  va : Double
  len : Nat
  deriving DecidableEq, Repr

/-- A management datagram: header fields, body, and signature of a signed request (R307). -/
structure Datagram where
  magic : Word
  flags : Byte
  len : Half
  seq : Double
  body : List Byte
  sig : List Byte
  deriving DecidableEq, Repr

/-- What the boot ROM meets at part reset: the fetched image, the expanders that enumerate, and the calibrated rates
of the system-core clock and of the launch manager's clock in Hz, and where Serai places each die's radiance-cache
region (R230, R290, R304, R305). -/
structure BootFetch where
  image : Option (List Byte)
  farPorts : Half
  sysRate : Nat
  lmRate : Nat
  rcBases : List Word
  deriving DecidableEq, Repr

/-- What a controller finds in a sector it reads (R145, R146). -/
inductive SectorFinding where
  | clean
  | correctable
  | uncorrectable
  deriving DecidableEq, Repr

/-- The bytes of a copy that the Courier moves in one count-down; `data` is what a peer device supplies (R150, R152). -/
structure CopyChunk where
  row : Nat
  off : Nat
  len : Nat
  data : List Byte
  deriving DecidableEq, Repr

/-- Serai's reply to SYSC: s8 to s15 it writes, and bytes of the process's memory it writes (R415). -/
structure SyscReply where
  regs : List (Nat × Word)
  mem : List (Double × Byte)
  deriving DecidableEq, Repr

/-- What the launch manager assigns at admission: image, spill and log regions of each team, and the block image (R52, R128, R238). -/
structure Placement where
  imgas : List Double
  spills : List Double
  logs : List Double
  bimga : Double
  deriving DecidableEq, Repr

/-- A block to be pre-empted, and the save areas that the launch manager assigns to those of the blocks pre-empted with it that have none
yet, each with its block (R213). -/
structure PreemptCall where
  block : Nat
  saves : List (Nat × Double)
  deriving DecidableEq, Repr

/-- The measured segments of the Waybill in the owning unit's cycles (R231). -/
structure WaybillTimes where
  wall : Nat
  syscall : Nat
  queue : Nat
  fault : Nat
  iowait : Nat
  engine : Nat
  deriving DecidableEq, Repr

/-- Kind of a .param field (R97). -/
inductive ParamKind where
  | word
  | float
  | double
  | addr
  | unknown
  deriving DecidableEq, Repr

/-- One `param=` field of `run` (R310): its kind, byte offset in the parameter block, and value. -/
structure ParamEdit where
  kind : ParamKind
  offset : Nat
  value : Word
  deriving DecidableEq, Repr

/-- The `run` command of xanori (R232, R310). -/
structure RunCommand where
  call : LaunchCall
  place : List (Nat × Nat)
  params : List ParamEdit
  deriving DecidableEq, Repr

/-- A register named by xanori's `set` (R229). -/
inductive RegName where
  | v (i : Reg)
  | s (i : Reg)
  | p (i : BitVec 4)
  deriving DecidableEq, Repr

/-- The `watch` command of xanori (R233). -/
structure WatchCommand where
  gid : Nat
  space : BitVec 2
  addr : Double
  die : Option Nat
  core : Option Nat
  len : Nat
  kinds : BitVec 3
  bcast : BitVec 2
  deriving DecidableEq, Repr

/-- Where a word becomes uncorrectable (R209). -/
inductive SoftErrorSite where
  | scratch (blk word : Nat)
  | commons (core word : Nat)
  | l1 (core word : Nat)
  | l2 (word : Nat)
  | reg (team lane : Nat) (i : Reg)
  | scalar (team : Nat) (i : Reg)
  /-- the word of predicate i for a row -/
  | pred (team : Nat) (i : BitVec 4) (row : Nat)
  | tile (blk tile word : Nat)
  | acc (blk acc elem : Nat)
  /-- a sector of device memory, which no read has found yet (R146) -/
  | sector (n : Nat)
  deriving DecidableEq, Repr

/-- One step of the part (spec/opcode_table.json). -/
inductive Instr where
  /-- NOP (R387). Issues one pass and changes no state. -/
  | nop (m : Mods)
  /-- BRA (R331). Continues the running path at the branch target without pushing. -/
  | bra (m : Mods) (l : LB)
  /-- BRC (R332). Divides the running threads by a predicate and pushes the not-taken set as a PATH entry. -/
  | brc (m : Mods) (d a : Reg) (l : LB)
  /-- BRM (R334). Conditional branch that also repacks threads into new physical positions. -/
  | brm (m : Mods) (d a : Reg) (l : LB)
  /-- BRX (R336). Sends each running thread to its own register-held address, pushing one PATH entry per extra target. -/
  | brx (m : Mods) (a : Reg)
  /-- BRVD (R335). Branches when the pending-path stack holds any entry, else falls through. -/
  | brvd (m : Mods) (l : LB)
  /-- CALL (R337). Writes the return address to s62:s63 and continues at the target. -/
  | call (m : Mods) (l : LB)
  /-- RET (R402). Continues at the address held in s62:s63. -/
  | ret (m : Mods)
  /-- JOIN (R369). Arrival point that merges parked paths and otherwise continues. -/
  | join (m : Mods)
  /-- YIELD (R419). Arrival point that switches to a waiting path when one is on top of the stack. -/
  | yield (m : Mods)
  /-- EXIT (R357). Makes every running thread exited and performs resume_next. -/
  | exit (m : Mods)
  /-- EXITR (R358). Records a result record and target word, completes the divergence index in a proposal, then exits. -/
  | exitr (m : Mods) (d a b : Reg)
  /-- KILL (R370). Ends the team at once with death cause KILLED. -/
  | kill (m : Mods)
  /-- MODE_GUARD (R379). Writes GUARD and GSENSE of the mode register. -/
  | modeGuard (m : Mods) (d a : Reg)
  /-- MODE_FIELD (R379). Writes the selected mode-register fields from the LM literal. -/
  | modeField (m : Mods) (a b : Reg) (l : LM)
  /-- GMODE (R367). Exchanges the mode register with a scalar register. -/
  | gmode (m : Mods) (d a : Reg)
  /-- STALL (R413). Waits until every older instruction has finished and atomic replies have landed, then issues an empty pass. -/
  | stall (m : Mods)
  /-- BALLOT (R326). Writes the row mask of live lanes where a predicate is true. -/
  | ballot (m : Mods) (d a : Reg)
  /-- PMOV_P_TO_V (R390). Copies a predicate into a row mask in a vector register. -/
  | pmovPToV (m : Mods) (d a : Reg)
  /-- PMOV_V_TO_P (R390). Sets a predicate from the lane's bit of a vector-held mask. -/
  | pmovVToP (m : Mods) (d a : Reg)
  /-- PLOG (R389). Writes a predicate from a truth table of two predicates. -/
  | plog (m : Mods) (d a b : Reg) (l : LPlog)
  /-- VOTE (R418). Writes the any, all or uniform vote of a predicate over a row. -/
  | vote (m : Mods) (d a b : Reg)
  /-- SHFL_INDEX (R406). Shuffle within a row by a per-lane index. -/
  | shflIndex (m : Mods) (d a b : Reg)
  /-- SHFL_UNIFORM (R406). Shuffle within a row by a scalar index. -/
  | shflUniform (m : Mods) (d a b : Reg)
  /-- SHFL_LITERAL (R406). Shuffle within a row by a literal index, xor, up or down kind. -/
  | shflLiteral (m : Mods) (d a : Reg) (l : LShfl)
  /-- QSWZ (R397). Swizzles values within each quad by literal selectors. -/
  | qswz (m : Mods) (d a : Reg) (l : LQswz)
  /-- QDIF (R395). Writes horizontal or vertical differences within each quad. -/
  | qdif (m : Mods) (d a b : Reg)
  /-- FXC (R364). Returns each lane's flag byte and clears the masked flags. -/
  | fxc (m : Mods) (d : Reg) (l : LFlags)
  /-- FXR (R365). Re-raises ARITH_TRAP for masked flags whose trap enable is set. -/
  | fxr (m : Mods) (l : LFlags)
  /-- SEL_VECTOR (R405). Selects a or vector b per lane by a predicate. -/
  | selVector (m : Mods) (d a b : Reg) (l : LSel)
  /-- SEL_SCALAR (R405). Selects a or scalar b per lane by a predicate. -/
  | selScalar (m : Mods) (d a b : Reg) (l : LSel)
  /-- AND_VECTOR (R321). Bitwise AND with a vector operand. -/
  | andVector (m : Mods) (d a b : Reg)
  /-- AND_SCALAR (R321). Bitwise AND with a scalar operand. -/
  | andScalar (m : Mods) (d a b : Reg)
  /-- AND_LITERAL (R321). Bitwise AND with a literal. -/
  | andLiteral (m : Mods) (d a : Reg) (l : LI)
  /-- OR_VECTOR (R388). Bitwise OR with a vector operand. -/
  | orVector (m : Mods) (d a b : Reg)
  /-- OR_SCALAR (R388). Bitwise OR with a scalar operand. -/
  | orScalar (m : Mods) (d a b : Reg)
  /-- OR_LITERAL (R388). Bitwise OR with a literal. -/
  | orLiteral (m : Mods) (d a : Reg) (l : LI)
  /-- XOR_VECTOR (R388). Bitwise XOR with a vector operand. -/
  | xorVector (m : Mods) (d a b : Reg)
  /-- XOR_SCALAR (R388). Bitwise XOR with a scalar operand. -/
  | xorScalar (m : Mods) (d a b : Reg)
  /-- XOR_LITERAL (R388). Bitwise XOR with a literal. -/
  | xorLiteral (m : Mods) (d a : Reg) (l : LI)
  /-- NOT (R388). Bitwise NOT. -/
  | not (m : Mods) (d a : Reg)
  /-- SHL_VECTOR (R404). Shift left by a vector count. -/
  | shlVector (m : Mods) (d a b : Reg)
  /-- SHL_SCALAR (R404). Shift left by a scalar count. -/
  | shlScalar (m : Mods) (d a b : Reg)
  /-- SHL_LITERAL (R404). Shift left by a literal count. -/
  | shlLiteral (m : Mods) (d a : Reg) (l : LCount)
  /-- SHR_VECTOR (R404). Logical shift right by a vector count. -/
  | shrVector (m : Mods) (d a b : Reg)
  /-- SHR_SCALAR (R404). Logical shift right by a scalar count. -/
  | shrScalar (m : Mods) (d a b : Reg)
  /-- SHR_LITERAL (R404). Logical shift right by a literal count. -/
  | shrLiteral (m : Mods) (d a : Reg) (l : LCount)
  /-- SAR_VECTOR (R404). Arithmetic shift right by a vector count. -/
  | sarVector (m : Mods) (d a b : Reg)
  /-- SAR_SCALAR (R404). Arithmetic shift right by a scalar count. -/
  | sarScalar (m : Mods) (d a b : Reg)
  /-- SAR_LITERAL (R404). Arithmetic shift right by a literal count. -/
  | sarLiteral (m : Mods) (d a : Reg) (l : LCount)
  /-- ROL_VECTOR (R404). Rotate left by a vector count. -/
  | rolVector (m : Mods) (d a b : Reg)
  /-- ROL_SCALAR (R404). Rotate left by a scalar count. -/
  | rolScalar (m : Mods) (d a b : Reg)
  /-- ROL_LITERAL (R404). Rotate left by a literal count. -/
  | rolLiteral (m : Mods) (d a : Reg) (l : LCount)
  /-- BFI_VECTOR (R328). Bit-field insert with a vector field specification. -/
  | bfiVector (m : Mods) (d a b : Reg)
  /-- BFI_SCALAR (R328). Bit-field insert with a scalar field specification. -/
  | bfiScalar (m : Mods) (d a b : Reg)
  /-- BFI_LITERAL (R328). Bit-field insert with a literal field specification. -/
  | bfiLiteral (m : Mods) (d a : Reg) (l : LSpec)
  /-- BFX_VECTOR (R328). Bit-field extract with a vector field specification. -/
  | bfxVector (m : Mods) (d a b : Reg)
  /-- BFX_SCALAR (R328). Bit-field extract with a scalar field specification. -/
  | bfxScalar (m : Mods) (d a b : Reg)
  /-- BFX_LITERAL (R328). Bit-field extract with a literal field specification. -/
  | bfxLiteral (m : Mods) (d a : Reg) (l : LSpec)
  /-- BREV (R333). Reverses the W bits of a. -/
  | brev (m : Mods) (d a : Reg)
  /-- CLZ (R340). Counts leading zero bits. -/
  | clz (m : Mods) (d a : Reg)
  /-- POPC (R391). Counts set bits. -/
  | popc (m : Mods) (d a : Reg)
  /-- LEA_VECTOR (R374). Adds a vector signed 32-bit offset to a 64-bit address. -/
  | leaVector (m : Mods) (d a b : Reg)
  /-- LEA_SCALAR (R374). Adds a scalar signed 32-bit offset to a 64-bit address. -/
  | leaScalar (m : Mods) (d a b : Reg)
  /-- LEA_LITERAL (R374). Adds a literal signed offset to a 64-bit address. -/
  | leaLiteral (m : Mods) (d a : Reg) (l : LI)
  /-- MOV_VECTOR (R380). Copies a vector register. -/
  | movVector (m : Mods) (d b : Reg)
  /-- MOV_SCALAR (R380). Broadcasts a scalar register to every live lane. -/
  | movScalar (m : Mods) (d b : Reg)
  /-- MOVK (R380). Writes a literal read by TYPE. -/
  | movk (m : Mods) (d : Reg) (l : LI)
  /-- ADD_VECTOR (R319). Adds a and a vector b under TYPE and RND. -/
  | addVector (m : Mods) (d a b : Reg)
  /-- ADD_SCALAR (R319). Adds a and a scalar b. -/
  | addScalar (m : Mods) (d a b : Reg)
  /-- ADD_LITERAL (R319). Adds a and a literal. -/
  | addLiteral (m : Mods) (d a : Reg) (l : LI)
  /-- SUB_VECTOR (R414). Subtracts a vector b from a. -/
  | subVector (m : Mods) (d a b : Reg)
  /-- SUB_SCALAR (R414). Subtracts a scalar b from a. -/
  | subScalar (m : Mods) (d a b : Reg)
  /-- SUB_LITERAL (R414). Subtracts a literal from a. -/
  | subLiteral (m : Mods) (d a : Reg) (l : LI)
  /-- MUL_VECTOR (R383). Multiplies a by a vector b. -/
  | mulVector (m : Mods) (d a b : Reg)
  /-- MUL_SCALAR (R383). Multiplies a by a scalar b. -/
  | mulScalar (m : Mods) (d a b : Reg)
  /-- MUL_LITERAL (R383). Multiplies a by a literal. -/
  | mulLiteral (m : Mods) (d a : Reg) (l : LI)
  /-- MULH_VECTOR (R384). High W bits of the exact product with a vector b. -/
  | mulhVector (m : Mods) (d a b : Reg)
  /-- MULH_SCALAR (R384). High W bits of the exact product with a scalar b. -/
  | mulhScalar (m : Mods) (d a b : Reg)
  /-- MULH_LITERAL (R384). High W bits of the exact product with a literal. -/
  | mulhLiteral (m : Mods) (d a : Reg) (l : LI)
  /-- FMA_VECTOR (R362). Fused d + a × b with a vector b. -/
  | fmaVector (m : Mods) (d a b : Reg)
  /-- FMA_SCALAR (R362). Fused d + a × b with a scalar b. -/
  | fmaScalar (m : Mods) (d a b : Reg)
  /-- FMA_LITERAL (R362). Fused d + a × b with a literal b. -/
  | fmaLiteral (m : Mods) (d a : Reg) (l : LI)
  /-- DIV_VECTOR (R349). Divides a by a vector b. -/
  | divVector (m : Mods) (d a b : Reg)
  /-- DIV_SCALAR (R349). Divides a by a scalar b. -/
  | divScalar (m : Mods) (d a b : Reg)
  /-- DIV_LITERAL (R349). Divides a by a literal. -/
  | divLiteral (m : Mods) (d a : Reg) (l : LI)
  /-- REM_VECTOR (R401). Integer remainder by a vector b. -/
  | remVector (m : Mods) (d a b : Reg)
  /-- REM_SCALAR (R401). Integer remainder by a scalar b. -/
  | remScalar (m : Mods) (d a b : Reg)
  /-- REM_LITERAL (R401). Integer remainder by a literal. -/
  | remLiteral (m : Mods) (d a : Reg) (l : LI)
  /-- MIN_VECTOR (R377). Minimum of a and a vector b. -/
  | minVector (m : Mods) (d a b : Reg)
  /-- MIN_SCALAR (R377). Minimum of a and a scalar b. -/
  | minScalar (m : Mods) (d a b : Reg)
  /-- MIN_LITERAL (R377). Minimum of a and a literal. -/
  | minLiteral (m : Mods) (d a : Reg) (l : LI)
  /-- MAX_VECTOR (R377). Maximum of a and a vector b. -/
  | maxVector (m : Mods) (d a b : Reg)
  /-- MAX_SCALAR (R377). Maximum of a and a scalar b. -/
  | maxScalar (m : Mods) (d a b : Reg)
  /-- MAX_LITERAL (R377). Maximum of a and a literal. -/
  | maxLiteral (m : Mods) (d a : Reg) (l : LI)
  /-- CLAMP_VECTOR (R339). Clamps d between a and a vector b. -/
  | clampVector (m : Mods) (d a b : Reg)
  /-- CLAMP_SCALAR (R339). Clamps d between a and a scalar b. -/
  | clampScalar (m : Mods) (d a b : Reg)
  /-- CLAMP_LITERAL (R339). Clamps d between a and a literal. -/
  | clampLiteral (m : Mods) (d a : Reg) (l : LI)
  /-- CMP_VECTOR (R341). Writes a predicate from comparing a with a vector b. -/
  | cmpVector (m : Mods) (d a b : Reg) (l : LCmp)
  /-- CMP_SCALAR (R341). Writes a predicate from comparing a with a scalar b. -/
  | cmpScalar (m : Mods) (d a b : Reg) (l : LCmp)
  /-- ABS (R318). Absolute value of each element. -/
  | abs (m : Mods) (d a : Reg)
  /-- NEG (R386). Negation of each element. -/
  | neg (m : Mods) (d a : Reg)
  /-- SQRT (R409). Correctly rounded square root. -/
  | sqrt (m : Mods) (d a : Reg)
  /-- FCLS (R360). Writes a class mask for each floating-point element. -/
  | fcls (m : Mods) (d a : Reg)
  /-- RDX (R400). Sums a register over the team's threads into a scalar by a fixed tree. -/
  | rdx (m : Mods) (d a : Reg)
  /-- CVT (R347). Converts between formats named in the literal. -/
  | cvt (m : Mods) (d a : Reg) (l : LCvt)
  /-- QNT (R396). Quantises 16 F32 inputs per group into a block format. -/
  | qnt (m : Mods) (d a b : Reg) (l : LQnt)
  /-- DQNT (R351). Dequantises a block held across a group to F32 lanes. -/
  | dqnt (m : Mods) (d a b : Reg) (l : LDqnt)
  /-- AMAX_VALUE (R320). Writes the largest magnitude of each quantisation block. -/
  | amaxValue (m : Mods) (d a : Reg)
  /-- AMAX_EXPONENT (R320). Writes the biased exponent of each block's largest magnitude. -/
  | amaxExponent (m : Mods) (d a : Reg)
  /-- EXP2 (R359). Base-2 exponential, rounded once to nearest. -/
  | exp2 (m : Mods) (d a : Reg)
  /-- LOG2 (R359). Base-2 logarithm, rounded once to nearest. -/
  | log2 (m : Mods) (d a : Reg)
  /-- SIN (R407). Sine in radians. -/
  | sin (m : Mods) (d a : Reg)
  /-- COS (R342). Cosine in radians. -/
  | cos (m : Mods) (d a : Reg)
  /-- RCP (R399). Reciprocal. -/
  | rcp (m : Mods) (d a : Reg)
  /-- RSQ (R399). Reciprocal square root. -/
  | rsq (m : Mods) (d a : Reg)
  /-- LD_VECTOR_BASE (R371). Per-lane device-memory load with a vector pair base. -/
  | ldVectorBase (m : Mods) (d a : Reg) (l : LS)
  /-- LD_SCALAR_BASE (R371). Per-lane device-memory load with a scalar pair base. -/
  | ldScalarBase (m : Mods) (d a : Reg) (l : LS)
  /-- LDK (R373). Scalar device-memory load executed once for the team. -/
  | ldk (m : Mods) (d a : Reg) (l : LS)
  /-- LDS_VECTOR_BASE (R371). Scratchpad load with a vector base. -/
  | ldsVectorBase (m : Mods) (d a : Reg) (l : LS)
  /-- LDS_SCALAR_BASE (R371). Scratchpad load with a scalar base. -/
  | ldsScalarBase (m : Mods) (d a : Reg) (l : LS)
  /-- LDX_VECTOR_BASE (R371). Commons load with a vector base. -/
  | ldxVectorBase (m : Mods) (d a : Reg) (l : LS)
  /-- LDX_SCALAR_BASE (R371). Commons load with a scalar base. -/
  | ldxScalarBase (m : Mods) (d a : Reg) (l : LS)
  /-- ST_VECTOR_BASE (R411). Device-memory store with a vector pair base, entered into the store queue. -/
  | stVectorBase (m : Mods) (a b : Reg) (l : LS)
  /-- ST_SCALAR_BASE (R412). Device-memory store with a scalar pair base and vector or scalar data. -/
  | stScalarBase (m : Mods) (a b : Reg) (l : LS)
  /-- STS_VECTOR_BASE (R411). Scratchpad store with a vector base. -/
  | stsVectorBase (m : Mods) (a b : Reg) (l : LS)
  /-- STS_SCALAR_BASE (R412). Scratchpad store with a scalar base. -/
  | stsScalarBase (m : Mods) (a b : Reg) (l : LS)
  /-- STX_VECTOR_BASE (R411). Commons store with a vector base. -/
  | stxVectorBase (m : Mods) (a b : Reg) (l : LS)
  /-- STX_SCALAR_BASE (R412). Commons store with a scalar base. -/
  | stxScalarBase (m : Mods) (a b : Reg) (l : LS)
  /-- SPLD (R408). Loads from the thread's spill stack. -/
  | spld (m : Mods) (d : Reg) (l : LS)
  /-- SPST (R408). Stores to the thread's spill stack. -/
  | spst (m : Mods) (b : Reg) (l : LS)
  /-- PREF_VECTOR_BASE (R392). Prefetches lines with a vector pair base. -/
  | prefVectorBase (m : Mods) (a : Reg) (l : LS)
  /-- PREF_SCALAR_BASE (R392). Prefetches a line with a scalar pair base. -/
  | prefScalarBase (m : Mods) (a : Reg) (l : LS)
  /-- ATOM_VECTOR_BASE (R322). Per-lane atomic read-modify-write on device memory with a vector base. -/
  | atomVectorBase (m : Mods) (d a b : Reg) (l : LA)
  /-- ATOM_SCALAR_BASE (R322). Per-lane atomic on device memory with a scalar base. -/
  | atomScalarBase (m : Mods) (d a b : Reg) (l : LA)
  /-- ATOMS_SCRATCH_VECTOR_BASE (R324). Atomic on scratchpad with a vector base. -/
  | atomsScratchVectorBase (m : Mods) (d a b : Reg) (l : LA)
  /-- ATOMS_SCRATCH_SCALAR_BASE (R324). Atomic on scratchpad with a scalar base. -/
  | atomsScratchScalarBase (m : Mods) (d a b : Reg) (l : LA)
  /-- ATOMS_COMMONS_VECTOR_BASE (R324). Atomic on the commons with a vector base. -/
  | atomsCommonsVectorBase (m : Mods) (d a b : Reg) (l : LA)
  /-- ATOMS_COMMONS_SCALAR_BASE (R324). Atomic on the commons with a scalar base. -/
  | atomsCommonsScalarBase (m : Mods) (d a b : Reg) (l : LA)
  /-- ATOMR_VECTOR_BASE (R323). Reservation add returning fixed offsets in ordered launches, vector base. -/
  | atomrVectorBase (m : Mods) (d a b : Reg) (l : LA)
  /-- ATOMR_SCALAR_BASE (R323). Reservation add returning fixed offsets in ordered launches, scalar base. -/
  | atomrScalarBase (m : Mods) (d a b : Reg) (l : LA)
  /-- FENCE (R361). Orders the team's accesses at the literal's scope and kind. -/
  | fence (m : Mods) (l : LFence)
  /-- BARI (R327). Initialises a barrier object with a count. -/
  | bari (m : Mods) (a b : Reg)
  /-- BAR (R327). Arrives at a barrier object with the team's count and waits for the phase flip. -/
  | bar (m : Mods) (a : Reg)
  /-- BARA (R327). Counts down a barrier object by a given number without waiting. -/
  | bara (m : Mods) (a b : Reg)
  /-- BARW (R327). Waits until a barrier object's phase differs from the named phase. -/
  | barw (m : Mods) (a : Reg)
  /-- GBAR (R366). Arrives at the grid barrier generation and waits for every team. -/
  | gbar (m : Mods)
  /-- EVPUB (R356). Publishes the block event value with a release at device scope. -/
  | evpub (m : Mods) (a : Reg)
  /-- EVWAIT (R356). Waits for a block's event and returns its value. -/
  | evwait (m : Mods) (d a : Reg)
  /-- EVPEEK (R356). Tests whether a block's event is published without waiting. -/
  | evpeek (m : Mods) (d a : Reg)
  /-- ENQ (R353). Appends one record per live lane to a coalescing node. -/
  | enq (m : Mods) (a b : Reg) (l : LNode)
  /-- ENQF (R354). Closes a node's open slot when it holds a record. -/
  | enqf (m : Mods) (l : LNode)
  /-- CPOST (R343). Hands a copy request from scratchpad to the Courier. -/
  | cpost (m : Mods) (a : Reg)
  /-- CBATCH (R338). Closes the posted requests into a batch and returns its number. -/
  | cbatch (m : Mods) (d : Reg)
  /-- CWAIT (R348). Waits until a batch and every earlier batch are complete. -/
  | cwait (m : Mods) (a : Reg)
  /-- CSTAT (R344). Returns the status word of a copy batch. -/
  | cstat (m : Mods) (d a : Reg)
  /-- MLOOP (R378). Runs K matrix steps into an accumulator from a format block. -/
  | mloop (m : Mods) (d a b : Reg) (l : LMloop)
  /-- MTLD (R382). Waits for an empty tile, copies 16 KiB of scratch into it and sets it full. -/
  | mtld (m : Mods) (d a : Reg)
  /-- MACR (R376). Converts and writes an accumulator to scratchpad. -/
  | macr (m : Mods) (a b : Reg) (l : LMacr)
  /-- MACW (R376). Loads an accumulator from scratchpad. -/
  | macw (m : Mods) (d a : Reg) (l : LMacw)
  /-- MACZ (R376). Zeroes an accumulator. -/
  | macz (m : Mods) (d : Reg)
  /-- MRSV (R381). Tries to reserve the core's matrix unit. -/
  | mrsv (m : Mods) (d : Reg)
  /-- MREL (R381). Releases the team's matrix reservation. -/
  | mrel (m : Mods)
  /-- MWAIT (R385). Waits for the block's earlier-issued matrix work, then acquires at block scope. -/
  | mwait (m : Mods)
  /-- DRAW (R352). Recorded draw at a site written as an F32 in [0,1). -/
  | draw (m : Mods) (d a b : Reg)
  /-- DRAWI (R352). Recorded draw at a site written as raw 32 bits. -/
  | drawi (m : Mods) (d a b : Reg)
  /-- RBITS (R243). Unrecorded draw at site 4094. -/
  | rbits (m : Mods) (d : Reg)
  /-- CVCFG (R247). Sets log capacity and sequential mode of each live lane. -/
  | cvcfg (m : Mods) (l : LCvcfg)
  /-- CVSET (R246). Places a value in the lane's choice-vector source by key, or seeds the acceptance variate. -/
  | cvset (m : Mods) (a b : Reg)
  /-- CVSTA (R245). Returns STA, N and DIV of the lane's choice vector. -/
  | cvsta (m : Mods) (d : Reg)
  /-- RLCH (R257). Sets a pending mutation descriptor for the chain's next proposal. -/
  | rlch (m : Mods) (a : Reg)
  /-- HEIR (R368). Sets the heir kind, tag and quiet bit of an estate slot. -/
  | heir (m : Mods) (a : Reg) (l : LHeir)
  /-- ESTQ (R355). Returns an estate item, clearing BRV bits for item 128. -/
  | estq (m : Mods) (d a : Reg)
  /-- LOCK (R375). Acquires a lock word for the team, waiting while it is held. -/
  | lock (m : Mods) (d a : Reg)
  /-- UNLOCK (R417). Clears the lock owner and frees the team's lock slot. -/
  | unlock (m : Mods) (a : Reg)
  /-- PROM (R393). Writes a promise word empty and enters a promise holding. -/
  | prom (m : Mods) (a : Reg)
  /-- FULFIL (R363). Fulfils a promise word with a value and frees the slot. -/
  | fulfil (m : Mods) (a b : Reg)
  /-- AWAIT (R325). Waits until a promise word is no longer empty and returns its status. -/
  | await (m : Mods) (d a : Reg)
  /-- RCQ (R292). Evaluates the radiance-cache network per lane, optionally issuing training tickets. -/
  | rcq (m : Mods) (d a : Reg) (l : LRcq)
  /-- RCT (R294). Deposits targets for tickets into pending sample slots. -/
  | rct (m : Mods) (a b : Reg)
  /-- RCCTL_STEPS (R296). Sets the Tapster's steps per frame. -/
  | rcctlSteps (m : Mods) (a : Reg)
  /-- RCCTL_LR (R296). Sets the Tapster's learning rate. -/
  | rcctlLr (m : Mods) (a : Reg)
  /-- RCCTL_BETA1 (R296). Sets Adam β1. -/
  | rcctlBeta1 (m : Mods) (a : Reg)
  /-- RCCTL_BETA2 (R296). Sets Adam β2. -/
  | rcctlBeta2 (m : Mods) (a : Reg)
  /-- RCCTL_EPS (R296). Sets Adam ε. -/
  | rcctlEps (m : Mods) (a : Reg)
  /-- RCCTL_FRAME (R296). Resets the frame budget to STEPS. -/
  | rcctlFrame (m : Mods) (a : Reg)
  /-- RCCTL_FLUSH (R296). Makes every FILLED sample slot FREE. -/
  | rcctlFlush (m : Mods) (a : Reg)
  /-- RCCTL_LOADW (R296). Loads master weights from a commons image and publishes them as a new set. -/
  | rcctlLoadw (m : Mods) (a : Reg)
  /-- RPKT (R302). Sends a 32-element packet into a router's local slot. -/
  | rpkt (m : Mods) (a : Reg) (l : LTree)
  /-- RPRCV (R302). Waits for and takes the root's held reduction result and status. -/
  | rprcv (m : Mods) (d a : Reg) (l : LTree)
  /-- SRD (R410). Reads a special register. -/
  | srd (m : Mods) (d : Reg) (l : LIdx)
  /-- SWR (R410). Writes the FLAGS special register. -/
  | swr (m : Mods) (a : Reg) (l : LIdx)
  /-- SYSC (R415). Sends a service request to Serai and waits for the reply. -/
  | sysc (m : Mods) (l : LSysc)
  /-- TRAP (R416). Raises SOFTWARE_TRAP with a literal code. -/
  | trap (m : Mods) (l : LIdx)
  /-- RTE (R403). Ends a handler, replaying captured entries and continuing at RPC. -/
  | rte (m : Mods)
  /-- BKPT (R329). Raises BREAKPOINT. -/
  | bkpt (m : Mods)
  /-- CTR (R345). Reads a 64-bit counter into a scalar pair. -/
  | ctr (m : Mods) (d : Reg) (l : LIdx)
  /-- CTR_MFLAGS_CLEAR (R282). Reads MFLAGS and clears bits [6:0] in the same action (index 0x21). -/
  | ctrMflagsClear (m : Mods) (d : Reg)
  /-- BNDS (R330). Copies a bound descriptor from scratch into a bound register. -/
  | bnds (m : Mods) (a : Reg) (l : LBnds)
  /-- UNASSIGNED_OPCODE (R79). Issue of a word whose class and function are unassigned, or of class E or F, raises ILLEGAL_ENCODING. -/
  | unassignedOpcode (w : BitVec 32)
  /-- LAUNCH (R182). Serai launch call submits a launch descriptor to a queue and returns a grid identifier or status. -/
  | launch (c : LaunchCall)
  /-- FAULT_STATUS_RESOLVED (R143). Serai writes STATUS 1 to a pending fault-queue entry, resolving it. -/
  | faultStatusResolved (die idx : Nat)
  /-- FAULT_STATUS_DENIED (R143). Serai writes STATUS 2 to a pending fault-queue entry, denying it. -/
  | faultStatusDenied (die idx : Nat)
  /-- COMMONS_WINDOW_GRANT (R132). Serai grants a process a window of whole commons contributions on a die. -/
  | commonsWindowGrant (pid die : Nat) (cores : List Nat)
  /-- COMMONS_CONTRIBUTION_SET (R132). Serai sets a core's commons contribution while no block is resident. -/
  | commonsContributionSet (core size : Nat)
  /-- TRANSLATION_INVALIDATION (R139). Serai requests invalidation of a translated range through the hub. -/
  | translationInvalidation (r : TransRange) (ptes : List (Nat × BitVec 64))
  /-- INVALIDATION_COMPLETE (R139). Invalidation completes once no core holds the range and old accesses are performed. -/
  | invalidationComplete (r : TransRange)
  /-- WATCHPOINT_WRITE (R223). Write of a data watchpoint register, rejected with BAD_WATCH on bad fields. -/
  | watchpointWrite (core idx : Nat) (v : BitVec 128)
  /-- IDENTIFY (R307). Management command returning serial, version, far ports, firmware digest and last sequence. -/
  | identify (q : Datagram)
  /-- ATTEST (R306). Management command returning a signed attestation report for a nonce. -/
  | attest (q : Datagram)
  /-- LOAD_IMAGE (R307). Signed management command that fetches and checks a boot image for the next reset. -/
  | loadImage (q : Datagram) (image : Option (List (BitVec 8)))
  /-- RESET_WARM (R307). Signed management reset of kind 0, restarting Serai. -/
  | resetWarm (q : Datagram)
  /-- RESET_FULL (R307). Signed management reset of kind 1, as power-on. -/
  | resetFull (q : Datagram)
  /-- READ_COUNTERS (R307). Management command returning the device counters. -/
  | readCounters (q : Datagram)
  /-- SET_POWER_LIMIT (R309). Signed management command setting the commanded power limit. -/
  | setPowerLimit (q : Datagram)
  /-- RETRIEVE_DUMP (R307). Signed management command returning a grid's kept dump. -/
  | retrieveDump (q : Datagram)
  /-- READ_ERROR_LOG (R308). Signed management command returning the non-volatile error log. -/
  | readErrorLog (q : Datagram)
  /-- PART_RESET (R305). Part reset runs the boot ROM, configures dies, calibrates clocks and fetches the boot image. -/
  | partReset (b : BootFetch)
  /-- BOOT_IMAGE_RETRY (R305). A rejected or unreachable boot image is retried every 10 s. -/
  | bootImageRetry (image : Option (List (BitVec 8)))
  /-- POOL_REFILL (R195). Each die cycle the power-token pool refills and debits are applied. -/
  | poolRefill (die bytes : Nat)
  /-- SLOT_AGE_CLOSE (R193). A node slot closes when its oldest record has waited AGE queue-manager cycles. -/
  | slotAgeClose (gid node : Nat)
  /-- ROUTER_TIMEOUT (R301). A router round completes after TOUT mesh cycles with empty slots as padding and INCOMPLETE set. -/
  | routerTimeout (gid tree core : Nat)
  /-- REDUCTION_PACKET_ARRIVAL (R301). A packet arrives at a router slot and may complete the round. -/
  | reductionPacketArrival (gid idx : Nat)
  /-- PATROL_READ (R146). A controller patrols its capacity, correcting or poisoning sectors. -/
  | patrolRead (sector : Nat) (found : SectorFinding)
  /-- THERMAL_THROTTLE_START (R309). A die junction above 105 °C starts throttling and is recorded. -/
  | thermalThrottleStart (die : Nat) (temp : BitVec 16)
  /-- THROTTLE_STEP (R309). Every 10 ms the effective limit moves 100 W down or up. -/
  | throttleStep (temps : List (BitVec 16))
  /-- THERMAL_RESET (R309). A die reaching 115 °C resets the part fully and logs the event. -/
  | thermalReset (die : Nat) (temp : BitVec 16) (b : BootFetch)
  /-- ATOMIC_REPLY (R214). An atomic's reply is written once to the register cache or image. -/
  | atomicReply (team : Nat)
  /-- REGISTER_LINE_FILL (R53). An absent register line arrives and is unpacked by its format tag. -/
  | registerLineFill (team : Nat)
  /-- STORE_QUEUE_DRAIN (R135). A store leaves the team's store queue, becoming visible and updating L1. -/
  | storeQueueDrain (team : Nat)
  /-- WATCHPOINT_HIT (R224). An access performed at its home matches a watchpoint and stops the requesting team. -/
  | watchpointHit (hit : Nat)
  /-- STOP_NOTICE (R225). A stop notice arrives at a core and stops issue for the debugged grid's teams. -/
  | stopNotice (core : Nat)
  /-- RESUME_NOTICE (R227). A resume notice reaches a stopped core and work resumes. -/
  | resumeNotice (core : Nat)
  /-- COURIER_COUNT_DOWN (R152). The Courier counts a barrier object down for bytes written and visible. -/
  | courierCountDown (core req : Nat) (c : CopyChunk)
  /-- COPY_FAULT_RESUME (R152). A copy paused on a page fault continues or stops DENIED after resolution. -/
  | copyFaultResume (core req : Nat)
  /-- DEFERRED_PATH_RESUME (R32). A deferred path resumes after resolution, replaying the faulting instruction for its lanes. -/
  | deferredPathResume (team : Nat)
  /-- FAULT_POST_AFTER_WAIT (R144). A pass waiting on a full fault queue posts its entry once one is freed. -/
  | faultPostAfterWait (team : Nat)
  /-- MATRIX_STEP (R277). The matrix unit starts and performs one step when tile, token and unit are ready. -/
  | matrixStep (core : Nat)
  /-- TAPSTER_OPTIMISER_STEP (R295). The Tapster takes an Adam step on 256 filled samples and publishes a new set. -/
  | tapsterOptimiserStep (die : Nat)
  /-- SYSC_REPLY (R415). Serai's reply completes a waiting SYSC with an acquire at system scope. -/
  | syscReply (team : Nat) (r : SyscReply)
  /-- BAR_WAIT_COMPLETE (R327). A waiting BAR or BARW leaves when the object's phase flips. -/
  | barWaitComplete (team : Nat)
  /-- GBAR_WAIT_COMPLETE (R366). A waiting GBAR leaves when every grid team has arrived or ended. -/
  | gbarWaitComplete (team : Nat)
  /-- EVWAIT_COMPLETE (R356). A waiting EVWAIT returns once the block event is published. -/
  | evwaitComplete (team : Nat)
  /-- AWAIT_WAKE (R325). A waiting AWAIT returns when the promise is fulfilled or broken. -/
  | awaitWake (team : Nat)
  /-- LOCK_ACQUIRE_AFTER_WAIT (R375). A waiting LOCK acquires, is poisoned out, or is completed by conveyance. -/
  | lockAcquireAfterWait (team : Nat)
  /-- CWAIT_COMPLETE (R348). A waiting CWAIT returns once its batches are complete. -/
  | cwaitComplete (team : Nat)
  /-- MWAIT_COMPLETE (R385). A waiting MWAIT returns once earlier matrix work has finished. -/
  | mwaitComplete (team : Nat)
  /-- ENQ_AFTER_WAIT (R353). A waiting ENQ appends once the node can take every record. -/
  | enqAfterWait (team : Nat)
  /-- CPOST_AFTER_WAIT (R149). A CPOST waiting on a full Courier posts once a request completes. -/
  | cpostAfterWait (team : Nat)
  /-- MTLD_AFTER_WAIT (R382). A waiting MTLD copies once its tile becomes empty. -/
  | mtldAfterWait (team : Nat)
  /-- RPKT_AFTER_WAIT (R301). A packet waiting for a buffered slot is sent once one frees. -/
  | rpktAfterWait (team : Nat)
  /-- RPRCV_COMPLETE (R302). A waiting RPRCV takes the root's result and status. -/
  | rprcvComplete (team : Nat)
  /-- BLOCK_ADMISSION (R190). The launch manager and Innkeeper admit a pending block to a core and start its teams. -/
  | blockAdmission (gid block core : Nat) (p : Placement)
  /-- NODE_BATCH_ADMISSION (R194). A closed node slot is admitted as a block of one team over its records. -/
  | nodeBatchAdmission (gid core : Nat) (p : Placement)
  /-- ESTATE_HANDLER_ADMISSION (R269). An estate-handler team is admitted as a node batch for a conveyed or heirless holding. -/
  | estateHandlerAdmission (gid core : Nat) (p : Placement)
  /-- PREEMPT (R212). The launch manager pre-empts a block, running save handlers and writing the block image. -/
  | preempt (gid : Nat) (blk : PreemptCall)
  /-- PREEMPT_RESUME (R212). A pre-empted block reloads its image, runs restore handlers and becomes ready. -/
  | preemptResume (gid blk core : Nat)
  /-- CONVEY (R267). The launch manager conveys a dead team's holdings to heirs in descending SEQ. -/
  | convey (gid : Nat)
  /-- CONVEYANCE_WRITE_RETRY (R425). A conveyance word write that faulted is retried or abandoned after resolution. -/
  | conveyanceWriteRetry (gid : Nat)
  /-- DUMP_CAPTURE (R215). The dump writer freezes a fatally faulted team and writes its dump. -/
  | dumpCapture (team : Nat)
  /-- DIGEST_COMPARE (R181). Once both digests are complete the last EXIT compares them and counts mismatches. -/
  | digestCompare (gid blk : Nat)
  /-- BLOCK_COMPLETION (R186). The launch manager writes a completed block's event-array entry. -/
  | blockCompletion (gid blk : Nat)
  /-- GRID_COMPLETION (R186). The grid completes and the Serai process is notified with the Waybill. -/
  | gridCompletion (gid : Nat) (w : WaybillTimes)
  /-- RUN (R232). xanori submits the grid, optionally placed and with replaced parameters. -/
  | xanRun (r : RunCommand)
  /-- CONTINUE (R285). xanori resumes the stopped grid until stop, end or held waits. -/
  | xanContinue (gid : Nat)
  /-- PORTER_HOLD (R219). Stops the Porter resolving the process's fault entries. -/
  | xanPorterHold (pid : Nat)
  /-- PORTER_RESOLVE (R219). Maps the page of one entry and writes STATUS 1: the physical page, and pages for tables the walk lacks. -/
  | xanPorterResolve (die idx : Nat) (page : Nat × List Nat)
  /-- PORTER_RELEASE (R219). Resolves every pending entry in index order and ends the hold. -/
  | xanPorterRelease (pid : Nat) (pages : List (Nat × List Nat))
  /-- PAGE_EVICT (R220). Evicts pages of a stopped process so next access faults not valid. -/
  | xanPageEvict (pid : Nat) (pages : List (BitVec 64))
  /-- FOCUS_LANE (R228). Forces the current mask to a lane's row. -/
  | xanFocusLane (team lane : Nat)
  /-- FOCUS_LANE_ALONE (R236). Forces a mask holding one lane only. -/
  | xanFocusLaneAlone (team lane : Nat)
  /-- FOCUS_OFF (R228). Turns the FOCUS entry into a PATH entry. -/
  | xanFocusOff (team : Nat)
  /-- STEP (R228). Issues one instruction of the focused path, refusing a barrier with alone. -/
  | xanStep (team : Nat)
  /-- STEP_FORCE (R236). Issues the focused step even into a barrier. -/
  | xanStepForce (team : Nat)
  /-- SET (R229). Debugger register write, BUSY when a load targets it. -/
  | xanSet (team : Nat) (r : RegName) (lanes : List Nat) (v : BitVec 32)
  /-- SET_FORCE (R229). Debugger register write cancelling an in-flight write-back. -/
  | xanSetForce (team : Nat) (r : RegName) (lanes : List Nat) (v : BitVec 32)
  /-- WATCH (R233). xanori writes a data watchpoint, held until admission. -/
  | xanWatch (c : WatchCommand)
  /-- WATCH_DELETE (R233). Writes EN = 0 to a watchpoint. -/
  | xanWatchDelete (core idx : Nat)
  /-- BREAK (R258). Writes an instruction breakpoint on every core the grid reaches. -/
  | xanBreak (gid : Nat) (addr : BitVec 64) (bcast : BitVec 2)
  /-- BREAK_CORE (R284). Writes an instruction breakpoint on one named core. -/
  | xanBreakCore (gid : Nat) (addr : BitVec 64) (core : Nat) (bcast : BitVec 2)
  /-- BKPT_BCAST (R222). Sets the stop scope of BKPT for the debugged grid. -/
  | xanBkptBcast (gid : Nat) (bcast : BitVec 2)
  /-- CV (R258). Reads a thread's choice-vector state and log. -/
  | xanCv (team lane : Nat)
  /-- CHAIN (R258). Reads and decodes a chain record. -/
  | xanChain (gid chain step : Nat)
  /-- EVENTS (R286). Prints each block's event state and waiters. -/
  | xanEvents (gid : Nat)
  /-- BLOCK (R286). Prints a block's TFULL, NTILE, NACC, MFLAGS and SCRSZ. -/
  | xanBlock (gid blk : Nat)
  /-- ESTATE (R313). Prints a team's occupied estate slots. -/
  | xanEstate (team : Nat)
  /-- LOAD_REPLY (R90). The data of an outstanding load returns and is written back to its destination lanes, releasing interlocked readers. -/
  | loadReply (team : Nat)
  /-- PEER_RETRY_LIMIT (R152). A peer that does not answer within 8 retransmissions or 500 µs ends the copy's unconfirmed bytes with PEER_UNREACHABLE and counts them down. -/
  | peerRetryLimit (core req : Nat)
  /-- UNCORRECTABLE_SOFT_ERROR (R209). A word in scratchpad, commons, L1, L2, register cache, tile or accumulator storage becomes uncorrectable. -/
  | uncorrectableSoftError (c : SoftErrorSite)
  /-- MANAGEMENT_BAD_REQUEST (R307). A management datagram with an unassigned command code is answered BAD_REQUEST. -/
  | managementBadRequest (code : BitVec 8) (q : Datagram)
  deriving DecidableEq, Repr

end Sys2Proof
end

