-- ==== Sys2Proof/WellFormed.lean ====
section
/-! DEFINITION. Which terms of Instr have an encoding (spec/04 R76 to R89, R315): what no field of the term's own type
already says. Operand ranges (R49, R85) are not here: the part checks them at issue, and they trap. -/

namespace Sys2Proof

/-- An assigned opcode (R79 to R84). -/
def assignedOpcode (op : Nat) : Bool :=
  let fn := op % 64
  match op / 64 with
  | 0 => (0x01 ≤ fn && fn ≤ 0x11)
  | 1 => (0x00 ≤ fn && fn ≤ 0x0D)
  | 2 => (0x00 ≤ fn && fn ≤ 0x06) || (0x08 ≤ fn && fn ≤ 0x14) || fn == 0x16 || fn == 0x18 || (0x1A ≤ fn && fn ≤ 0x1D) || fn == 0x20 || fn == 0x22 || fn == 0x24 || fn == 0x28 || fn == 0x2A || fn == 0x2C || fn == 0x2E || fn == 0x30 || fn == 0x32 || fn == 0x3A || fn == 0x3C
  | 3 => (0x00 ≤ fn && fn ≤ 0x16) || fn == 0x18 || fn == 0x1A || fn == 0x1C || fn == 0x1E || fn == 0x20 || fn == 0x22 || fn == 0x24 || fn == 0x26 || fn == 0x28 || fn == 0x2A || fn == 0x2C || fn == 0x2E || fn == 0x30 || fn == 0x32
  | 4 => (0x00 ≤ fn && fn ≤ 0x0A)
  | 5 => (0x00 ≤ fn && fn ≤ 0x10)
  | 6 => (0x00 ≤ fn && fn ≤ 0x08)
  | 7 => (0x00 ≤ fn && fn ≤ 0x09)
  | 8 => (0x00 ≤ fn && fn ≤ 0x03)
  | 9 => (0x00 ≤ fn && fn ≤ 0x07)
  | 10 => (0x00 ≤ fn && fn ≤ 0x06)
  | 11 => (0x00 ≤ fn && fn ≤ 0x06)
  | 12 => (0x00 ≤ fn && fn ≤ 0x04)
  | 13 => (0x00 ≤ fn && fn ≤ 0x07)
  | _ => false

/-- RET = 0 with d ≠ 0 is no encoding, but for CAS (R88). -/
def LA.wf (d : Reg) (l : LA) : Bool := l.ret || d == 0#6 || l.op == 10#4

/-- The term is an instruction of the part: it has words, and every field marked 0 is 0. -/
def Instr.wf (i : Instr) : Bool :=
  match i with
  | .nop _ => true
  | .bra _ _ => true
  | .brc _ _ _ _ => true
  | .brm _ _ _ _ => true
  | .brx _ _ => true
  | .brvd _ _ => true
  | .call _ _ => true
  | .ret _ => true
  | .join _ => true
  | .yield _ => true
  | .exit _ => true
  | .exitr _ _ _ _ => true
  | .kill _ => true
  | .modeGuard _ _ _ => true
  | .modeField _ _ _ _ => true
  | .gmode _ _ _ => true
  | .stall _ => true
  | .ballot _ _ _ => true
  | .pmovPToV _ _ _ => true
  | .pmovVToP _ _ _ => true
  | .plog _ _ _ _ _ => true
  | .vote _ _ _ _ => true
  | .shflIndex _ _ _ _ => true
  | .shflUniform _ _ _ _ => true
  | .shflLiteral _ _ _ _ => true
  | .qswz _ _ _ _ => true
  | .qdif _ _ _ _ => true
  | .fxc _ _ _ => true
  | .fxr _ _ => true
  | .selVector _ _ _ _ _ => true
  | .selScalar _ _ _ _ _ => true
  | .andVector _ _ _ _ => true
  | .andScalar _ _ _ _ => true
  | .andLiteral m _ _ _ => !m.lub
  | .orVector _ _ _ _ => true
  | .orScalar _ _ _ _ => true
  | .orLiteral m _ _ _ => !m.lub
  | .xorVector _ _ _ _ => true
  | .xorScalar _ _ _ _ => true
  | .xorLiteral m _ _ _ => !m.lub
  | .not _ _ _ => true
  | .shlVector _ _ _ _ => true
  | .shlScalar _ _ _ _ => true
  | .shlLiteral m _ _ _ => !m.lub
  | .shrVector _ _ _ _ => true
  | .shrScalar _ _ _ _ => true
  | .shrLiteral m _ _ _ => !m.lub
  | .sarVector _ _ _ _ => true
  | .sarScalar _ _ _ _ => true
  | .sarLiteral m _ _ _ => !m.lub
  | .rolVector _ _ _ _ => true
  | .rolScalar _ _ _ _ => true
  | .rolLiteral m _ _ _ => !m.lub
  | .bfiVector _ _ _ _ => true
  | .bfiScalar _ _ _ _ => true
  | .bfiLiteral m _ _ _ => !m.lub
  | .bfxVector _ _ _ _ => true
  | .bfxScalar _ _ _ _ => true
  | .bfxLiteral m _ _ _ => !m.lub
  | .brev _ _ _ => true
  | .clz _ _ _ => true
  | .popc _ _ _ => true
  | .leaVector _ _ _ _ => true
  | .leaScalar _ _ _ _ => true
  | .leaLiteral m _ _ _ => !m.lub
  | .movVector _ _ _ => true
  | .movScalar _ _ _ => true
  | .movk m _ _ => !m.lub
  | .addVector _ _ _ _ => true
  | .addScalar _ _ _ _ => true
  | .addLiteral m _ _ _ => !m.lub
  | .subVector _ _ _ _ => true
  | .subScalar _ _ _ _ => true
  | .subLiteral m _ _ _ => !m.lub
  | .mulVector _ _ _ _ => true
  | .mulScalar _ _ _ _ => true
  | .mulLiteral m _ _ _ => !m.lub
  | .mulhVector _ _ _ _ => true
  | .mulhScalar _ _ _ _ => true
  | .mulhLiteral m _ _ _ => !m.lub
  | .fmaVector _ _ _ _ => true
  | .fmaScalar _ _ _ _ => true
  | .fmaLiteral m _ _ _ => !m.lub
  | .divVector _ _ _ _ => true
  | .divScalar _ _ _ _ => true
  | .divLiteral m _ _ _ => !m.lub
  | .remVector _ _ _ _ => true
  | .remScalar _ _ _ _ => true
  | .remLiteral m _ _ _ => !m.lub
  | .minVector _ _ _ _ => true
  | .minScalar _ _ _ _ => true
  | .minLiteral m _ _ _ => !m.lub
  | .maxVector _ _ _ _ => true
  | .maxScalar _ _ _ _ => true
  | .maxLiteral m _ _ _ => !m.lub
  | .clampVector _ _ _ _ => true
  | .clampScalar _ _ _ _ => true
  | .clampLiteral m _ _ _ => !m.lub
  | .cmpVector _ _ _ _ _ => true
  | .cmpScalar _ _ _ _ _ => true
  | .abs _ _ _ => true
  | .neg _ _ _ => true
  | .sqrt _ _ _ => true
  | .fcls _ _ _ => true
  | .rdx _ _ _ => true
  | .cvt _ _ _ _ => true
  | .qnt _ _ _ _ _ => true
  | .dqnt _ _ _ _ _ => true
  | .amaxValue _ _ _ => true
  | .amaxExponent _ _ _ => true
  | .exp2 _ _ _ => true
  | .log2 _ _ _ => true
  | .sin _ _ _ => true
  | .cos _ _ _ => true
  | .rcp _ _ _ => true
  | .rsq _ _ _ => true
  | .ldVectorBase _ _ _ _ => true
  | .ldScalarBase _ _ _ _ => true
  | .ldk _ _ _ _ => true
  | .ldsVectorBase _ _ _ _ => true
  | .ldsScalarBase _ _ _ _ => true
  | .ldxVectorBase _ _ _ _ => true
  | .ldxScalarBase _ _ _ _ => true
  | .stVectorBase _ _ _ _ => true
  | .stScalarBase _ _ _ _ => true
  | .stsVectorBase _ _ _ _ => true
  | .stsScalarBase _ _ _ _ => true
  | .stxVectorBase _ _ _ _ => true
  | .stxScalarBase _ _ _ _ => true
  | .spld _ _ _ => true
  | .spst _ _ _ => true
  | .prefVectorBase _ _ _ => true
  | .prefScalarBase _ _ _ => true
  | .atomVectorBase _ d _ _ l => LA.wf d l
  | .atomScalarBase _ d _ _ l => LA.wf d l
  | .atomsScratchVectorBase _ d _ _ l => LA.wf d l
  | .atomsScratchScalarBase _ d _ _ l => LA.wf d l
  | .atomsCommonsVectorBase _ d _ _ l => LA.wf d l
  | .atomsCommonsScalarBase _ d _ _ l => LA.wf d l
  | .atomrVectorBase _ d _ _ l => LA.wf d l
  | .atomrScalarBase _ d _ _ l => LA.wf d l
  | .fence _ _ => true
  | .bari _ _ _ => true
  | .bar _ _ => true
  | .bara _ _ _ => true
  | .barw _ _ => true
  | .gbar _ => true
  | .evpub _ _ => true
  | .evwait _ _ _ => true
  | .evpeek _ _ _ => true
  | .enq _ _ _ _ => true
  | .enqf _ _ => true
  | .cpost _ _ => true
  | .cbatch _ _ => true
  | .cwait _ _ => true
  | .cstat _ _ _ => true
  | .mloop _ _ _ _ _ => true
  | .mtld _ _ _ => true
  | .macr _ _ _ _ => true
  | .macw _ _ _ _ => true
  | .macz _ _ => true
  | .mrsv _ _ => true
  | .mrel _ => true
  | .mwait _ => true
  | .draw _ _ _ _ => true
  | .drawi _ _ _ _ => true
  | .rbits _ _ => true
  | .cvcfg _ _ => true
  | .cvset _ _ _ => true
  | .cvsta _ _ => true
  | .rlch _ _ => true
  | .heir _ a l => l.kind == 0#2 || a == 0#6
  | .estq _ _ _ => true
  | .lock _ _ _ => true
  | .unlock _ _ => true
  | .prom _ _ => true
  | .fulfil _ _ _ => true
  | .await _ _ _ => true
  | .rcq _ _ _ _ => true
  | .rct _ _ _ => true
  | .rcctlSteps _ _ => true
  | .rcctlLr _ _ => true
  | .rcctlBeta1 _ _ => true
  | .rcctlBeta2 _ _ => true
  | .rcctlEps _ _ => true
  | .rcctlFrame _ _ => true
  | .rcctlFlush _ _ => true
  | .rcctlLoadw _ _ => true
  | .rpkt _ _ _ => true
  | .rprcv _ _ _ _ => true
  | .srd _ _ _ => true
  | .swr _ _ _ => true
  | .sysc _ _ => true
  | .trap _ _ => true
  | .rte _ => true
  | .bkpt _ => true
  | .ctr _ _ l => l.idx != 0x21#8
  | .ctrMflagsClear _ _ => true
  | .bnds _ _ _ => true
  | .launch _ => false
  | .faultStatusResolved _ _ => false
  | .faultStatusDenied _ _ => false
  | .commonsWindowGrant _ _ _ => false
  | .commonsContributionSet _ _ => false
  | .translationInvalidation _ _ => false
  | .invalidationComplete _ => false
  | .watchpointWrite _ _ _ => false
  | .identify _ => false
  | .attest _ => false
  | .loadImage _ _ => false
  | .resetWarm _ => false
  | .resetFull _ => false
  | .readCounters _ => false
  | .setPowerLimit _ => false
  | .retrieveDump _ => false
  | .readErrorLog _ => false
  | .partReset _ => false
  | .bootImageRetry _ => false
  | .poolRefill _ _ => false
  | .slotAgeClose _ _ => false
  | .routerTimeout _ _ _ => false
  | .reductionPacketArrival _ _ => false
  | .patrolRead _ _ => false
  | .thermalThrottleStart _ _ => false
  | .throttleStep _ => false
  | .thermalReset _ _ _ => false
  | .atomicReply _ => false
  | .registerLineFill _ => false
  | .storeQueueDrain _ => false
  | .watchpointHit _ => false
  | .stopNotice _ => false
  | .resumeNotice _ => false
  | .courierCountDown _ _ _ => false
  | .copyFaultResume _ _ => false
  | .deferredPathResume _ => false
  | .faultPostAfterWait _ => false
  | .matrixStep _ => false
  | .tapsterOptimiserStep _ => false
  | .syscReply _ _ => false
  | .barWaitComplete _ => false
  | .gbarWaitComplete _ => false
  | .evwaitComplete _ => false
  | .awaitWake _ => false
  | .lockAcquireAfterWait _ => false
  | .cwaitComplete _ => false
  | .mwaitComplete _ => false
  | .enqAfterWait _ => false
  | .cpostAfterWait _ => false
  | .mtldAfterWait _ => false
  | .rpktAfterWait _ => false
  | .rprcvComplete _ => false
  | .blockAdmission _ _ _ _ => false
  | .nodeBatchAdmission _ _ _ => false
  | .estateHandlerAdmission _ _ _ => false
  | .preempt _ _ => false
  | .preemptResume _ _ _ => false
  | .convey _ => false
  | .conveyanceWriteRetry _ => false
  | .dumpCapture _ => false
  | .digestCompare _ _ => false
  | .blockCompletion _ _ => false
  | .gridCompletion _ _ => false
  | .xanRun _ => false
  | .xanContinue _ => false
  | .xanPorterHold _ => false
  | .xanPorterResolve _ _ _ => false
  | .xanPorterRelease _ _ => false
  | .xanPageEvict _ _ => false
  | .xanFocusLane _ _ => false
  | .xanFocusLaneAlone _ _ => false
  | .xanFocusOff _ => false
  | .xanStep _ => false
  | .xanStepForce _ => false
  | .xanSet _ _ _ _ => false
  | .xanSetForce _ _ _ _ => false
  | .xanWatch _ => false
  | .xanWatchDelete _ _ => false
  | .xanBreak _ _ _ => false
  | .xanBreakCore _ _ _ _ => false
  | .xanBkptBcast _ _ => false
  | .xanCv _ _ => false
  | .xanChain _ _ _ => false
  | .xanEvents _ => false
  | .xanBlock _ _ => false
  | .xanEstate _ => false
  | .loadReply _ => false
  | .peerRetryLimit _ _ => false
  | .uncorrectableSoftError _ => false
  | .unassignedOpcode w => !assignedOpcode (w.toNat / 2 ^ 22)
  | .managementBadRequest _ _ => false

/-- Well-formed instructions. -/
abbrev Instr.WellFormed (i : Instr) : Prop := i.wf = true

end Sys2Proof
end

