-- ==== Sys2Proof/Decode.lean ====
section
/-! DEFINITION. Decoding (spec/04 R76 to R89): total on words and on bytes, rejecting by name; then the encoder from the
same tables, and the decoding of a word numbered as the opcode table numbers it. -/

namespace Sys2Proof

/-- Why bytes are not an instruction. -/
inductive DecodeReject where
  /-- fewer bytes than the word, or than the word and its literal -/
  | truncated
  /-- a field marked 0, or a literal bit marked reserved, that is not 0: ILLEGAL_ENCODING (R78) -/
  | reservedField
  /-- an index that names no parameter: ILLEGAL_OPERAND (R89) -/
  | unassignedIndex
  deriving DecidableEq, Repr

/-- The fields of an instruction word (R76). -/
structure Fields where
  op : BitVec 10
  d : Reg
  a : Reg
  b : Reg
  m : Mods
  deriving DecidableEq, Repr

def fieldsOf (w : Word) : Fields :=
  { op := w.extractLsb' 22 10, d := w.extractLsb' 16 6, a := w.extractLsb' 10 6, b := w.extractLsb' 4 6,
    m := { lua := w.getLsbD 3, lub := w.getLsbD 2, stall := w.extractLsb' 0 2 } }

def wordOf (f : Fields) : Word :=
  f.op ++ f.d ++ f.a ++ f.b ++ BitVec.ofBool f.m.lua ++ BitVec.ofBool f.m.lub ++ f.m.stall

/-! ### Literal layouts (R85 to R89) -/

def LB.ofWord (w : Word) : Option LB :=
  some { offset := w.extractLsb' 0 32 }
def LB.toWord (l : LB) : Word :=
  l.offset

def LI.ofWord (w : Word) : Option LI :=
  some { imm := w.extractLsb' 0 32 }
def LI.toWord (l : LI) : Word :=
  l.imm

def LM.ofWord (w : Word) : Option LM :=
  if w &&& 0xFFF80000#32 = 0#32 then some { mode := w.extractLsb' 0 19 } else none
def LM.toWord (l : LM) : Word :=
  0#13 ++ l.mode

def LPlog.ofWord (w : Word) : Option LPlog :=
  if w &&& 0xFFFFFFF0#32 = 0#32 then some { table := w.extractLsb' 0 4 } else none
def LPlog.toWord (l : LPlog) : Word :=
  0#28 ++ l.table

def LShfl.ofWord (w : Word) : Option LShfl :=
  if w &&& 0xFFFFFF80#32 = 0#32 then some { kind := w.extractLsb' 5 2, value := w.extractLsb' 0 5 } else none
def LShfl.toWord (l : LShfl) : Word :=
  0#25 ++ l.kind ++ l.value

def LQswz.ofWord (w : Word) : Option LQswz :=
  if w &&& 0xFFFFFF00#32 = 0#32 then some { sel := w.extractLsb' 0 8 } else none
def LQswz.toWord (l : LQswz) : Word :=
  0#24 ++ l.sel

def LFlags.ofWord (w : Word) : Option LFlags :=
  if w &&& 0xFFFFFF80#32 = 0#32 then some { mask := w.extractLsb' 0 7 } else none
def LFlags.toWord (l : LFlags) : Word :=
  0#25 ++ l.mask

def LSel.ofWord (w : Word) : Option LSel :=
  if w &&& 0xFFFFFFE0#32 = 0#32 then some { sense := w.getLsbD 4, pred := w.extractLsb' 0 4 } else none
def LSel.toWord (l : LSel) : Word :=
  0#27 ++ BitVec.ofBool l.sense ++ l.pred

def LCount.ofWord (w : Word) : Option LCount :=
  if w &&& 0xFFFFFFC0#32 = 0#32 then some { count := w.extractLsb' 0 6 } else none
def LCount.toWord (l : LCount) : Word :=
  0#26 ++ l.count

def LSpec.ofWord (w : Word) : Option LSpec :=
  if w &&& 0xFFFF80C0#32 = 0#32 then some { width := w.extractLsb' 8 7, pos := w.extractLsb' 0 6 } else none
def LSpec.toWord (l : LSpec) : Word :=
  0#17 ++ l.width ++ 0#2 ++ l.pos

def LCmp.ofWord (w : Word) : Option LCmp :=
  if w &&& 0xFFFFFFF8#32 = 0#32 then some { cond := w.extractLsb' 0 3 } else none
def LCmp.toWord (l : LCmp) : Word :=
  0#29 ++ l.cond

def LCvt.ofWord (w : Word) : Option LCvt :=
  if w &&& 0xFFFFF000#32 = 0#32 then some { sat := w.getLsbD 11, rc := w.extractLsb' 8 3, dst := w.extractLsb' 4 4, src := w.extractLsb' 0 4 } else none
def LCvt.toWord (l : LCvt) : Word :=
  0#20 ++ BitVec.ofBool l.sat ++ l.rc ++ l.dst ++ l.src

def LQnt.ofWord (w : Word) : Option LQnt :=
  if w &&& 0xFFFFFFE0#32 = 0#32 then some { rc := w.extractLsb' 2 3, fmt := w.extractLsb' 0 2 } else none
def LQnt.toWord (l : LQnt) : Word :=
  0#27 ++ l.rc ++ l.fmt

def LDqnt.ofWord (w : Word) : Option LDqnt :=
  if w &&& 0xFFFFFFFC#32 = 0#32 then some { fmt := w.extractLsb' 0 2 } else none
def LDqnt.toWord (l : LDqnt) : Word :=
  0#30 ++ l.fmt

def LS.ofWord (w : Word) : Option LS :=
  some { scope := w.extractLsb' 29 3, ord := w.getLsbD 28, hint := w.extractLsb' 26 2, size := w.extractLsb' 23 3, offset := w.extractLsb' 0 23 }
def LS.toWord (l : LS) : Word :=
  l.scope ++ BitVec.ofBool l.ord ++ l.hint ++ l.size ++ l.offset

def LA.ofWord (w : Word) : Option LA :=
  some { scope := w.extractLsb' 29 3, order := w.extractLsb' 27 2, op := w.extractLsb' 23 4, width := w.getLsbD 22, ret := w.getLsbD 21, offset := w.extractLsb' 0 21 }
def LA.toWord (l : LA) : Word :=
  l.scope ++ l.order ++ l.op ++ BitVec.ofBool l.width ++ BitVec.ofBool l.ret ++ l.offset

def LFence.ofWord (w : Word) : Option LFence :=
  if w &&& 0x07FFFFFF#32 = 0#32 then some { scope := w.extractLsb' 29 3, kind := w.extractLsb' 27 2 } else none
def LFence.toWord (l : LFence) : Word :=
  l.scope ++ l.kind ++ 0#27

def LNode.ofWord (w : Word) : Option LNode :=
  if w &&& 0xFFFFFF00#32 = 0#32 then some { node := w.extractLsb' 0 8 } else none
def LNode.toWord (l : LNode) : Word :=
  0#24 ++ l.node

def LMloop.ofWord (w : Word) : Option LMloop :=
  if w &&& 0xFFFF0000#32 = 0#32 then some { k := w.extractLsb' 0 16 } else none
def LMloop.toWord (l : LMloop) : Word :=
  0#16 ++ l.k

def LMacr.ofWord (w : Word) : Option LMacr :=
  if w &&& 0xFFFFFFC0#32 = 0#32 then some { rc := w.extractLsb' 3 3, fmt := w.extractLsb' 0 3 } else none
def LMacr.toWord (l : LMacr) : Word :=
  0#26 ++ l.rc ++ l.fmt

def LMacw.ofWord (w : Word) : Option LMacw :=
  if w &&& 0xFFFFFFF8#32 = 0#32 then some { fmt := w.extractLsb' 0 3 } else none
def LMacw.toWord (l : LMacw) : Word :=
  0#29 ++ l.fmt

def LCvcfg.ofWord (w : Word) : Option LCvcfg :=
  if w &&& 0xFFFE0000#32 = 0#32 then some { mode := w.getLsbD 16, cap := w.extractLsb' 0 16 } else none
def LCvcfg.toWord (l : LCvcfg) : Word :=
  0#15 ++ BitVec.ofBool l.mode ++ l.cap

def LHeir.ofWord (w : Word) : Option LHeir :=
  if w &&& 0xFFFFFF00#32 = 0#32 then some { quiet := w.getLsbD 7, kind := w.extractLsb' 5 2, slot := w.extractLsb' 0 5 } else none
def LHeir.toWord (l : LHeir) : Word :=
  0#24 ++ BitVec.ofBool l.quiet ++ l.kind ++ l.slot

def LRcq.ofWord (w : Word) : Option LRcq :=
  if w &&& 0xFFFFFFFE#32 = 0#32 then some { train := w.getLsbD 0 } else none
def LRcq.toWord (l : LRcq) : Word :=
  0#31 ++ BitVec.ofBool l.train

def LTree.ofWord (w : Word) : Option LTree :=
  if w &&& 0xFFFFFFC0#32 = 0#32 then some { id := w.extractLsb' 0 6 } else none
def LTree.toWord (l : LTree) : Word :=
  0#26 ++ l.id

def LIdx.ofWord (w : Word) : Option LIdx :=
  if w &&& 0xFFFFFF00#32 = 0#32 then some { idx := w.extractLsb' 0 8 } else none
def LIdx.toWord (l : LIdx) : Word :=
  0#24 ++ l.idx

def LSysc.ofWord (w : Word) : Option LSysc :=
  if w &&& 0xFFFF0000#32 = 0#32 then some { n := w.extractLsb' 0 16 } else none
def LSysc.toWord (l : LSysc) : Word :=
  0#16 ++ l.n

def LBnds.ofWord (w : Word) : Option LBnds :=
  if w &&& 0xFFFFFFF0#32 = 0#32 then some { n := w.extractLsb' 0 4 } else none
def LBnds.toWord (l : LBnds) : Word :=
  0#28 ++ l.n

/-- A field marked 0 that holds another value, or a reserved literal bit: ILLEGAL_ENCODING (R78). -/
def accept (fieldsOk : Bool) (i : Option Instr) : Except DecodeReject Instr :=
  match fieldsOk, i with
  | true, some i => .ok i
  | _, _ => .error .reservedField

/-- LUB and the b field of a literal form of classes 2 and 3 are 0 (R315). -/
def noB (f : Fields) : Bool := f.b == 0#6 && !f.m.lub

/-- RET = 0 with d ≠ 0 is no encoding, but for CAS (R88). -/
def noReply (f : Fields) (l : LA) : Bool := l.ret || f.d == 0#6 || l.op == 10#4

/-- Class 0 by function number (R79); `none` where it is unassigned. -/
def decodeControl (fn : Nat) (f : Fields) (w : Word) : Option (Except DecodeReject Instr) :=
  match fn with
  | 0x01 => some (accept (f.d == 0#6 && f.a == 0#6 && f.b == 0#6) (some (.nop f.m)))
  | 0x02 => some (accept (f.d == 0#6 && f.a == 0#6 && f.b == 0#6) ((LB.ofWord w).map fun l => .bra f.m l))
  | 0x03 => some (accept (f.b == 0#6) ((LB.ofWord w).map fun l => .brc f.m f.d f.a l))
  | 0x04 => some (accept (f.b == 0#6) ((LB.ofWord w).map fun l => .brm f.m f.d f.a l))
  | 0x05 => some (accept (f.d == 0#6 && f.b == 0#6) (some (.brx f.m f.a)))
  | 0x06 => some (accept (f.d == 0#6 && f.a == 0#6 && f.b == 0#6) ((LB.ofWord w).map fun l => .brvd f.m l))
  | 0x07 => some (accept (f.d == 0#6 && f.a == 0#6 && f.b == 0#6) ((LB.ofWord w).map fun l => .call f.m l))
  | 0x08 => some (accept (f.d == 0#6 && f.a == 0#6 && f.b == 0#6) (some (.ret f.m)))
  | 0x09 => some (accept (f.d == 0#6 && f.a == 0#6 && f.b == 0#6) (some (.join f.m)))
  | 0x0A => some (accept (f.d == 0#6 && f.a == 0#6 && f.b == 0#6) (some (.yield f.m)))
  | 0x0B => some (accept (f.d == 0#6 && f.a == 0#6 && f.b == 0#6) (some (.exit f.m)))
  | 0x0C => some (accept (true) (some (.exitr f.m f.d f.a f.b)))
  | 0x0D => some (accept (f.d == 0#6 && f.a == 0#6 && f.b == 0#6) (some (.kill f.m)))
  | 0x0E => some (accept (f.b == 0#6) (some (.modeGuard f.m f.d f.a)))
  | 0x0F => some (accept (f.d == 0#6) ((LM.ofWord w).map fun l => .modeField f.m f.a f.b l))
  | 0x10 => some (accept (f.b == 0#6) (some (.gmode f.m f.d f.a)))
  | 0x11 => some (accept (f.d == 0#6 && f.a == 0#6 && f.b == 0#6) (some (.stall f.m)))
  | _ => none

/-- Class 1 by function number (R80); `none` where it is unassigned. -/
def decodeLane (fn : Nat) (f : Fields) (w : Word) : Option (Except DecodeReject Instr) :=
  match fn with
  | 0x00 => some (accept (f.b == 0#6) (some (.ballot f.m f.d f.a)))
  | 0x01 => some (accept (f.b == 0#6) (some (.pmovPToV f.m f.d f.a)))
  | 0x02 => some (accept (f.b == 0#6) (some (.pmovVToP f.m f.d f.a)))
  | 0x03 => some (accept (true) ((LPlog.ofWord w).map fun l => .plog f.m f.d f.a f.b l))
  | 0x04 => some (accept (true) (some (.vote f.m f.d f.a f.b)))
  | 0x05 => some (accept (true) (some (.shflIndex f.m f.d f.a f.b)))
  | 0x06 => some (accept (true) (some (.shflUniform f.m f.d f.a f.b)))
  | 0x07 => some (accept (f.b == 0#6) ((LShfl.ofWord w).map fun l => .shflLiteral f.m f.d f.a l))
  | 0x08 => some (accept (f.b == 0#6) ((LQswz.ofWord w).map fun l => .qswz f.m f.d f.a l))
  | 0x09 => some (accept (true) (some (.qdif f.m f.d f.a f.b)))
  | 0x0A => some (accept (f.a == 0#6 && f.b == 0#6) ((LFlags.ofWord w).map fun l => .fxc f.m f.d l))
  | 0x0B => some (accept (f.d == 0#6 && f.a == 0#6 && f.b == 0#6) ((LFlags.ofWord w).map fun l => .fxr f.m l))
  | 0x0C => some (accept (true) ((LSel.ofWord w).map fun l => .selVector f.m f.d f.a f.b l))
  | 0x0D => some (accept (true) ((LSel.ofWord w).map fun l => .selScalar f.m f.d f.a f.b l))
  | _ => none

/-- Class 2 by function number (R81); `none` where it is unassigned. -/
def decodeLogic (fn : Nat) (f : Fields) (w : Word) : Option (Except DecodeReject Instr) :=
  match fn with
  | 0x00 => some (accept (true) (some (.andVector f.m f.d f.a f.b)))
  | 0x01 => some (accept (true) (some (.andScalar f.m f.d f.a f.b)))
  | 0x02 => some (accept (true) (some (.orVector f.m f.d f.a f.b)))
  | 0x03 => some (accept (true) (some (.orScalar f.m f.d f.a f.b)))
  | 0x04 => some (accept (true) (some (.xorVector f.m f.d f.a f.b)))
  | 0x05 => some (accept (true) (some (.xorScalar f.m f.d f.a f.b)))
  | 0x06 => some (accept (f.b == 0#6) (some (.not f.m f.d f.a)))
  | 0x08 => some (accept (true) (some (.shlVector f.m f.d f.a f.b)))
  | 0x09 => some (accept (true) (some (.shlScalar f.m f.d f.a f.b)))
  | 0x0A => some (accept (true) (some (.shrVector f.m f.d f.a f.b)))
  | 0x0B => some (accept (true) (some (.shrScalar f.m f.d f.a f.b)))
  | 0x0C => some (accept (true) (some (.sarVector f.m f.d f.a f.b)))
  | 0x0D => some (accept (true) (some (.sarScalar f.m f.d f.a f.b)))
  | 0x0E => some (accept (true) (some (.rolVector f.m f.d f.a f.b)))
  | 0x0F => some (accept (true) (some (.rolScalar f.m f.d f.a f.b)))
  | 0x10 => some (accept (true) (some (.bfiVector f.m f.d f.a f.b)))
  | 0x11 => some (accept (true) (some (.bfiScalar f.m f.d f.a f.b)))
  | 0x12 => some (accept (true) (some (.bfxVector f.m f.d f.a f.b)))
  | 0x13 => some (accept (true) (some (.bfxScalar f.m f.d f.a f.b)))
  | 0x14 => some (accept (f.b == 0#6) (some (.brev f.m f.d f.a)))
  | 0x16 => some (accept (f.b == 0#6) (some (.clz f.m f.d f.a)))
  | 0x18 => some (accept (f.b == 0#6) (some (.popc f.m f.d f.a)))
  | 0x1A => some (accept (true) (some (.leaVector f.m f.d f.a f.b)))
  | 0x1B => some (accept (true) (some (.leaScalar f.m f.d f.a f.b)))
  | 0x1C => some (accept (f.a == 0#6) (some (.movVector f.m f.d f.b)))
  | 0x1D => some (accept (f.a == 0#6) (some (.movScalar f.m f.d f.b)))
  | 0x20 => some (accept (noB f) ((LI.ofWord w).map fun l => .andLiteral f.m f.d f.a l))
  | 0x22 => some (accept (noB f) ((LI.ofWord w).map fun l => .orLiteral f.m f.d f.a l))
  | 0x24 => some (accept (noB f) ((LI.ofWord w).map fun l => .xorLiteral f.m f.d f.a l))
  | 0x28 => some (accept (noB f) ((LCount.ofWord w).map fun l => .shlLiteral f.m f.d f.a l))
  | 0x2A => some (accept (noB f) ((LCount.ofWord w).map fun l => .shrLiteral f.m f.d f.a l))
  | 0x2C => some (accept (noB f) ((LCount.ofWord w).map fun l => .sarLiteral f.m f.d f.a l))
  | 0x2E => some (accept (noB f) ((LCount.ofWord w).map fun l => .rolLiteral f.m f.d f.a l))
  | 0x30 => some (accept (noB f) ((LSpec.ofWord w).map fun l => .bfiLiteral f.m f.d f.a l))
  | 0x32 => some (accept (noB f) ((LSpec.ofWord w).map fun l => .bfxLiteral f.m f.d f.a l))
  | 0x3A => some (accept (noB f) ((LI.ofWord w).map fun l => .leaLiteral f.m f.d f.a l))
  | 0x3C => some (accept (f.a == 0#6 && noB f) ((LI.ofWord w).map fun l => .movk f.m f.d l))
  | _ => none

/-- Class 3 by function number (R81); `none` where it is unassigned. -/
def decodeArith (fn : Nat) (f : Fields) (w : Word) : Option (Except DecodeReject Instr) :=
  match fn with
  | 0x00 => some (accept (true) (some (.addVector f.m f.d f.a f.b)))
  | 0x01 => some (accept (true) (some (.addScalar f.m f.d f.a f.b)))
  | 0x02 => some (accept (true) (some (.subVector f.m f.d f.a f.b)))
  | 0x03 => some (accept (true) (some (.subScalar f.m f.d f.a f.b)))
  | 0x04 => some (accept (true) (some (.mulVector f.m f.d f.a f.b)))
  | 0x05 => some (accept (true) (some (.mulScalar f.m f.d f.a f.b)))
  | 0x06 => some (accept (true) (some (.mulhVector f.m f.d f.a f.b)))
  | 0x07 => some (accept (true) (some (.mulhScalar f.m f.d f.a f.b)))
  | 0x08 => some (accept (true) (some (.fmaVector f.m f.d f.a f.b)))
  | 0x09 => some (accept (true) (some (.fmaScalar f.m f.d f.a f.b)))
  | 0x0A => some (accept (true) (some (.divVector f.m f.d f.a f.b)))
  | 0x0B => some (accept (true) (some (.divScalar f.m f.d f.a f.b)))
  | 0x0C => some (accept (true) (some (.remVector f.m f.d f.a f.b)))
  | 0x0D => some (accept (true) (some (.remScalar f.m f.d f.a f.b)))
  | 0x0E => some (accept (true) (some (.minVector f.m f.d f.a f.b)))
  | 0x0F => some (accept (true) (some (.minScalar f.m f.d f.a f.b)))
  | 0x10 => some (accept (true) (some (.maxVector f.m f.d f.a f.b)))
  | 0x11 => some (accept (true) (some (.maxScalar f.m f.d f.a f.b)))
  | 0x12 => some (accept (true) (some (.clampVector f.m f.d f.a f.b)))
  | 0x13 => some (accept (true) (some (.clampScalar f.m f.d f.a f.b)))
  | 0x14 => some (accept (true) ((LCmp.ofWord w).map fun l => .cmpVector f.m f.d f.a f.b l))
  | 0x15 => some (accept (true) ((LCmp.ofWord w).map fun l => .cmpScalar f.m f.d f.a f.b l))
  | 0x16 => some (accept (f.b == 0#6) (some (.abs f.m f.d f.a)))
  | 0x18 => some (accept (f.b == 0#6) (some (.neg f.m f.d f.a)))
  | 0x1A => some (accept (f.b == 0#6) (some (.sqrt f.m f.d f.a)))
  | 0x1C => some (accept (f.b == 0#6) (some (.fcls f.m f.d f.a)))
  | 0x1E => some (accept (f.b == 0#6) (some (.rdx f.m f.d f.a)))
  | 0x20 => some (accept (noB f) ((LI.ofWord w).map fun l => .addLiteral f.m f.d f.a l))
  | 0x22 => some (accept (noB f) ((LI.ofWord w).map fun l => .subLiteral f.m f.d f.a l))
  | 0x24 => some (accept (noB f) ((LI.ofWord w).map fun l => .mulLiteral f.m f.d f.a l))
  | 0x26 => some (accept (noB f) ((LI.ofWord w).map fun l => .mulhLiteral f.m f.d f.a l))
  | 0x28 => some (accept (noB f) ((LI.ofWord w).map fun l => .fmaLiteral f.m f.d f.a l))
  | 0x2A => some (accept (noB f) ((LI.ofWord w).map fun l => .divLiteral f.m f.d f.a l))
  | 0x2C => some (accept (noB f) ((LI.ofWord w).map fun l => .remLiteral f.m f.d f.a l))
  | 0x2E => some (accept (noB f) ((LI.ofWord w).map fun l => .minLiteral f.m f.d f.a l))
  | 0x30 => some (accept (noB f) ((LI.ofWord w).map fun l => .maxLiteral f.m f.d f.a l))
  | 0x32 => some (accept (noB f) ((LI.ofWord w).map fun l => .clampLiteral f.m f.d f.a l))
  | _ => none

/-- Class 4 by function number (R82); `none` where it is unassigned. -/
def decodeConvert (fn : Nat) (f : Fields) (w : Word) : Option (Except DecodeReject Instr) :=
  match fn with
  | 0x00 => some (accept (f.b == 0#6) ((LCvt.ofWord w).map fun l => .cvt f.m f.d f.a l))
  | 0x01 => some (accept (true) ((LQnt.ofWord w).map fun l => .qnt f.m f.d f.a f.b l))
  | 0x02 => some (accept (true) ((LDqnt.ofWord w).map fun l => .dqnt f.m f.d f.a f.b l))
  | 0x03 => some (accept (f.b == 0#6) (some (.amaxValue f.m f.d f.a)))
  | 0x04 => some (accept (f.b == 0#6) (some (.amaxExponent f.m f.d f.a)))
  | 0x05 => some (accept (f.b == 0#6) (some (.exp2 f.m f.d f.a)))
  | 0x06 => some (accept (f.b == 0#6) (some (.log2 f.m f.d f.a)))
  | 0x07 => some (accept (f.b == 0#6) (some (.sin f.m f.d f.a)))
  | 0x08 => some (accept (f.b == 0#6) (some (.cos f.m f.d f.a)))
  | 0x09 => some (accept (f.b == 0#6) (some (.rcp f.m f.d f.a)))
  | 0x0A => some (accept (f.b == 0#6) (some (.rsq f.m f.d f.a)))
  | _ => none

/-- Class 5 by function number (R83); `none` where it is unassigned. -/
def decodeLoadStore (fn : Nat) (f : Fields) (w : Word) : Option (Except DecodeReject Instr) :=
  match fn with
  | 0x00 => some (accept (f.b == 0#6) ((LS.ofWord w).map fun l => .ldVectorBase f.m f.d f.a l))
  | 0x01 => some (accept (f.b == 0#6) ((LS.ofWord w).map fun l => .ldScalarBase f.m f.d f.a l))
  | 0x02 => some (accept (f.b == 0#6) ((LS.ofWord w).map fun l => .ldk f.m f.d f.a l))
  | 0x03 => some (accept (f.b == 0#6) ((LS.ofWord w).map fun l => .ldsVectorBase f.m f.d f.a l))
  | 0x04 => some (accept (f.b == 0#6) ((LS.ofWord w).map fun l => .ldsScalarBase f.m f.d f.a l))
  | 0x05 => some (accept (f.b == 0#6) ((LS.ofWord w).map fun l => .ldxVectorBase f.m f.d f.a l))
  | 0x06 => some (accept (f.b == 0#6) ((LS.ofWord w).map fun l => .ldxScalarBase f.m f.d f.a l))
  | 0x07 => some (accept (f.d == 0#6) ((LS.ofWord w).map fun l => .stVectorBase f.m f.a f.b l))
  | 0x08 => some (accept (f.d == 0#6) ((LS.ofWord w).map fun l => .stScalarBase f.m f.a f.b l))
  | 0x09 => some (accept (f.d == 0#6) ((LS.ofWord w).map fun l => .stsVectorBase f.m f.a f.b l))
  | 0x0A => some (accept (f.d == 0#6) ((LS.ofWord w).map fun l => .stsScalarBase f.m f.a f.b l))
  | 0x0B => some (accept (f.d == 0#6) ((LS.ofWord w).map fun l => .stxVectorBase f.m f.a f.b l))
  | 0x0C => some (accept (f.d == 0#6) ((LS.ofWord w).map fun l => .stxScalarBase f.m f.a f.b l))
  | 0x0D => some (accept (f.a == 0#6 && f.b == 0#6) ((LS.ofWord w).map fun l => .spld f.m f.d l))
  | 0x0E => some (accept (f.d == 0#6 && f.a == 0#6) ((LS.ofWord w).map fun l => .spst f.m f.b l))
  | 0x0F => some (accept (f.d == 0#6 && f.b == 0#6) ((LS.ofWord w).map fun l => .prefVectorBase f.m f.a l))
  | 0x10 => some (accept (f.d == 0#6 && f.b == 0#6) ((LS.ofWord w).map fun l => .prefScalarBase f.m f.a l))
  | _ => none

/-- Class 6 by function number (R83); `none` where it is unassigned. -/
def decodeAtomic (fn : Nat) (f : Fields) (w : Word) : Option (Except DecodeReject Instr) :=
  match fn with
  | 0x00 => some (match LA.ofWord w with
    | some l => accept (noReply f l) (some (.atomVectorBase f.m f.d f.a f.b l))
    | none => .error .reservedField)
  | 0x01 => some (match LA.ofWord w with
    | some l => accept (noReply f l) (some (.atomScalarBase f.m f.d f.a f.b l))
    | none => .error .reservedField)
  | 0x02 => some (match LA.ofWord w with
    | some l => accept (noReply f l) (some (.atomsScratchVectorBase f.m f.d f.a f.b l))
    | none => .error .reservedField)
  | 0x03 => some (match LA.ofWord w with
    | some l => accept (noReply f l) (some (.atomsScratchScalarBase f.m f.d f.a f.b l))
    | none => .error .reservedField)
  | 0x04 => some (match LA.ofWord w with
    | some l => accept (noReply f l) (some (.atomsCommonsVectorBase f.m f.d f.a f.b l))
    | none => .error .reservedField)
  | 0x05 => some (match LA.ofWord w with
    | some l => accept (noReply f l) (some (.atomsCommonsScalarBase f.m f.d f.a f.b l))
    | none => .error .reservedField)
  | 0x06 => some (match LA.ofWord w with
    | some l => accept (noReply f l) (some (.atomrVectorBase f.m f.d f.a f.b l))
    | none => .error .reservedField)
  | 0x07 => some (match LA.ofWord w with
    | some l => accept (noReply f l) (some (.atomrScalarBase f.m f.d f.a f.b l))
    | none => .error .reservedField)
  | 0x08 => some (accept (f.d == 0#6 && f.a == 0#6 && f.b == 0#6) ((LFence.ofWord w).map fun l => .fence f.m l))
  | _ => none

/-- Class 7 by function number (R84); `none` where it is unassigned. -/
def decodeSync (fn : Nat) (f : Fields) (w : Word) : Option (Except DecodeReject Instr) :=
  match fn with
  | 0x00 => some (accept (f.d == 0#6) (some (.bari f.m f.a f.b)))
  | 0x01 => some (accept (f.d == 0#6 && f.b == 0#6) (some (.bar f.m f.a)))
  | 0x02 => some (accept (f.d == 0#6) (some (.bara f.m f.a f.b)))
  | 0x03 => some (accept (f.d == 0#6 && f.b == 0#6) (some (.barw f.m f.a)))
  | 0x04 => some (accept (f.d == 0#6 && f.a == 0#6 && f.b == 0#6) (some (.gbar f.m)))
  | 0x05 => some (accept (f.d == 0#6 && f.b == 0#6) (some (.evpub f.m f.a)))
  | 0x06 => some (accept (f.b == 0#6) (some (.evwait f.m f.d f.a)))
  | 0x07 => some (accept (f.b == 0#6) (some (.evpeek f.m f.d f.a)))
  | 0x08 => some (accept (f.d == 0#6) ((LNode.ofWord w).map fun l => .enq f.m f.a f.b l))
  | 0x09 => some (accept (f.d == 0#6 && f.a == 0#6 && f.b == 0#6) ((LNode.ofWord w).map fun l => .enqf f.m l))
  | _ => none

/-- Class 8 by function number (R84); `none` where it is unassigned. -/
def decodeCopy (fn : Nat) (f : Fields) (_w : Word) : Option (Except DecodeReject Instr) :=
  match fn with
  | 0x00 => some (accept (f.d == 0#6 && f.b == 0#6) (some (.cpost f.m f.a)))
  | 0x01 => some (accept (f.a == 0#6 && f.b == 0#6) (some (.cbatch f.m f.d)))
  | 0x02 => some (accept (f.d == 0#6 && f.b == 0#6) (some (.cwait f.m f.a)))
  | 0x03 => some (accept (f.b == 0#6) (some (.cstat f.m f.d f.a)))
  | _ => none

/-- Class 9 by function number (R84); `none` where it is unassigned. -/
def decodeMatrix (fn : Nat) (f : Fields) (w : Word) : Option (Except DecodeReject Instr) :=
  match fn with
  | 0x00 => some (accept (true) ((LMloop.ofWord w).map fun l => .mloop f.m f.d f.a f.b l))
  | 0x01 => some (accept (f.b == 0#6) (some (.mtld f.m f.d f.a)))
  | 0x02 => some (accept (f.d == 0#6) ((LMacr.ofWord w).map fun l => .macr f.m f.a f.b l))
  | 0x03 => some (accept (f.b == 0#6) ((LMacw.ofWord w).map fun l => .macw f.m f.d f.a l))
  | 0x04 => some (accept (f.a == 0#6 && f.b == 0#6) (some (.macz f.m f.d)))
  | 0x05 => some (accept (f.a == 0#6 && f.b == 0#6) (some (.mrsv f.m f.d)))
  | 0x06 => some (accept (f.d == 0#6 && f.a == 0#6 && f.b == 0#6) (some (.mrel f.m)))
  | 0x07 => some (accept (f.d == 0#6 && f.a == 0#6 && f.b == 0#6) (some (.mwait f.m)))
  | _ => none

/-- Class A by function number (R84); `none` where it is unassigned. -/
def decodeChoice (fn : Nat) (f : Fields) (w : Word) : Option (Except DecodeReject Instr) :=
  match fn with
  | 0x00 => some (accept (true) (some (.draw f.m f.d f.a f.b)))
  | 0x01 => some (accept (true) (some (.drawi f.m f.d f.a f.b)))
  | 0x02 => some (accept (f.a == 0#6 && f.b == 0#6) (some (.rbits f.m f.d)))
  | 0x03 => some (accept (f.d == 0#6 && f.a == 0#6 && f.b == 0#6) ((LCvcfg.ofWord w).map fun l => .cvcfg f.m l))
  | 0x04 => some (accept (f.d == 0#6) (some (.cvset f.m f.a f.b)))
  | 0x05 => some (accept (f.a == 0#6 && f.b == 0#6) (some (.cvsta f.m f.d)))
  | 0x06 => some (accept (f.d == 0#6 && f.b == 0#6) (some (.rlch f.m f.a)))
  | _ => none

/-- Class B by function number (R84); `none` where it is unassigned. -/
def decodeEstate (fn : Nat) (f : Fields) (w : Word) : Option (Except DecodeReject Instr) :=
  match fn with
  | 0x00 => some (match LHeir.ofWord w with
    | some l => accept (f.d == 0#6 && f.b == 0#6 && (l.kind == 0#2 || f.a == 0#6)) (some (.heir f.m f.a l))
    | none => .error .reservedField)
  | 0x01 => some (accept (f.b == 0#6) (some (.estq f.m f.d f.a)))
  | 0x02 => some (accept (f.b == 0#6) (some (.lock f.m f.d f.a)))
  | 0x03 => some (accept (f.d == 0#6 && f.b == 0#6) (some (.unlock f.m f.a)))
  | 0x04 => some (accept (f.d == 0#6 && f.b == 0#6) (some (.prom f.m f.a)))
  | 0x05 => some (accept (f.d == 0#6) (some (.fulfil f.m f.a f.b)))
  | 0x06 => some (accept (f.b == 0#6) (some (.await f.m f.d f.a)))
  | _ => none

/-- Class C by function number (R84); `none` where it is unassigned. -/
def decodeMesh (fn : Nat) (f : Fields) (w : Word) : Option (Except DecodeReject Instr) :=
  match fn with
  | 0x00 => some (accept (f.b == 0#6) ((LRcq.ofWord w).map fun l => .rcq f.m f.d f.a l))
  | 0x01 => some (accept (f.d == 0#6) (some (.rct f.m f.a f.b)))
  | 0x02 =>
    some (if f.d == 0#6 && f.b == 0#6 && (w &&& 0xFFFFFF00#32) = 0#32 then
      match w.toNat with
      | 0 => .ok (.rcctlSteps f.m f.a)
      | 1 => .ok (.rcctlLr f.m f.a)
      | 2 => .ok (.rcctlBeta1 f.m f.a)
      | 3 => .ok (.rcctlBeta2 f.m f.a)
      | 4 => .ok (.rcctlEps f.m f.a)
      | 5 => .ok (.rcctlFrame f.m f.a)
      | 6 => .ok (.rcctlFlush f.m f.a)
      | 8 => .ok (.rcctlLoadw f.m f.a)
      | _ => .error .unassignedIndex
    else .error .reservedField)
  | 0x03 => some (accept (f.d == 0#6 && f.b == 0#6) ((LTree.ofWord w).map fun l => .rpkt f.m f.a l))
  | 0x04 => some (accept (f.b == 0#6) ((LTree.ofWord w).map fun l => .rprcv f.m f.d f.a l))
  | _ => none

/-- Class D by function number (R84); `none` where it is unassigned. -/
def decodeSystem (fn : Nat) (f : Fields) (w : Word) : Option (Except DecodeReject Instr) :=
  match fn with
  | 0x00 => some (accept (f.a == 0#6 && f.b == 0#6) ((LIdx.ofWord w).map fun l => .srd f.m f.d l))
  | 0x01 => some (accept (f.d == 0#6 && f.b == 0#6) ((LIdx.ofWord w).map fun l => .swr f.m f.a l))
  | 0x02 => some (accept (f.d == 0#6 && f.a == 0#6 && f.b == 0#6) ((LSysc.ofWord w).map fun l => .sysc f.m l))
  | 0x03 => some (accept (f.d == 0#6 && f.a == 0#6 && f.b == 0#6) ((LIdx.ofWord w).map fun l => .trap f.m l))
  | 0x04 => some (accept (f.d == 0#6 && f.a == 0#6 && f.b == 0#6) (some (.rte f.m)))
  | 0x05 => some (accept (f.d == 0#6 && f.a == 0#6 && f.b == 0#6) (some (.bkpt f.m)))
  | 0x06 => some (accept (f.a == 0#6 && f.b == 0#6)
    ((LIdx.ofWord w).map fun l => if l.idx = 0x21#8 then .ctrMflagsClear f.m f.d else .ctr f.m f.d l))
  | 0x07 => some (accept (f.d == 0#6 && f.b == 0#6) ((LBnds.ofWord w).map fun l => .bnds f.m f.a l))
  | _ => none

/-- The decoding of a word whose literal word, where its opcode has one, is `lit`; an unassigned opcode is the row
UNASSIGNED_OPCODE (R76, R79). -/
def decodeWord (w lit : Word) : Except DecodeReject Instr :=
  let f := fieldsOf w
  let fn := f.op.toNat % 64
  let r : Option (Except DecodeReject Instr) :=
    match f.op.toNat / 64 with
    | 0 => decodeControl fn f lit
    | 1 => decodeLane fn f lit
    | 2 => decodeLogic fn f lit
    | 3 => decodeArith fn f lit
    | 4 => decodeConvert fn f lit
    | 5 => decodeLoadStore fn f lit
    | 6 => decodeAtomic fn f lit
    | 7 => decodeSync fn f lit
    | 8 => decodeCopy fn f lit
    | 9 => decodeMatrix fn f lit
    | 10 => decodeChoice fn f lit
    | 11 => decodeEstate fn f lit
    | 12 => decodeMesh fn f lit
    | 13 => decodeSystem fn f lit
    | _ => none
  r.getD (.ok (.unassignedOpcode w))

/-- Whether an opcode takes a literal word (R79 to R84). -/
def takesLiteral (op : BitVec 10) : Bool :=
  let fn := op.toNat % 64
  match op.toNat / 64 with
  | 0 => (0x02 ≤ fn && fn ≤ 0x04) || (0x06 ≤ fn && fn ≤ 0x07) || fn == 0x0F
  | 1 => fn == 0x03 || (0x07 ≤ fn && fn ≤ 0x08) || (0x0A ≤ fn && fn ≤ 0x0D)
  | 2 => fn == 0x20 || fn == 0x22 || fn == 0x24 || fn == 0x28 || fn == 0x2A || fn == 0x2C || fn == 0x2E || fn == 0x30 || fn == 0x32 || fn == 0x3A || fn == 0x3C
  | 3 => fn == 0x14 || fn == 0x15 || fn == 0x20 || fn == 0x22 || fn == 0x24 || fn == 0x26 || fn == 0x28 || fn == 0x2A || fn == 0x2C || fn == 0x2E || fn == 0x30 || fn == 0x32
  | 4 => (0x00 ≤ fn && fn ≤ 0x02)
  | 5 => (0x00 ≤ fn && fn ≤ 0x10)
  | 6 => (0x00 ≤ fn && fn ≤ 0x08)
  | 7 => (0x08 ≤ fn && fn ≤ 0x09)
  | 8 => false
  | 9 => fn == 0x00 || (0x02 ≤ fn && fn ≤ 0x03)
  | 10 => fn == 0x03
  | 11 => fn == 0x00
  | 12 => fn == 0x00 || (0x02 ≤ fn && fn ≤ 0x04)
  | 13 => (0x00 ≤ fn && fn ≤ 0x03) || (0x06 ≤ fn && fn ≤ 0x07)
  | _ => false

/-- Four bytes, lowest address first (R1). -/
def wordOfBytes (b0 b1 b2 b3 : Byte) : Word := b3 ++ b2 ++ b1 ++ b0

def bytesOfWord (w : Word) : List Byte :=
  [w.extractLsb' 0 8, w.extractLsb' 8 8, w.extractLsb' 16 8, w.extractLsb' 24 8]

/-- Reads one instruction from words; answers it with the words that follow. -/
def decode (ws : List Word) : Except DecodeReject (Instr × List Word) :=
  match ws with
  | [] => .error .truncated
  | w :: rest =>
    if takesLiteral (fieldsOf w).op then
      match rest with
      | [] => .error .truncated
      | lit :: rest => (decodeWord w lit).map fun i => (i, rest)
    else (decodeWord w 0#32).map fun i => (i, rest)

/-- The whole words of a list of bytes. -/
def wordsOfBytes : List Byte → List Word
  | b0 :: b1 :: b2 :: b3 :: rest => wordOfBytes b0 b1 b2 b3 :: wordsOfBytes rest
  | _ => []

/-- Reads one instruction from bytes in memory order (R76, R77). -/
def decodeBytes (bs : List Byte) : Except DecodeReject Instr :=
  (decode (wordsOfBytes bs)).map Prod.fst

/-- The instruction whose bits are w, bit 0 the least significant of the first word (spec/opcode_table.json). -/
def decodeTableWord (nbits w : Nat) : Option Instr :=
  let w := w % 2 ^ nbits
  match decodeBytes (bytesOfWord (BitVec.ofNat 32 w) ++ bytesOfWord (BitVec.ofNat 32 (w / 2 ^ 32))) with
  | .ok i => some i
  | .error _ => none

/-! ### The encoder -/

def enc (op : BitVec 10) (m : Mods) (d a b : Reg) : Word := wordOf { op := op, d := d, a := a, b := b, m := m }

/-- The words of an instruction (R76 to R89); `[]` for the events, which have no words. -/
def encode (i : Instr) : List Word :=
  match i with
  | .nop m => [enc 0x001#10 m 0#6 0#6 0#6]
  | .bra m l => [enc 0x002#10 m 0#6 0#6 0#6, l.toWord]
  | .brc m d a l => [enc 0x003#10 m d a 0#6, l.toWord]
  | .brm m d a l => [enc 0x004#10 m d a 0#6, l.toWord]
  | .brx m a => [enc 0x005#10 m 0#6 a 0#6]
  | .brvd m l => [enc 0x006#10 m 0#6 0#6 0#6, l.toWord]
  | .call m l => [enc 0x007#10 m 0#6 0#6 0#6, l.toWord]
  | .ret m => [enc 0x008#10 m 0#6 0#6 0#6]
  | .join m => [enc 0x009#10 m 0#6 0#6 0#6]
  | .yield m => [enc 0x00A#10 m 0#6 0#6 0#6]
  | .exit m => [enc 0x00B#10 m 0#6 0#6 0#6]
  | .exitr m d a b => [enc 0x00C#10 m d a b]
  | .kill m => [enc 0x00D#10 m 0#6 0#6 0#6]
  | .modeGuard m d a => [enc 0x00E#10 m d a 0#6]
  | .modeField m a b l => [enc 0x00F#10 m 0#6 a b, l.toWord]
  | .gmode m d a => [enc 0x010#10 m d a 0#6]
  | .stall m => [enc 0x011#10 m 0#6 0#6 0#6]
  | .ballot m d a => [enc 0x040#10 m d a 0#6]
  | .pmovPToV m d a => [enc 0x041#10 m d a 0#6]
  | .pmovVToP m d a => [enc 0x042#10 m d a 0#6]
  | .plog m d a b l => [enc 0x043#10 m d a b, l.toWord]
  | .vote m d a b => [enc 0x044#10 m d a b]
  | .shflIndex m d a b => [enc 0x045#10 m d a b]
  | .shflUniform m d a b => [enc 0x046#10 m d a b]
  | .shflLiteral m d a l => [enc 0x047#10 m d a 0#6, l.toWord]
  | .qswz m d a l => [enc 0x048#10 m d a 0#6, l.toWord]
  | .qdif m d a b => [enc 0x049#10 m d a b]
  | .fxc m d l => [enc 0x04A#10 m d 0#6 0#6, l.toWord]
  | .fxr m l => [enc 0x04B#10 m 0#6 0#6 0#6, l.toWord]
  | .selVector m d a b l => [enc 0x04C#10 m d a b, l.toWord]
  | .selScalar m d a b l => [enc 0x04D#10 m d a b, l.toWord]
  | .andVector m d a b => [enc 0x080#10 m d a b]
  | .andScalar m d a b => [enc 0x081#10 m d a b]
  | .andLiteral m d a l => [enc 0x0A0#10 m d a 0#6, l.toWord]
  | .orVector m d a b => [enc 0x082#10 m d a b]
  | .orScalar m d a b => [enc 0x083#10 m d a b]
  | .orLiteral m d a l => [enc 0x0A2#10 m d a 0#6, l.toWord]
  | .xorVector m d a b => [enc 0x084#10 m d a b]
  | .xorScalar m d a b => [enc 0x085#10 m d a b]
  | .xorLiteral m d a l => [enc 0x0A4#10 m d a 0#6, l.toWord]
  | .not m d a => [enc 0x086#10 m d a 0#6]
  | .shlVector m d a b => [enc 0x088#10 m d a b]
  | .shlScalar m d a b => [enc 0x089#10 m d a b]
  | .shlLiteral m d a l => [enc 0x0A8#10 m d a 0#6, l.toWord]
  | .shrVector m d a b => [enc 0x08A#10 m d a b]
  | .shrScalar m d a b => [enc 0x08B#10 m d a b]
  | .shrLiteral m d a l => [enc 0x0AA#10 m d a 0#6, l.toWord]
  | .sarVector m d a b => [enc 0x08C#10 m d a b]
  | .sarScalar m d a b => [enc 0x08D#10 m d a b]
  | .sarLiteral m d a l => [enc 0x0AC#10 m d a 0#6, l.toWord]
  | .rolVector m d a b => [enc 0x08E#10 m d a b]
  | .rolScalar m d a b => [enc 0x08F#10 m d a b]
  | .rolLiteral m d a l => [enc 0x0AE#10 m d a 0#6, l.toWord]
  | .bfiVector m d a b => [enc 0x090#10 m d a b]
  | .bfiScalar m d a b => [enc 0x091#10 m d a b]
  | .bfiLiteral m d a l => [enc 0x0B0#10 m d a 0#6, l.toWord]
  | .bfxVector m d a b => [enc 0x092#10 m d a b]
  | .bfxScalar m d a b => [enc 0x093#10 m d a b]
  | .bfxLiteral m d a l => [enc 0x0B2#10 m d a 0#6, l.toWord]
  | .brev m d a => [enc 0x094#10 m d a 0#6]
  | .clz m d a => [enc 0x096#10 m d a 0#6]
  | .popc m d a => [enc 0x098#10 m d a 0#6]
  | .leaVector m d a b => [enc 0x09A#10 m d a b]
  | .leaScalar m d a b => [enc 0x09B#10 m d a b]
  | .leaLiteral m d a l => [enc 0x0BA#10 m d a 0#6, l.toWord]
  | .movVector m d b => [enc 0x09C#10 m d 0#6 b]
  | .movScalar m d b => [enc 0x09D#10 m d 0#6 b]
  | .movk m d l => [enc 0x0BC#10 m d 0#6 0#6, l.toWord]
  | .addVector m d a b => [enc 0x0C0#10 m d a b]
  | .addScalar m d a b => [enc 0x0C1#10 m d a b]
  | .addLiteral m d a l => [enc 0x0E0#10 m d a 0#6, l.toWord]
  | .subVector m d a b => [enc 0x0C2#10 m d a b]
  | .subScalar m d a b => [enc 0x0C3#10 m d a b]
  | .subLiteral m d a l => [enc 0x0E2#10 m d a 0#6, l.toWord]
  | .mulVector m d a b => [enc 0x0C4#10 m d a b]
  | .mulScalar m d a b => [enc 0x0C5#10 m d a b]
  | .mulLiteral m d a l => [enc 0x0E4#10 m d a 0#6, l.toWord]
  | .mulhVector m d a b => [enc 0x0C6#10 m d a b]
  | .mulhScalar m d a b => [enc 0x0C7#10 m d a b]
  | .mulhLiteral m d a l => [enc 0x0E6#10 m d a 0#6, l.toWord]
  | .fmaVector m d a b => [enc 0x0C8#10 m d a b]
  | .fmaScalar m d a b => [enc 0x0C9#10 m d a b]
  | .fmaLiteral m d a l => [enc 0x0E8#10 m d a 0#6, l.toWord]
  | .divVector m d a b => [enc 0x0CA#10 m d a b]
  | .divScalar m d a b => [enc 0x0CB#10 m d a b]
  | .divLiteral m d a l => [enc 0x0EA#10 m d a 0#6, l.toWord]
  | .remVector m d a b => [enc 0x0CC#10 m d a b]
  | .remScalar m d a b => [enc 0x0CD#10 m d a b]
  | .remLiteral m d a l => [enc 0x0EC#10 m d a 0#6, l.toWord]
  | .minVector m d a b => [enc 0x0CE#10 m d a b]
  | .minScalar m d a b => [enc 0x0CF#10 m d a b]
  | .minLiteral m d a l => [enc 0x0EE#10 m d a 0#6, l.toWord]
  | .maxVector m d a b => [enc 0x0D0#10 m d a b]
  | .maxScalar m d a b => [enc 0x0D1#10 m d a b]
  | .maxLiteral m d a l => [enc 0x0F0#10 m d a 0#6, l.toWord]
  | .clampVector m d a b => [enc 0x0D2#10 m d a b]
  | .clampScalar m d a b => [enc 0x0D3#10 m d a b]
  | .clampLiteral m d a l => [enc 0x0F2#10 m d a 0#6, l.toWord]
  | .cmpVector m d a b l => [enc 0x0D4#10 m d a b, l.toWord]
  | .cmpScalar m d a b l => [enc 0x0D5#10 m d a b, l.toWord]
  | .abs m d a => [enc 0x0D6#10 m d a 0#6]
  | .neg m d a => [enc 0x0D8#10 m d a 0#6]
  | .sqrt m d a => [enc 0x0DA#10 m d a 0#6]
  | .fcls m d a => [enc 0x0DC#10 m d a 0#6]
  | .rdx m d a => [enc 0x0DE#10 m d a 0#6]
  | .cvt m d a l => [enc 0x100#10 m d a 0#6, l.toWord]
  | .qnt m d a b l => [enc 0x101#10 m d a b, l.toWord]
  | .dqnt m d a b l => [enc 0x102#10 m d a b, l.toWord]
  | .amaxValue m d a => [enc 0x103#10 m d a 0#6]
  | .amaxExponent m d a => [enc 0x104#10 m d a 0#6]
  | .exp2 m d a => [enc 0x105#10 m d a 0#6]
  | .log2 m d a => [enc 0x106#10 m d a 0#6]
  | .sin m d a => [enc 0x107#10 m d a 0#6]
  | .cos m d a => [enc 0x108#10 m d a 0#6]
  | .rcp m d a => [enc 0x109#10 m d a 0#6]
  | .rsq m d a => [enc 0x10A#10 m d a 0#6]
  | .ldVectorBase m d a l => [enc 0x140#10 m d a 0#6, l.toWord]
  | .ldScalarBase m d a l => [enc 0x141#10 m d a 0#6, l.toWord]
  | .ldk m d a l => [enc 0x142#10 m d a 0#6, l.toWord]
  | .ldsVectorBase m d a l => [enc 0x143#10 m d a 0#6, l.toWord]
  | .ldsScalarBase m d a l => [enc 0x144#10 m d a 0#6, l.toWord]
  | .ldxVectorBase m d a l => [enc 0x145#10 m d a 0#6, l.toWord]
  | .ldxScalarBase m d a l => [enc 0x146#10 m d a 0#6, l.toWord]
  | .stVectorBase m a b l => [enc 0x147#10 m 0#6 a b, l.toWord]
  | .stScalarBase m a b l => [enc 0x148#10 m 0#6 a b, l.toWord]
  | .stsVectorBase m a b l => [enc 0x149#10 m 0#6 a b, l.toWord]
  | .stsScalarBase m a b l => [enc 0x14A#10 m 0#6 a b, l.toWord]
  | .stxVectorBase m a b l => [enc 0x14B#10 m 0#6 a b, l.toWord]
  | .stxScalarBase m a b l => [enc 0x14C#10 m 0#6 a b, l.toWord]
  | .spld m d l => [enc 0x14D#10 m d 0#6 0#6, l.toWord]
  | .spst m b l => [enc 0x14E#10 m 0#6 0#6 b, l.toWord]
  | .prefVectorBase m a l => [enc 0x14F#10 m 0#6 a 0#6, l.toWord]
  | .prefScalarBase m a l => [enc 0x150#10 m 0#6 a 0#6, l.toWord]
  | .atomVectorBase m d a b l => [enc 0x180#10 m d a b, l.toWord]
  | .atomScalarBase m d a b l => [enc 0x181#10 m d a b, l.toWord]
  | .atomsScratchVectorBase m d a b l => [enc 0x182#10 m d a b, l.toWord]
  | .atomsScratchScalarBase m d a b l => [enc 0x183#10 m d a b, l.toWord]
  | .atomsCommonsVectorBase m d a b l => [enc 0x184#10 m d a b, l.toWord]
  | .atomsCommonsScalarBase m d a b l => [enc 0x185#10 m d a b, l.toWord]
  | .atomrVectorBase m d a b l => [enc 0x186#10 m d a b, l.toWord]
  | .atomrScalarBase m d a b l => [enc 0x187#10 m d a b, l.toWord]
  | .fence m l => [enc 0x188#10 m 0#6 0#6 0#6, l.toWord]
  | .bari m a b => [enc 0x1C0#10 m 0#6 a b]
  | .bar m a => [enc 0x1C1#10 m 0#6 a 0#6]
  | .bara m a b => [enc 0x1C2#10 m 0#6 a b]
  | .barw m a => [enc 0x1C3#10 m 0#6 a 0#6]
  | .gbar m => [enc 0x1C4#10 m 0#6 0#6 0#6]
  | .evpub m a => [enc 0x1C5#10 m 0#6 a 0#6]
  | .evwait m d a => [enc 0x1C6#10 m d a 0#6]
  | .evpeek m d a => [enc 0x1C7#10 m d a 0#6]
  | .enq m a b l => [enc 0x1C8#10 m 0#6 a b, l.toWord]
  | .enqf m l => [enc 0x1C9#10 m 0#6 0#6 0#6, l.toWord]
  | .cpost m a => [enc 0x200#10 m 0#6 a 0#6]
  | .cbatch m d => [enc 0x201#10 m d 0#6 0#6]
  | .cwait m a => [enc 0x202#10 m 0#6 a 0#6]
  | .cstat m d a => [enc 0x203#10 m d a 0#6]
  | .mloop m d a b l => [enc 0x240#10 m d a b, l.toWord]
  | .mtld m d a => [enc 0x241#10 m d a 0#6]
  | .macr m a b l => [enc 0x242#10 m 0#6 a b, l.toWord]
  | .macw m d a l => [enc 0x243#10 m d a 0#6, l.toWord]
  | .macz m d => [enc 0x244#10 m d 0#6 0#6]
  | .mrsv m d => [enc 0x245#10 m d 0#6 0#6]
  | .mrel m => [enc 0x246#10 m 0#6 0#6 0#6]
  | .mwait m => [enc 0x247#10 m 0#6 0#6 0#6]
  | .draw m d a b => [enc 0x280#10 m d a b]
  | .drawi m d a b => [enc 0x281#10 m d a b]
  | .rbits m d => [enc 0x282#10 m d 0#6 0#6]
  | .cvcfg m l => [enc 0x283#10 m 0#6 0#6 0#6, l.toWord]
  | .cvset m a b => [enc 0x284#10 m 0#6 a b]
  | .cvsta m d => [enc 0x285#10 m d 0#6 0#6]
  | .rlch m a => [enc 0x286#10 m 0#6 a 0#6]
  | .heir m a l => [enc 0x2C0#10 m 0#6 a 0#6, l.toWord]
  | .estq m d a => [enc 0x2C1#10 m d a 0#6]
  | .lock m d a => [enc 0x2C2#10 m d a 0#6]
  | .unlock m a => [enc 0x2C3#10 m 0#6 a 0#6]
  | .prom m a => [enc 0x2C4#10 m 0#6 a 0#6]
  | .fulfil m a b => [enc 0x2C5#10 m 0#6 a b]
  | .await m d a => [enc 0x2C6#10 m d a 0#6]
  | .rcq m d a l => [enc 0x300#10 m d a 0#6, l.toWord]
  | .rct m a b => [enc 0x301#10 m 0#6 a b]
  | .rcctlSteps m a => [enc 0x302#10 m 0#6 a 0#6, 0x00000000#32]
  | .rcctlLr m a => [enc 0x302#10 m 0#6 a 0#6, 0x00000001#32]
  | .rcctlBeta1 m a => [enc 0x302#10 m 0#6 a 0#6, 0x00000002#32]
  | .rcctlBeta2 m a => [enc 0x302#10 m 0#6 a 0#6, 0x00000003#32]
  | .rcctlEps m a => [enc 0x302#10 m 0#6 a 0#6, 0x00000004#32]
  | .rcctlFrame m a => [enc 0x302#10 m 0#6 a 0#6, 0x00000005#32]
  | .rcctlFlush m a => [enc 0x302#10 m 0#6 a 0#6, 0x00000006#32]
  | .rcctlLoadw m a => [enc 0x302#10 m 0#6 a 0#6, 0x00000008#32]
  | .rpkt m a l => [enc 0x303#10 m 0#6 a 0#6, l.toWord]
  | .rprcv m d a l => [enc 0x304#10 m d a 0#6, l.toWord]
  | .srd m d l => [enc 0x340#10 m d 0#6 0#6, l.toWord]
  | .swr m a l => [enc 0x341#10 m 0#6 a 0#6, l.toWord]
  | .sysc m l => [enc 0x342#10 m 0#6 0#6 0#6, l.toWord]
  | .trap m l => [enc 0x343#10 m 0#6 0#6 0#6, l.toWord]
  | .rte m => [enc 0x344#10 m 0#6 0#6 0#6]
  | .bkpt m => [enc 0x345#10 m 0#6 0#6 0#6]
  | .ctr m d l => [enc 0x346#10 m d 0#6 0#6, l.toWord]
  | .ctrMflagsClear m d => [enc 0x346#10 m d 0#6 0#6, 0x00000021#32]
  | .bnds m a l => [enc 0x347#10 m 0#6 a 0#6, l.toWord]
  | .launch _ => []
  | .faultStatusResolved _ _ => []
  | .faultStatusDenied _ _ => []
  | .commonsWindowGrant _ _ _ => []
  | .commonsContributionSet _ _ => []
  | .translationInvalidation _ _ => []
  | .invalidationComplete _ => []
  | .watchpointWrite _ _ _ => []
  | .identify _ => []
  | .attest _ => []
  | .loadImage _ _ => []
  | .resetWarm _ => []
  | .resetFull _ => []
  | .readCounters _ => []
  | .setPowerLimit _ => []
  | .retrieveDump _ => []
  | .readErrorLog _ => []
  | .partReset _ => []
  | .bootImageRetry _ => []
  | .poolRefill _ _ => []
  | .slotAgeClose _ _ => []
  | .routerTimeout _ _ _ => []
  | .reductionPacketArrival _ _ => []
  | .patrolRead _ _ => []
  | .thermalThrottleStart _ _ => []
  | .throttleStep _ => []
  | .thermalReset _ _ _ => []
  | .atomicReply _ => []
  | .registerLineFill _ => []
  | .storeQueueDrain _ => []
  | .watchpointHit _ => []
  | .stopNotice _ => []
  | .resumeNotice _ => []
  | .courierCountDown _ _ _ => []
  | .copyFaultResume _ _ => []
  | .deferredPathResume _ => []
  | .faultPostAfterWait _ => []
  | .matrixStep _ => []
  | .tapsterOptimiserStep _ => []
  | .syscReply _ _ => []
  | .barWaitComplete _ => []
  | .gbarWaitComplete _ => []
  | .evwaitComplete _ => []
  | .awaitWake _ => []
  | .lockAcquireAfterWait _ => []
  | .cwaitComplete _ => []
  | .mwaitComplete _ => []
  | .enqAfterWait _ => []
  | .cpostAfterWait _ => []
  | .mtldAfterWait _ => []
  | .rpktAfterWait _ => []
  | .rprcvComplete _ => []
  | .blockAdmission _ _ _ _ => []
  | .nodeBatchAdmission _ _ _ => []
  | .estateHandlerAdmission _ _ _ => []
  | .preempt _ _ => []
  | .preemptResume _ _ _ => []
  | .convey _ => []
  | .conveyanceWriteRetry _ => []
  | .dumpCapture _ => []
  | .digestCompare _ _ => []
  | .blockCompletion _ _ => []
  | .gridCompletion _ _ => []
  | .xanRun _ => []
  | .xanContinue _ => []
  | .xanPorterHold _ => []
  | .xanPorterResolve _ _ _ => []
  | .xanPorterRelease _ _ => []
  | .xanPageEvict _ _ => []
  | .xanFocusLane _ _ => []
  | .xanFocusLaneAlone _ _ => []
  | .xanFocusOff _ => []
  | .xanStep _ => []
  | .xanStepForce _ => []
  | .xanSet _ _ _ _ => []
  | .xanSetForce _ _ _ _ => []
  | .xanWatch _ => []
  | .xanWatchDelete _ _ => []
  | .xanBreak _ _ _ => []
  | .xanBreakCore _ _ _ _ => []
  | .xanBkptBcast _ _ => []
  | .xanCv _ _ => []
  | .xanChain _ _ _ => []
  | .xanEvents _ => []
  | .xanBlock _ _ => []
  | .xanEstate _ => []
  | .loadReply _ => []
  | .peerRetryLimit _ _ => []
  | .uncorrectableSoftError _ => []
  | .unassignedOpcode w => [w]
  | .managementBadRequest _ _ => []

/-- The bytes of an instruction, in memory order (R1, R77). -/
def encodeBytes (i : Instr) : List Byte := (encode i).flatMap bytesOfWord

end Sys2Proof
end

