-- ==== Sys2Proof/Machine/State.lean ====
section
/-! DEFINITION. The state of the part as plain data: threads, teams, blocks, grids, cores, dies, memory, processes and
the hub, and State.reset, the part right after reset. INVENTORY.md lists each piece with the rule that names it. -/

namespace Sys2Proof.Machine

open Sys2Proof

/-- Sparse memory: (address, byte) pairs in one canonical form, addresses strictly rising and no byte equal to what an
unlisted address reads as, 0 (log 4, log 5). -/
abbrev Memory := List Host.Cell

/-- A sparse table of w-bit values by number, in the same canonical form: numbers rising, no listed 0. -/
abbrev Table (w : Nat) := List (Nat × BitVec w)

/-! ### Threads -/

/-- What a thread is, apart from running or waiting, which the masks say (R22). -/
inductive Life where
  /-- running or waiting -/
  | live
  /-- it executed EXIT or EXITR -/
  | exited
  /-- it was exited when its team entered (R194, R253, R269) -/
  | exitedAtEntry
  /-- killed by a consumed uncorrectable error (R40) -/
  | dead
  deriving DecidableEq, Repr

/-- A thread's choice-vector state and log region (R237 to R239). -/
structure ChoiceState where
  stream : Double
  loga : Double
  gen : Word
  ord : Word
  occ3 : Word
  occ4 : Word
  n : Half
  sn : Half
  rn : Half
  cap : Half
  div : Half
  sta : Byte
  rwc : Byte
  chain : Word
  accraw : Word
  accset : Byte
  sites : Vector Word 64
  result : Vector Word 8
  pending : BitVec 256
  record : Table 64
  source : Table 64
  deriving DecidableEq, Repr

/-- One thread: what it keeps to itself (R31, R35). Its home lane is its index in Team.threads. -/
structure Thread where
  /-- physical position 32 × row + position (R21) -/
  pos : Nat
  life : Life
  v : Vector Word 64
  /-- bit i: the thread's entry of vi is freed (R57) -/
  freed : Double
  /-- bit i: predicate pi; bit 0 is not read (R50) -/
  p : Half
  /-- NX UF OF DZ NV in [4:0], BND 5, SAT 6 (R71) -/
  flags : Byte
  cv : ChoiceState
  /-- outward results of a sampled original, in order; what its shadow replays (R179) -/
  outLog : List (List Word)
  deriving DecidableEq, Repr

/-! ### Team structures -/

/-- An entry of the pending-path stack (R27). -/
structure PathEntry where
  gmask : Mask
  resv : BitVec 18
  ftag : BitVec 12
  kind : BitVec 2
  pc : Double
  deriving DecidableEq, Repr

/-- A replay-queue entry (R205); `ops` holds operand k of position p at number 1024k + p, and `bad` lists the numbers of operands that
were captured from uncorrectable words (R209, R211). -/
structure ReplayEntry where
  pc : Double
  word : Word
  lit : Word
  state : Byte
  mode : Word
  pmask : Mask
  ops : Table 64
  bad : List Nat := []
  deriving DecidableEq, Repr

/-- The trap frame (R204). -/
structure TrapFrame where
  tpc : Double
  rpc : Double
  smode : Word
  cause : Byte
  detail : Byte
  active : Byte
  rqn : Byte
  vaddr : Double
  info : Double
  word : Word
  lit : Word
  edepth : Half
  skid : Half
  lmask : Mask
  smask : Mask
  deriving DecidableEq, Repr

/-- A slot of the estate table (R261). -/
structure EstateSlot where
  addr : Double
  count : Word
  htag : Word
  seq : Word
  resv : BitVec 88
  quiet : Bool
  hkind : BitVec 2
  brv : Bool
  resv3 : Bool
  kind : BitVec 3
  deriving DecidableEq, Repr

/-- The memory space of an access (R125, R200 INFO coding): 3 is an image. -/
inductive Space where
  | device
  | scratch
  | commons
  | image
  deriving DecidableEq, Repr

/-- One lane's store in a team's store queue (R163, R217). `key` is the physical address of a device store, the scratch
offset, or the die's commons address. -/
structure StoreEntry where
  space : Space
  addr : Double
  key : Nat
  bytes : List Byte
  pc : Double
  row : Nat
  pos : Nat
  lane : Nat
  core : Nat
  word : Word
  lit : Word
  /-- the team's INSN once the store has committed (SKID, R203) -/
  after : Double
  /-- a release at device scope or wider (R165) -/
  publishes : Bool
  deriving DecidableEq, Repr

/-- A 32-bit register as a write-back names it. -/
inductive RegRef where
  | v (lane : Nat) (i : Reg)
  | s (i : Reg)
  | p (lane : Nat) (i : BitVec 4)
  deriving DecidableEq, Repr

/-- A load or atomic whose reply has not been written back (R90, R214). -/
structure InFlight where
  atomic : Bool
  pc : Double
  writes : List (RegRef × Word)
  deriving DecidableEq, Repr

/-- A fixed-latency write still inside its window (R91): distance since its issue, its latency, its address, and the
values its registers held before. -/
structure RecentWrite where
  dist : Nat
  lat : Nat
  pc : Double
  olds : List (RegRef × Word)
  deriving DecidableEq, Repr

/-- A request of a batch: its number at the Courier, its status, whether it is complete (R153). -/
structure BatchItem where
  req : Nat
  status : Byte
  done : Bool
  deriving DecidableEq, Repr

/-- What a waiting instruction waits for (R317), with what it captured. -/
inductive Wait where
  | await (d : Reg) (w : Double)
  | bar (obj : Nat) (phase : Bool)
  | barw (obj : Nat) (phase : Bool)
  | cpost (req : Nat)
  | cwait (batch : Word)
  | enq (node : Nat) (records : List (List Word)) (frees : List Nat)
  | evwait (d : Reg) (blk : Nat)
  | gbar (gen : Nat)
  | lock (d : BitVec 4) (w : Double) (lanes : Mask)
  | mwait (upto : Nat)
  | rpkt (id : Nat) (data : List (Option Word)) (frees : List Nat)
  | rprcv (d : Reg) (sa : Reg) (id : Nat) (lanes : Mask)
  | sysc (service : Half)
  | mtld (id : Nat)
  | mloop (id : Nat)
  /-- EXIT of a sampled block's last team, until both digests are complete (R181) -/
  | digest
  deriving DecidableEq, Repr

/-- A replay that the team owes: at RTE, at a deferred resumption, or after pre-emption (R206, R208, R317). -/
structure PendingReplay where
  slot : Option Nat
  entry : ReplayEntry
  /-- lanes whose fault was denied, by fault-queue index: they raise PAGE_FAULT (R143) -/
  denied : List (Mask × BitVec 12)
  /-- the replay belongs to an RTE: a trap in it keeps the frame's RPC (R203) -/
  rte : Bool
  /-- re-execution of an instruction that waited (R317): the completed steps or the recorded phase or generation -/
  again : Bool
  deriving DecidableEq, Repr

/-- Whether a team's request to Serai is open, or answered and not yet taken up (R415, R317). -/
inductive SyscState where
  | idle
  | sent
  | replied
  deriving DecidableEq, Repr

/-- A line of the register cache (R52): vector line 32i + g for vi row g; a line of the scalar, predicate or lane-flag area, as
AUXDIRTY numbers it; a line of the freed map, as FDIRTY numbers it (R72). -/
inductive RegLine where
  | vector (k : Nat)
  | aux (k : Nat)
  | freed (k : Nat)
  deriving DecidableEq, Repr

/-- How a team stands towards issue (R29, R53, R141, R191). -/
inductive RunState where
  /-- it issues at pc -/
  | ready
  /-- its youngest instruction waits (R317) -/
  | waiting (w : Wait)
  /-- nothing runs until the entry that take_next chooses is ready: a lone entry on top, or the first to be resolved of the run of
  DEFERRED entries there; meanwhile it stands on the stack (R22). An arriving path, when there is one, parks at the given address
  afterwards (R29, R32) -/
  | choosing (park : Option Double)
  /-- the whole running path waits for every listed fault, each with its lanes; the replay it owes then, if any, heads `replay` (R26, R141, R208) -/
  | wholePath (ftags : List (BitVec 12 × Mask))
  /-- a pass waits because the die's fault queue is full (R144) -/
  | queueFull
  /-- its grid's dump freezes it (R215) -/
  | frozen
  /-- its next instruction reads lines that are not in the register cache (R53) -/
  | missing (lines : List RegLine)
  /-- the model's own, within one step: what its next instruction captures at issue is looked for, when it reads none of the `n`
  registers from `d` (R203; log 1) -/
  | probing (d n : Nat)
  deriving DecidableEq, Repr

/-- What the debugger sees of a stopped team (R225 to R229, R234). -/
structure StopState where
  /-- 0 breakpoint or BKPT, 1 watchpoint, 2 a stop notice -/
  reason : BitVec 2
  /-- by row (R226) -/
  skid : List Nat
  exact : Bool
  /-- the row that the stop concerns, when it concerns one (R221) -/
  row : Option Nat
  /-- the record kept when ACTIVE was non-zero at the stop (R234) -/
  kept : Option TrapFrame
  deriving DecidableEq, Repr

/-- A copy of KIND 4 or 5 that a team of a sampled block or of a shadow has posted: its request and, once it is complete, its
status (R179). -/
structure PeerCopy where
  req : Nat
  status : Option Byte
  /-- what its bytes add to the digest (R180) -/
  sum : BitVec 128
  deriving DecidableEq, Repr

/-- What a team is (R194, R253, R260, R269). -/
inductive TeamKind where
  | grid
  | node (n : Nat) (slot : Nat)
  | proposal (slot : Nat)
  | handler (dead : Nat)
  deriving DecidableEq, Repr

/-- The register state that a save or restore handler context sets aside (R213). -/
structure SetAside where
  restore : Bool
  threads : List Thread
  s : Vector Word 64
  mode : Word
  mask : Mask
  pc : Double
  nvec : Nat
  nscal : Nat
  run : RunState
  active : Byte
  stack : List PathEntry
  replay : List PendingReplay
  resumed : Bool
  /-- atomic replies that the team awaits -/
  inflight : List InFlight
  deriving DecidableEq, Repr

/-- A charge that waits for its grant: the die cycles for which it has waited, and the charge (R197). -/
structure StepWait where
  waited : Nat
  charge : Nat
  deriving DecidableEq, Repr

/-- A team and everything its context image holds (R52, R71, R72). -/
structure Team where
  /-- the model's own name of the team -/
  uid : Nat
  gid : Nat
  /-- its block, by the model's number -/
  blk : Nat
  kind : TeamKind
  tix : Nat
  tag : Word
  core : Nat
  quad : Nat
  slot : Nat
  imga : Double
  ngrp : Nat
  nvec : Nat
  nscal : Nat
  pc : Double
  mode : Word
  cause : Byte
  mask : Mask
  threads : List Thread
  s : Vector Word 64
  /-- top of the stack first (R26) -/
  stack : List PathEntry
  rq : Vector ReplayEntry 8
  frame : TrapFrame
  estate : Vector EstateSlot 32
  ssp : Double
  /-- the spill-stack pointer of the image, which takes effect at RTE or at resumption (R128) -/
  sspImage : Double
  /-- the spill region, by offset from its base (R128) -/
  spillBase : Double
  spill : Memory
  auxDirty : Double
  fDirty : Double
  dirty : BitVec 2048
  /-- format tags of the vector lines (R60) -/
  tags : BitVec 4096
  /-- lines that are not in the register cache: vector lines, and the others as AUXDIRTY and FDIRTY number them (R53, R54) -/
  absent : BitVec 2048
  auxAbsent : Double
  fAbsent : Double
  /-- bytes of the image in memory, by offset, that no other field holds: the slots of the vector lines as they were last stored
  (R60), fields that the part does not read (R3), and areas of rows and registers that the team does not have (R71) -/
  image : Memory
  /-- position-map entries that a handler has stored, by position, as 0x10000 plus the half, while the map as stored gives no home
  lane to exactly one position each (log 20) -/
  mapWritten : Table 17
  storeQ : List StoreEntry
  inflight : List InFlight
  recent : List RecentWrite
  run : RunState
  replay : List PendingReplay
  /-- the next instruction executes without the arrival check (R30) -/
  resumed : Bool
  atomrN : Nat
  openBatch : List BatchItem
  /-- closed batches by number in order of closing, from 1; newest first (R153) -/
  batches : List (Nat × List BatchItem)
  /-- batches closed so far; the k-th has the number that R153's sequence gives k -/
  batchCount : Nat
  /-- its copies of KIND 4 and 5 in the order of posting, while its block is sampled or a shadow -/
  peerCopies : List PeerCopy
  /-- what the words that its instructions of class B write add to the digest: the lowest lane, the place in its sequence, and the sum (R180) -/
  outSums : List (Nat × Nat × BitVec 128)
  gbarGen : Nat
  /-- the charge that its next instruction, an MLOOP or RCQ that has not issued, waits for (R197) -/
  tokenWait : Option StepWait
  /-- a shadow's team that has the matrix unit, for which it takes no slot (R179, R280) -/
  shadowUnit : Bool
  /-- what a waiting instruction's replay-queue entry holds (R317) -/
  waitEntry : ReplayEntry
  /-- it waits in a replay of RTE, of this replay-queue entry (R203) -/
  waitRte : Option Nat
  sysc : SyscState
  insn : Double
  passes : Double
  tokw : Double
  rcmiss : Double
  split : Double
  cbytes : Double
  aside : Option SetAside
  /-- header bytes 0x00C to 0x013 as a save or restore handler has written them, newest first: they are read at resumption (R73) -/
  header : List (Nat × Byte)
  /-- frames of the fatal faults that have struck it, the first one first: what its dump records of them (R216, R218) -/
  fatal : List TrapFrame
  stop : Option StopState
  /-- one instruction granted to a stopped team (R228) -/
  grant : Bool
  /-- the address at which the stopped instruction issues once without the breakpoint check (R258) -/
  passBreak : Option Double
  /-- issue slots of its quadrant since it last issued (R191) -/
  since : Nat
  /-- the last 8 instruction words it has issued, newest first: no more are unfinished (R202) -/
  lastWords : List Word
  /-- lane focus: forced, and whether with `alone` (R228, R236) -/
  focus : Option Bool
  /-- of a debugged grid's team: the rows for which each of its last 64 instructions issued a pass, newest first, and how many
  instructions it has issued (R226) -/
  history : List Word
  issuedN : Nat
  /-- the text of its path forms no digest: the EXIT replayed after ORDER_VIOLATION kind 3 (R206) -/
  exitChecked : Bool
  preempted : Bool
  /-- its block is being pre-empted while an instruction that it has issued waits for faults or for room in the fault queue: how many
  replays it owed then, that instruction's the first (R212) -/
  mustFinish : Option Nat
  /-- CYCLE and its block's scratchpad as they stood when a dump froze it (R215, R216) -/
  faultAt : Option (Double × Memory)
  deriving DecidableEq, Repr

/-! ### Blocks and grids -/

/-- What a matrix instruction that runs on has still to do: MLOOP with its accumulator, its format block, increment, steps in
all and completed, rounding, NFZ, whether the next step's charge is paid, the die cycles for which it has waited for it, and the
scratchpad at its issue; or MTLD with its tile and source (R276, R282, R197, R171). -/
inductive MatrixWork where
  | loop (acc fmtBlk : Nat) (inc : Word) (k n : Nat) (rnd : BitVec 3) (nfz paid : Bool) (waited : Nat) (seen : Memory)
  | load (tile src : Nat) (seen : Memory)
  deriving DecidableEq, Repr

/-- A matrix instruction that has issued and not finished (R275, R276, R279); `id` numbers them in the block's order of issue. -/
structure MatrixJob where
  id : Nat
  team : Nat
  work : MatrixWork
  deriving DecidableEq, Repr

/-- The block image in memory (R74): what stands there until the part writes it again at pre-emption (R63, R75). -/
structure BlockImage where
  tfull : Half
  mflags : Word
  sdirty : List Nat
  /-- tiles whose bytes are known: `tiles` holds them -/
  loaded : Half
  tiles : Memory
  /-- bytes stored into tiles that nothing has loaded, as 0x100 plus the byte -/
  strays : Table 9
  accs : Table 64
  /-- bytes stored elsewhere, as 0x100 plus the byte -/
  other : Table 9
  deriving DecidableEq, Repr

/-- A block on its core (R74, R130, R178). -/
structure Block where
  uid : Nat
  gid : Nat
  index : Nat
  core : Nat
  die : Nat
  bimga : Double
  scrsz : Nat
  ntile : Nat
  nacc : Nat
  scratch : Memory
  /-- dirty 256-byte scratch lines, rising (R63) -/
  sdirty : List Nat
  tfull : Half
  /-- tiles that have been loaded at least once: their bytes; others read Config.tileByte (R74) -/
  loaded : Half
  tiles : Memory
  /-- bytes of tiles not loaded that a handler has put into the block image, as 0x100 plus the byte (R56, R75) -/
  strays : Table 9
  accs : Table 64
  mflags : Word
  image : BlockImage
  saveArea : Memory
  saveBase : Double
  /-- the save area has been assigned: the block has been pre-empted once (R213) -/
  saveAssigned : Bool
  jobs : List MatrixJob
  nextJob : Nat
  published : Bool
  resident : Bool
  preempting : Bool
  /-- its copies are complete and its save handlers have begun (R212) -/
  saving : Bool
  resuming : Bool
  complete : Bool
  sampled : Bool
  shadowOf : Option Nat
  /-- a shadow's stores, seen by its own loads alone (R179), as 0x100 plus the byte: device by physical address, commons
  by core × 2^19 + offset -/
  privDevice : Table 9
  privCommons : Table 9
  digest : BitVec 128
  digestDone : Bool
  mismatch : Bool
  deriving DecidableEq, Repr

/-- A bound register (R155). -/
structure Bound where
  base : Double
  size : Double
  lo : Word
  hi : Word
  format : Byte
  space : BitVec 2
  policy : BitVec 2
  deriving DecidableEq, Repr

/-- A bound register's value before a BNDS whose writer has not yet released at device scope: stores of other teams may still be
checked against it (R157). -/
structure OldBound where
  reg : Nat
  writer : Nat
  old : Bound
  deriving DecidableEq, Repr

/-- A slot of a coalescing node: free, open or closed with its records, or running; `order` is the time of its first record, `q`
the number of the batch in the node's closing order (R193, R194, R240). -/
inductive SlotState where
  | free
  | filling (count order : Nat)
  | closed (count : Nat) (byAge : Bool) (order q : Nat)
  | running (count : Nat)
  deriving DecidableEq, Repr

/-- A coalescing node (R192). -/
structure Node where
  entry : Double
  buf : Double
  nslot : Nat
  recw : Nat
  age : Nat
  thresh : Nat
  slots : List SlotState
  /-- where the ring goes on for the next free slot -/
  openIx : Nat
  /-- batches closed so far -/
  batches : Nat
  deriving DecidableEq, Repr

/-- A reduction packet: 32 elements, `none` for padding, and its status (R301, R302). -/
structure Packet where
  round : Nat
  data : List (Option Word)
  incomplete : Bool
  deriving DecidableEq, Repr

/-- A router's entry of one tree (R299, R301): slot 0 is the local slot, slot k + 1 that of child k. -/
structure Router where
  tree : Nat
  die : Nat
  core : Nat
  children : List Nat
  rnd : BitVec 3
  tout : Nat
  round : Nat
  now : List (Option Packet)
  next : List (Option Packet)
  held : Option Packet
  timedOut : Bool
  /-- the result of the round that has completed, while its parent has no place for it (R301) -/
  out : Option Packet
  deriving DecidableEq, Repr

/-- A port entry (R299). -/
structure Port where
  aliasId : Nat
  die : Nat
  core : Nat
  tree : Nat
  target : Nat
  deriving DecidableEq, Repr

/-- A packet on its way to a slot of a router (R298, R301). -/
structure PacketInFlight where
  tree : Nat
  die : Nat
  core : Nat
  slot : Nat
  /-- the core it comes from -/
  src : Nat
  packet : Packet
  deriving DecidableEq, Repr

/-- A proposal that the Relay has built (R252, R253). -/
structure Proposal where
  chain : Nat
  step : Nat
  source : List Double
  kind : BitVec 4
  badSplice : Bool
  /-- its step has been settled (R254) -/
  settled : Bool
  deriving DecidableEq, Repr

/-- A closed slot of the Relay's node; `order` is the time of its first record (R193, R194, R253). -/
structure ProposalBatch where
  proposals : List Proposal
  byAge : Bool
  order : Nat
  deriving DecidableEq, Repr

/-- The Relay of a grid (R250, R253): its policy, and the built-in node; `since` is the time of its open slot's first record. -/
structure Relay where
  pentry : Double
  chst : Double
  reca : Double
  steps : Nat
  level : Byte
  mutDesc : BitVec 256
  waiting : List Proposal
  since : Nat
  closed : List ProposalBatch
  running : List (Nat × List Proposal)
  deriving DecidableEq, Repr

/-- A conveyance that waits for its turn or for a fault (R267, R425). -/
structure Conveyance where
  team : Nat
  fault : Option (BitVec 12 × Nat)
  deriving DecidableEq, Repr

/-- An estate-handler team not yet admitted (R269); `holding` is the dead team's slot as it was. -/
structure HandlerDue where
  dead : Nat
  slot : Nat
  tag : Word
  heirless : Bool
  number : Nat
  holding : EstateSlot
  needCore : Option Nat
  needDie : Option Nat
  estate : Vector EstateSlot 32
  deriving DecidableEq, Repr

/-- A breakpoint command held until admission: on every core that the grid is admitted to, or on the one core it names (R258, R284). -/
structure HeldBreak where
  addr : Double
  bcast : BitVec 2
  core : Option Nat
  deriving DecidableEq, Repr

/-- A grid (R182 to R186). -/
structure Grid where
  gid : Nat
  pid : Nat
  tid : Nat
  queue : Nat
  /-- the 256 bytes of its launch descriptor (R184) -/
  desc : List Byte
  place : List (Nat × Nat)
  debugged : Bool
  bkptBcast : BitVec 2
  admitted : Nat
  done : Bool
  nextTag : Word
  handlers : Nat
  events : List (Nat × Word)
  completions : List Nat
  bounds : Vector Bound 16
  /-- newest first -/
  oldBounds : List OldBound
  nodes : List Node
  routers : List Router
  ports : List Port
  packets : List PacketInFlight
  relay : Option Relay
  conveying : List Conveyance
  handlersDue : List HandlerDue
  /-- breakpoints of the grid, written wherever it is admitted (R258, R284) -/
  heldBreaks : List HeldBreak
  /-- core to be charged, or that of the first block, and value (R233) -/
  heldWatches : List (Option Nat × BitVec 128)
  deriving DecidableEq, Repr

/-! ### Cores, dies, processes, hub -/

/-- An instruction breakpoint (R222). -/
structure Breakpoint where
  addr : Double
  gid : Nat
  bcast : BitVec 2
  deriving DecidableEq, Repr

/-- A copy request at the Courier (R148, R152). -/
structure CopyReq where
  id : Nat
  team : Nat
  blk : Nat
  gid : Nat
  pc : Double
  kind : BitVec 3
  dst : Double
  src : Double
  dstride : Word
  sstride : Word
  len : Nat
  rows : Nat
  bar : Nat
  peer : Nat
  /-- bytes already written: (row, first byte, count) -/
  moved : List (Nat × Nat × Nat)
  counted : Nat
  status : Byte
  paused : Option (BitVec 12)
  /-- what a watchpoint hit of the copy records of its CPOST: its home lanes among others (R224) -/
  word : Word
  homes : Mask
  after : Double
  /-- at its CPOST the team ran in a handler of its own, and was its grid's estate handler: the images that the copy may reach (R56) -/
  inHandler : Bool
  isHeir : Bool
  deriving DecidableEq, Repr

/-- A cached line of L1: line number and its 128 bytes (R135). -/
structure CacheLine where
  line : Nat
  data : BitVec 1024
  deriving DecidableEq, Repr

/-- A cached translation (R139). -/
structure Translation where
  asn : Nat
  global : Bool
  va : Nat
  size : Nat
  pa : Nat
  r : Bool
  w : Bool
  x : Bool
  deriving DecidableEq, Repr

/-- A stop or resume notice on its way to a core (R225, R227). On the die it comes from, the stop counts skids back to its
sending: each team's instructions until then (R226). -/
structure Notice where
  gid : Nat
  resume : Bool
  since : Option (List (Nat × Nat))
  deriving DecidableEq, Repr

/-- A compute core (R10). -/
structure CoreState where
  contribution : Nat
  commons : Memory
  reservation : Option Nat
  lastSlot : Nat
  prevBits : Nat
  breaks : Vector (Option Breakpoint) 4
  courier : List CopyReq
  l1 : List CacheLine
  /-- the 64 KiB instruction cache (R10; log 71) -/
  icache : List CacheLine
  tlb : List Translation
  weightSet : Nat
  weights : Memory
  notices : List Notice
  deriving DecidableEq, Repr

/-- An entry of a die's fault queue (R142). `order` numbers the resolutions. -/
structure FaultEntry where
  vaddr : Double
  pc : Double
  lmask : Word
  grid : Word
  asn : Half
  core : BitVec 10
  tslot : BitVec 6
  row : BitVec 5
  access : BitVec 3
  level : BitVec 4
  cause : BitVec 4
  status : BitVec 2
  index : BitVec 12
  team : Nat
  order : Nat
  deriving DecidableEq, Repr

/-- A sample slot of a die's Tapster (R293). -/
inductive SampleState where
  | free
  | pending
  | filled
  deriving DecidableEq, Repr

structure SampleSlot where
  state : SampleState
  use : Nat
  record : List Word
  target : List Word
  gid : Nat
  /-- the first ticket of its range, ADDR of the holding that covers it -/
  range : Word
  deriving DecidableEq, Repr

/-- The training engine of a die (R295, R296). -/
structure Tapster where
  steps : Word
  lr : Word
  beta1 : Word
  beta2 : Word
  eps : Word
  budget : Nat
  loaded : Bool
  t : Nat
  master : Table 32
  m : Table 32
  v : Table 32
  consume : Nat
  nextSlot : Nat
  slots : List (Nat × SampleSlot)
  deriving DecidableEq, Repr

/-- A compute die (R11). -/
structure DieState where
  faults : List FaultEntry
  nextFault : Nat
  /-- the die's translation cache (R11, R139) -/
  dtlb : List Translation
  /-- the lines in its L2, newest first (R11, R135; log 7) -/
  l2 : List Nat
  pool : Int
  /-- bytes transferred since the last 256 that were debited (R195) -/
  traffic : Nat
  privPools : List (Nat × Int)
  /-- base of the radiance-cache region in the die's commons, once Serai has placed it (R290) -/
  rcBase : Option Word
  tapster : Tapster
  deriving DecidableEq, Repr

/-- A Serai process (R132, R136, R148, R215, R219). -/
structure Process where
  pid : Nat
  asn : Nat
  root : Nat
  windows : List (Nat × List Nat)
  /-- its peer table, 8 entries (R303) -/
  peers : List (Option PeerEntry)
  dumpPolicy : Nat
  porterHold : Bool
  /-- evicted pages: virtual page number and contents (R220) -/
  backing : List (Nat × Memory)
  deriving DecidableEq, Repr

/-- A hit of a watchpoint that has been performed and not yet taken (R224). -/
structure WatchHit where
  home : Nat
  team : Nat
  index : Nat
  vaddr : Double
  pc : Double
  word : Word
  lit : Word
  /-- the home lanes that made the access -/
  homes : Mask
  after : Double
  deriving DecidableEq, Repr

/-- A dump kept for its process (R215, R216). -/
structure Dump where
  gid : Nat
  bytes : List Byte
  deriving DecidableEq, Repr

/-- A thermal record (R308). -/
structure ThermalRecord where
  boot : Word
  limit : Word
  temp : Half
  die : Byte
  kind : Byte
  deriving DecidableEq, Repr

/-- The hub die and the security engine (R12, R305 to R309). -/
structure Hub where
  booted : Bool
  /-- the boot ROM has run since the reset: it has started an image, or waits for one (R305) -/
  romRan : Bool
  farPorts : Half
  sysRate : Nat
  lmRate : Nat
  /-- digests of the images loaded since reset, in load order (R306) -/
  digests : List (List Byte)
  /-- digest of the image that runs (R307) -/
  firmware : List Byte
  /-- security version of the image that runs, none while the ROM waits (R305) -/
  version : Option Word
  nextImage : Option (List Byte)
  lastSeq : Double
  counters : Vector Double 9
  commanded : Word
  effective : Word
  /-- a set-power-limit command is being applied: the dies whose next cycle has not begun (R307) -/
  applying : List Nat
  /-- the die whose junction began the throttling that lasts (R309) -/
  throttling : Option Nat
  corrected : Table 64
  latent : Table 64
  consumed : Table 64
  partialWrites : Table 64
  thermalResets : Double
  bootCount : Word
  thermal : List ThermalRecord
  /-- newest first -/
  dumps : List Dump
  dumpQueue : List Nat
  deriving DecidableEq, Repr

/-- What the part answered, or a debugger command printed (R182, R307, and the xanori rules). -/
structure Reply where
  status : String
  values : List Nat
  deriving DecidableEq, Repr

/-- What moves next: an event of the table; one instruction of a team, with the teams of its quadrant that a stall count or an
outstanding operand keeps from issuing in that slot (R191), and with the most younger instructions that have issued behind it when it
traps at a pass (R202, R203); or a line of a team that leaves the register cache (R53) (log 1). -/
inductive Input where
  | event (i : Instr)
  | issue (team : Nat) (stalled : List Nat) (young : Nat)
  | evict (team : Nat) (line : RegLine)
  deriving DecidableEq, Repr

/-- The whole part. -/
structure State where
  /-- physical device memory, near and far (R133) -/
  mem : Memory
  /-- near sectors that hold the poison marker or an uncorrectable error, and far sectors reported so (R146, R147) -/
  poison : List Nat
  /-- uncorrectable words of the on-part stores (R209) -/
  soft : List SoftErrorSite
  teams : List Team
  blocks : List Block
  grids : List Grid
  cores : Vector CoreState 576
  dies : Vector DieState 4
  procs : List Process
  hub : Hub
  /-- watchpoint i of core n at number 4n + i (R223) -/
  watches : Table 128
  /-- the grids for which xanori wrote them, by number (R223, R233) -/
  watchGrids : List (Nat × Nat)
  hits : List WatchHit
  /-- break and watch commands given before the debug launch: the grid of the next one takes them (R233, R258, R284) -/
  heldBreaks : List HeldBreak
  heldWatches : List (Option Nat × BitVec 128)
  /-- debugged grids whose `run` or `continue` has not returned to the prompt (R219, R285) -/
  prompting : List Nat
  invalidating : List TransRange
  /-- entries of 64 KiB pages that a walker has read since their range was last invalidated (R138) -/
  walked : List Translation
  nextUid : Nat
  nextGid : Nat
  /-- submission order of grids, and resolution and closing order of entries and batches -/
  clock : Nat
  inputs : List Input
  turn : Nat
  tick : Nat
  replies : List Reply
  deriving DecidableEq, Repr

/-! ### Reset values -/

def ChoiceState.zero : ChoiceState :=
  { stream := 0, loga := 0, gen := 0, ord := 0, occ3 := 0, occ4 := 0, n := 0, sn := 0, rn := 0, cap := 0, div := 0,
    sta := 0, rwc := 0, chain := 0xFFFFFFFF#32, accraw := 0, accset := 0, sites := Vector.replicate 64 0xFFFFFFFF#32,
    result := Vector.replicate 8 0, pending := 0, record := [], source := [] }

/-- A block image that nothing has been stored to: zero, and no tile loaded. -/
def BlockImage.none : BlockImage :=
  { tfull := 0, mflags := 0, sdirty := [], loaded := 0, tiles := [], strays := [], accs := [], other := [] }

/-- A thread at team entry before v0 is given its index (R69). -/
def Thread.entry (home : Nat) : Thread :=
  { pos := home, life := .live, v := Vector.replicate 64 0, freed := 0, p := 1, flags := 0, cv := .zero, outLog := [] }

def ReplayEntry.free : ReplayEntry :=
  { pc := 0, word := 0, lit := 0, state := 0, mode := 0, pmask := 0, ops := [] }

def TrapFrame.zero : TrapFrame :=
  { tpc := 0, rpc := 0, smode := 0, cause := 0, detail := 0, active := 0, rqn := 0, vaddr := 0, info := 0, word := 0,
    lit := 0, edepth := 0, skid := 0, lmask := 0, smask := 0 }

/-- A free estate slot; its heir kind is the grid's default (R261). -/
def EstateSlot.free (hkind : BitVec 2) : EstateSlot :=
  { addr := 0, count := 0, htag := 0, seq := 0, resv := 0, quiet := false, hkind := hkind, brv := false, resv3 := false,
    kind := 0 }

def Bound.off : Bound := { base := 0, size := 0, lo := 0, hi := 0, format := 0, space := 0, policy := 0 }

/-- A core after part reset: 256 KiB contributed to the commons (R132), nothing resident. -/
def CoreState.reset : CoreState :=
  { contribution := 0x40000, commons := [], reservation := none, lastSlot := 0, prevBits := 0,
    breaks := Vector.replicate 4 none, courier := [], l1 := [], icache := [], tlb := [], weightSet := 0,
    weights := [], notices := [] }

/-- The Tapster on its defaults (R296). -/
def Tapster.reset : Tapster :=
  { steps := 64, lr := 0x3A83126F#32, beta1 := 0x3F666666#32, beta2 := 0x3F7D70A4#32, eps := 0x322BCC77#32, budget := 0,
    loaded := false, t := 0, master := [], m := [], v := [], consume := 0, nextSlot := 0, slots := [] }

def DieState.reset : DieState :=
  { faults := [], nextFault := 0, dtlb := [], l2 := [], pool := 0, traffic := 0, privPools := [], rcBase := none, tapster := .reset }

/-- The hub as the part leaves manufacture and is first reset: counters 0 (R307), limits 2,600 W (R309). -/
def Hub.reset : Hub :=
  { booted := false, romRan := false, farPorts := 0, sysRate := 0, lmRate := 0, digests := [], firmware := [], version := none, nextImage := none, lastSeq := 0,
    counters := Vector.replicate 9 0, commanded := 2600, effective := 2600, applying := [], throttling := none, corrected := [], latent := [],
    consumed := [], partialWrites := [], thermalResets := 0, bootCount := 0, thermal := [], dumps := [], dumpQueue := [] }

/-- The part right after reset: nothing launched, nothing resident, memory with nothing listed. -/
def State.reset : State :=
  { mem := [], poison := [], soft := [], teams := [], blocks := [], grids := [], cores := Vector.replicate 576 .reset,
    dies := Vector.replicate 4 .reset, procs := [], hub := .reset, watches := [], watchGrids := [], hits := [], heldBreaks := [], heldWatches := [], prompting := [], invalidating := [], walked := [], nextUid := 1,
    nextGid := 1, clock := 0, inputs := [], turn := 0, tick := 0, replies := [] }

/-- Why the machine stops. -/
inductive Fault where
  /-- exec was asked to run an instruction while no team has the turn; raised by every instruction of a team, never by
  step, which idles then. Safe: nothing the part does is skipped. -/
  | noIssuingTeam
  deriving DecidableEq, Repr

/-- Why an instruction has no meaning. -/
inductive Refusal where
  /-- the arm of this mnemonic has no meaning yet; raised by Dispatch alone. Safe. -/
  | notModelled (mnemonic : String)
  deriving DecidableEq, Repr

end Sys2Proof.Machine
end

