-- ==== Sys2Proof/Machine/Bits.lean ====
section
/-! DEFINITION. Plain helpers: masks over physical positions (spec/02 R23), little-endian bytes (spec/00 R1), sparse
tables and memory in canonical form, and lists used as arrays. -/

namespace Sys2Proof.Machine

open Sys2Proof

/-! ### Masks (R23) -/

/-- Position p is in the mask. -/
def maskHas (m : Mask) (p : Nat) : Bool := m.getLsbD p

def maskOne (p : Nat) : Mask := 1#1024 <<< p

def maskOf (l : List Nat) : Mask := l.foldl (fun m p => m ||| maskOne p) 0

/-- Group mask g. -/
def maskRow (m : Mask) (g : Nat) : Word := m.extractLsb' (32 * g) 32

/-- The lanes of row g alone. -/
def onlyRow (m : Mask) (g : Nat) : Mask := m &&& ((0xFFFFFFFF#1024) <<< (32 * g))

/-- The rows whose presence bit is set, ascending (R23, R24). -/
def maskRows (m : Mask) : List Nat := (List.range 32).filter fun g => maskRow m g != 0#32

/-- The word-presence mask (R23). -/
def presenceOf (m : Mask) : Word :=
  (maskRows m).foldl (fun w g => w ||| (1#32 <<< g)) 0

/-- Positions of a row's mask, ascending, as positions of the team. -/
def rowLanes (m : Mask) (g : Nat) : List Nat :=
  ((List.range 32).map fun j => 32 * g + j).filter fun p => maskHas m p

/-- All positions of the mask, ascending row and then position. -/
def maskLanes (m : Mask) : List Nat := (maskRows m).flatMap fun g => rowLanes m g

def maskMinus (m k : Mask) : Mask := m &&& ~~~k

/-- The full mask of G groups. -/
def fullMask (g : Nat) : Mask := (BitVec.allOnes 1024) >>> (1024 - 32 * g)

/-- The lowest position of the mask, if any. -/
def lowestLane (m : Mask) : Option Nat := (maskLanes m).head?

/-! ### Little-endian bytes (R1) -/

/-- The value of bytes, lowest address first. -/
def leNat : List Byte → Nat
  | [] => 0
  | b :: bs => b.toNat + 256 * leNat bs

/-- The n low bytes of a value, lowest first. -/
def leBytes : Nat → Nat → List Byte
  | 0, _ => []
  | n + 1, v => BitVec.ofNat 8 v :: leBytes n (v / 256)

/-! ### Sparse tables -/

/-- What number k holds: what is listed, else 0. -/
def Table.get {w : Nat} (t : Table w) (k : Nat) : BitVec w :=
  match t with
  | [] => 0
  | (j, v) :: rest => if j = k then v else Table.get rest k

/-- Writes number k, keeping numbers rising and no listed 0. -/
def Table.set {w : Nat} (t : Table w) (k : Nat) (v : BitVec w) : Table w :=
  match t with
  | [] => if v = 0 then [] else [(k, v)]
  | (j, u) :: rest =>
    if k < j then (if v = 0 then (j, u) :: rest else (k, v) :: (j, u) :: rest)
    else if k = j then (if v = 0 then rest else (k, v) :: rest)
    else (j, u) :: Table.set rest k v

/-- Every number of t is above k, numbers rise, and nothing listed is 0. -/
def Table.wfFrom {w : Nat} (lo : Nat) : Table w → Bool
  | [] => true
  | (j, v) :: rest => decide (lo ≤ j) && (v != 0) && Table.wfFrom (j + 1) rest

/-- The canonical form. -/
def Table.wf {w : Nat} (t : Table w) : Bool := Table.wfFrom 0 t

/-! ### Memory -/

/-- The byte at an address; an unlisted one reads 0 (log 4, log 5). -/
def Memory.read (m : Memory) (a : Nat) : Byte := Table.get (w := 8) m a

def Memory.write (m : Memory) (a : Nat) (v : Byte) : Memory := Table.set (w := 8) m a v

/-- The canonical form of a memory. -/
def Memory.wf (m : Memory) : Bool := Table.wf (w := 8) m

/-- n bytes from a, lowest first. -/
def Memory.readBytes (m : Memory) (a n : Nat) : List Byte := (List.range n).map fun i => Memory.read m (a + i)

def Memory.writeBytes (m : Memory) (a : Nat) : List Byte → Memory
  | [] => m
  | b :: bs => Memory.writeBytes (Memory.write m a b) (a + 1) bs

/-- n bytes from a as a number (R1). -/
def Memory.readNat (m : Memory) (a n : Nat) : Nat := leNat (Memory.readBytes m a n)

def Memory.writeNat (m : Memory) (a n v : Nat) : Memory := Memory.writeBytes m a (leBytes n v)

/-! ### Lists as arrays -/

/-- Replaces element i, if there is one. -/
def setAt {α : Type} (l : List α) (i : Nat) (v : α) : List α := l.set i v

/-- Applies f to element i, if there is one. -/
def modifyAt {α : Type} (l : List α) (i : Nat) (f : α → α) : List α :=
  match l[i]? with
  | some x => l.set i (f x)
  | none => l

/-- Element r of a 64-entry register file. -/
def vget {α : Type} {n : Nat} (v : Vector α n) (i : Nat) (d : α) : α := v[i]?.getD d

def vput {α : Type} {n : Nat} (v : Vector α n) (i : Nat) (x : α) : Vector α n := v.setIfInBounds i x

/-- bits(x, hi, lo) (R4). -/
def bitsOf (x hi lo : Nat) : Nat := x / 2 ^ lo % 2 ^ (hi - lo + 1)

/-- sext(x, n) (R4): the low n bits of x as a signed integer. -/
def sextInt (x n : Nat) : Int :=
  let u := x % 2 ^ n
  if 2 * u < 2 ^ n then (u : Int) else (u : Int) - (2 ^ n : Nat)

/-- The low n bits of an integer (R4). -/
def lowBits (x : Int) (n : Nat) : Nat := (x % ((2 ^ n : Nat) : Int)).toNat

/-- Rounds n up to a multiple of k. -/
def roundUp (n k : Nat) : Nat := (n + k - 1) / k * k

/-- mix64 of spec/07 R178. -/
def mix64 (x : Double) : Double :=
  let x := x ^^^ (x >>> 31)
  let x := x * 0x9FB21C651E98DF25#64
  let x := x ^^^ (x >>> 29)
  let x := x * 0xD6E8FEB86659FD93#64
  x ^^^ (x >>> 32)

end Sys2Proof.Machine
end

