-- ==== Sys2Proof/Machine/Choice.lean ====
section
/-! DEFINITION. Choice vectors (spec/13): the generator, occurrences, recorded and unrecorded draws, the divergence index,
and the edits of CVSET and CVCFG. -/

namespace Sys2Proof.Machine

open Sys2Proof

/-! ### The generator (R240) -/

structure GenState where
  x0 : Word
  x1 : Word
  x2 : Word
  x3 : Word
  deriving DecidableEq, Repr

/-- Round r of gen, with the key injection after every third round and the permutation of the words. -/
def genRound (k0 k1 : Word) (g : GenState) (r : Nat) : GenState :=
  let x0 := g.x0 + g.x1
  let x3 := (g.x3 ^^^ x0).rotateLeft 16
  let x2 := g.x2 + x3
  let x1 := (g.x1 ^^^ x2).rotateLeft 12
  let x0 := x0 + x1
  let x3 := (x3 ^^^ x0).rotateLeft 8
  let x2 := x2 + x3
  let x1 := (x1 ^^^ x2).rotateLeft 7
  let x0' := if r % 3 = 2 then x0 + k0 else x0
  let x2' := if r % 3 = 2 then x2 ^^^ (k1 + BitVec.ofNat 32 r) else x2
  { x0 := x0', x1 := x2', x2 := x3, x3 := x1 }

def generate (s : Double) (site : Nat) (occ g : Word) : Word :=
  let k0 : Word := s.setWidth 32
  let k1 : Word := s.extractLsb' 32 32
  let z := (List.range 12).foldl (genRound k0 k1)
    { x0 := BitVec.ofNat 32 (site + 2 ^ 13 * (occ.toNat % 2 ^ 19)), x1 := g, x2 := (occ >>> 19) ^^^ k0,
      x3 := k1 ^^^ 0x9E3779B9#32 }
  (z.x0 + k1) ^^^ z.x2 ^^^ z.x3

/-! ### Fields of STA (R237) and of entries (R239) -/

def ChoiceState.sta? (c : ChoiceState) (k : Nat) : Bool := c.sta.getLsbD k

def ChoiceState.setSta (c : ChoiceState) (k : Nat) : ChoiceState := { c with sta := c.sta ||| (1#8 <<< k) }

def staOVF : Nat := 0
def staSITES : Nat := 1
def staWIDE : Nat := 2
def staSEQ : Nat := 3
def staPROP : Nat := 4
def staDIVD : Nat := 5

def entryRaw (e : Double) : Word := e.extractLsb' 32 32
def entrySite (e : Double) : Nat := (e.extractLsb' 20 12).toNat
def entryOcc (e : Double) : Nat := (e.extractLsb' 8 12).toNat
def entryValid (e : Double) : Bool := e.getLsbD 0

/-- An entry of R239; `low` holds SRC, SET, MUT and VALID in bits 3 to 0. -/
def mkEntry (raw : Word) (site occ low : Nat) : Double :=
  BitVec.ofNat 64 (raw.toNat * 2 ^ 32 + site % 4096 * 2 ^ 20 + occ % 4096 * 2 ^ 8 + low % 16)

/-! ### Occurrences (R241) -/

/-- A draw's occurrence, whether the draw set SITES or WIDE, and the counters after it. -/
structure Occurrence where
  occ : Word
  beyond : Bool
  cv : ChoiceState

def findSite (sites : Vector Word 64) (p : Word → Bool) : Option Nat := (List.range 64).find? fun i => p (vget sites i 0)

/-- k is the draw's own ordinal. A new site takes the lowest free counter. -/
def ChoiceState.occurrence (c : ChoiceState) (site : Nat) (k : Word) : Occurrence :=
  let wideOcc : Word := 0x80000000#32 ||| (k &&& 0x7FFFFFFF#32)
  match findSite c.sites (fun w => w != 0xFFFFFFFF#32 && (w >>> 20).toNat == site) with
  | some i =>
    let w := vget c.sites i 0
    let n := w &&& 0xFFFFF#32
    if n = 0xFFFFF#32 then { occ := wideOcc, beyond := true, cv := c.setSta staWIDE }
    else { occ := n, beyond := false, cv := { c with sites := vput c.sites i (w + 1) } }
  | none =>
    match findSite c.sites (fun w => w == 0xFFFFFFFF#32) with
    | some i =>
      { occ := 0, beyond := false, cv := { c with sites := vput c.sites i (BitVec.ofNat 32 (site * 2 ^ 20 + 1)) } }
    | none => { occ := wideOcc, beyond := true, cv := c.setSta staSITES }

/-! ### Draws (R242, R243, R249) -/

/-- The source entry that answers a key in site-keyed mode. -/
def ChoiceState.sourceAt (c : ChoiceState) (site occ : Nat) : Option Nat :=
  (List.range c.sn.toNat).find? fun i =>
    let e := Table.get c.source i
    entrySite e == site && entryOcc e == occ

/-- As sourceAt, among VALID entries. -/
def ChoiceState.validAt (c : ChoiceState) (site occ : Nat) : Option Nat :=
  (List.range c.sn.toNat).find? fun i =>
    let e := Table.get c.source i
    entryValid e && entrySite e == site && entryOcc e == occ

/-- divergence_step of R249, after RECORD[N − 1] was appended. -/
def ChoiceState.divergenceStep (c : ChoiceState) : ChoiceState :=
  let j := c.n.toNat - 1
  if c.sta? staPROP && !c.sta? staDIVD then
    let r := Table.get c.record j
    let s := Table.get c.source j
    if j ≥ c.rn.toNat || entrySite r != entrySite s || entryOcc r != entryOcc s then
      { c.setSta staDIVD with div := BitVec.ofNat 16 j }
    else c
  else c

/-- Completes the divergence index at EXITR (R249). -/
def ChoiceState.divergenceAtExit (c : ChoiceState) : ChoiceState :=
  if c.sta? staPROP && !c.sta? staDIVD && c.n.toNat < c.rn.toNat then { c.setSta staDIVD with div := c.n } else c

/-- Appends a record entry, or sets OVF when the record is full. -/
def ChoiceState.append (c : ChoiceState) (e : Double) : ChoiceState :=
  if c.n.toNat < c.cap.toNat then
    ChoiceState.divergenceStep { c with record := Table.set c.record c.n.toNat e, n := c.n + 1 }
  else c.setSta staOVF

/-- draw_recorded of R242. -/
def ChoiceState.drawRecorded (c0 : ChoiceState) (site : Nat) : Word × ChoiceState :=
  let k := c0.ord
  let o := ChoiceState.occurrence { c0 with ord := k + 1 } site k
  let c := o.cv
  let pick : Option Nat :=
    if c.sta? staSEQ then
      if k.toNat < c.sn.toNat && entryValid (Table.get c.source k.toNat) then some k.toNat else none
    else if o.occ.toNat < 4096 then c.validAt site o.occ.toNat else none
  let v : Word := match pick with
    | some i => entryRaw (Table.get c.source i)
    | none => if c.sta? staSEQ then generate c.stream 4096 k c.gen else generate c.stream site o.occ c.gen
  let keep : Bool := if c.sta? staSEQ then decide (k.toNat < c.cap.toNat) else decide (o.occ.toNat < 4096)
  let ofield : Nat := if c.sta? staSEQ && o.beyond then 0xFFF else o.occ.toNat % 4096
  let low : Nat := (if pick.isSome then 8 else 0) + 1
  if keep then (v, c.append (mkEntry v site ofield low))
  else if c.sta? staSEQ then (v, c)
  else (v, c.setSta staWIDE)

/-- A draw of RBITS at site 4094 (R243). -/
def ChoiceState.drawBits (c : ChoiceState) : Word × ChoiceState :=
  (generate c.stream 4094 c.occ4 c.gen, { c with occ4 := c.occ4 + 1 })

/-- The variate of one stochastic rounding, at site 4093 (R243). -/
def ChoiceState.drawRound (c : ChoiceState) : Word × ChoiceState :=
  (generate c.stream 4093 c.occ3 c.gen, { c with occ3 := c.occ3 + 1 })

/-! ### CVSET, CVCFG, CVSTA (R245 to R247) -/

/-- Whether a CVSET key is out of range for this lane. -/
def ChoiceState.badKey (c : ChoiceState) (key : Word) : Bool :=
  !key.getLsbD 31 &&
  ((key.extractLsb' 24 7) != 0#7 ||
   (if c.sta? staSEQ then (key.extractLsb' 12 12) != 0#12 || decide ((key.extractLsb' 0 12).toNat ≥ c.cap.toNat)
    else decide ((key.extractLsb' 0 12).toNat > 4092)))

/-- Writes invalid entries from number i up to but not including j. -/
def invalidate (t : Table 64) (i j : Nat) : Table 64 := (List.range (j - i)).foldl (fun t k => Table.set t (i + k) 0) t

/-- CVSET with a key in range (R246). -/
def ChoiceState.cvset (c : ChoiceState) (key raw : Word) : ChoiceState :=
  if key.getLsbD 31 then { c with accraw := raw, accset := 1 }
  else
    let k := (key.extractLsb' 0 12).toNat
    let occ := (key.extractLsb' 12 12).toNat
    if c.sta? staSEQ then
      { c with
        source := Table.set (invalidate c.source c.sn.toNat k) k (mkEntry raw 0 0 5),
        sn := if c.sn.toNat < k + 1 then BitVec.ofNat 16 (k + 1) else c.sn }
    else
      match c.sourceAt k occ with
      | some i =>
        let e := Table.get c.source i
        { c with source := Table.set c.source i ((raw ++ (e.setWidth 32 : Word)) ||| 5#64) }
      | none =>
        if c.sn.toNat < c.cap.toNat then
          { c with source := Table.set c.source c.sn.toNat (mkEntry raw k occ 5), sn := c.sn + 1 }
        else c.setSta staOVF

/-- A lane in which CVCFG raises ILLEGAL_OPERAND (R247). -/
def ChoiceState.busy (c : ChoiceState) : Bool := c.ord != 0 || c.n != 0 || c.sn != 0 || c.sta? staPROP

def ChoiceState.cvcfg (c : ChoiceState) (cap : Half) (seq : Bool) : ChoiceState :=
  { c with cap := cap, sta := if seq then c.sta ||| 8#8 else c.sta &&& 0xF7#8 }

/-- What CVSTA returns (R245). -/
def ChoiceState.status (c : ChoiceState) : Word :=
  BitVec.ofNat 32 (c.sta.toNat % 64 + c.n.toNat * 2 ^ 6 + c.div.toNat * 2 ^ 19)

/-- The F32 that DRAW writes: (v >> 8) × 2^−24, exact (R242). -/
def drawF32 (v : Word) : Word :=
  let m := v.toNat / 256
  if m = 0 then 0
  else
    let l := Nat.log2 m
    BitVec.ofNat 32 ((127 + l - 24) * 2 ^ 23 + (m * 2 ^ (23 - l)) % 2 ^ 23)

end Sys2Proof.Machine
end

