-- ==== Sys2Proof/Config.lean ====
section
/-! DEFINITION. What an implementation fixes and what the manual leaves open: free values, constants without a body, so
that no proof can see what they are. Each is applied to what it may depend on, most of them to State.tick. -/

namespace Sys2Proof.Config

/-- Whether a read inside the forwarding window of R92 sees the value before the producer (true) or its result: chosen
anew for each instruction (tick), lane and register (log 10). -/
opaque staleRead : (tick lane reg : Nat) → Bool

/-- Whether an L1 line that holds an older value than its home still serves a plain load: chosen anew for each pass and line
(R164; log 7). -/
opaque l1Keeps : (tick line : Nat) → Bool

/-- Whether a line of a core's instruction cache that differs from its home still serves a fetch (R10 names no rule; log 71). -/
opaque icacheKeeps : (tick line : Nat) → Bool

/-- Whether a translation that a pending invalidation covers is still used (R139; log 8). -/
opaque tlbKeeps : (tick : Nat) → Bool

/-- Whether an expander clears a poisoned sector on a write, and whether it reports a write that it could not merge (R147: its own
behaviour under CXL; log 59). -/
opaque expanderClears : (tick sector : Nat) → Bool
opaque expanderReports : (tick sector : Nat) → Bool

/-- Which of the 16 entries of a 64 KiB page that differ translates the access (R138; log 8). -/
opaque c64Entry : (tick : Nat) → BitVec 4

/-- CYCLE of a core when it is read (R67, R230; log 15). -/
opaque cycle : (core tick : Nat) → Double

/-- Issue slots of a die cycle in which a team was held only for a token, which is time (R345; log 15). -/
opaque tokenSlots : (team tick : Nat) → Nat

/-- How many younger instructions have issued and not finished when a team enters its trap handler at a watchpoint (R203; log 1). -/
opaque hitYoung : (tick : Nat) → Nat

/-- A byte of a tile that nothing has loaded (R74: undefined until loaded; log 14). -/
opaque tileByte : (block addr : Nat) → Byte

/-- The unordered choice of bytes by two writers of which the manual says only that one of the values remains (R150; log 28). -/
opaque copyRace : (tick addr : Nat) → Bool

/-- Whether bytes of scratchpad stored after the issue of a matrix instruction that reads them are read as they were (true) or as
they are (R171; log 27). -/
opaque scratchRace : (tick addr : Nat) → Bool

/-- WAITERS of a lock word after a decrease of 0, which only an ordinary store can have left there (R264 states none; log 41). -/
opaque waitersBelow : (tick : Nat) → Half

/-- Which of a bound register's values that are not yet released a store is checked against (R157; log 29). -/
opaque staleBound : (tick reg : Nat) → Nat

/-- Whether 32 idle cycles have passed since the unit's last step (R196; log 15). -/
opaque matrixIdle : (tick : Nat) → Bool

/-- Which of the statuses that apply a rejected copy request records (R148 names no order; log 28). -/
opaque copyStatus : (tick : Nat) → Nat

/-- SHAKE256 of FIPS 202, 64-byte digest (R305, R306; log 12). -/
opaque shake256 : List Byte → List Byte

/-- Whether the Salgen key's Ed448 signature of an image verifies over its digest (R305; log 12). -/
opaque imageSigned : List Byte → Bool

/-- The 32-bit security version an image carries (R305; log 12). -/
opaque imageVersion : List Byte → Word

/-- Whether an owner key whose fingerprint is fused signed these bytes (R307; log 12). -/
opaque ownerSigned : (message sig : List Byte) → Bool

/-- The device identity key's Ed448 signature (R306; log 12). -/
opaque attestSign : List Byte → List Byte

/-- Which status a load-image command whose image is not accepted is answered with, 1 to 6 (R307 names none; log 55). -/
opaque imageStatus : (tick : Nat) → Nat

/-- The part's serial number and the fused minimum security version (R305 to R307; log 12). -/
opaque serial : Double
opaque fusedVersion : Word

/-- A gradient of the Tapster's loss for one sample in one parameter that is not certainly 0: of the weights rounded to BF16, the
features and the targets, in an order of F32 operations that the manual does not state (R295; log 13). -/
opaque gradient : (weights : List Word) → (inputs targets : List Word) → (param : Nat) → Word

/-- β^t as the Tapster forms it, in an order the manual does not state (R295; log 13). -/
opaque betaPower : (beta : Word) → (t : Nat) → Word


end Sys2Proof.Config
end

