-- ==== Sys2Proof/Machine/Num.lean ====
section
/-! DEFINITION. Binary floating point (spec/05 R103 to R120): formats, unpacking, one exact rounding, and the arithmetic
of F16, BF16, F32 and F64 over it, each operation answering a bit pattern and the flags it would set. -/

namespace Sys2Proof.Machine

open Sys2Proof

/-! ### Flags of the lane flag byte (R71) -/

def NX : Byte := 0x01#8
def UF : Byte := 0x02#8
def OF : Byte := 0x04#8
def DZ : Byte := 0x08#8
def NV : Byte := 0x10#8
def BND : Byte := 0x20#8
def SATF : Byte := 0x40#8

/-! ### Formats (R103) -/

/-- A binary format: exponent bits, fraction bits, and whether NFZ flushes it (R105). -/
structure Fmt where
  e : Nat
  f : Nat
  narrow : Bool
  deriving DecidableEq, Repr

def f64 : Fmt := { e := 11, f := 52, narrow := false }
def f32 : Fmt := { e := 8, f := 23, narrow := false }
def f16 : Fmt := { e := 5, f := 10, narrow := true }
def bf16 : Fmt := { e := 8, f := 7, narrow := true }

def Fmt.bias (k : Fmt) : Nat := 2 ^ (k.e - 1) - 1
def Fmt.bits (k : Fmt) : Nat := 1 + k.e + k.f
/-- The all-ones exponent field. -/
def Fmt.top (k : Fmt) : Nat := 2 ^ k.e - 1

/-- A number taken apart. A finite value is m × 2^e; a NaN keeps its fraction field. -/
inductive FNum where
  | nan (sign : Bool) (frac : Nat) (quiet : Bool)
  | inf (sign : Bool)
  | fin (sign : Bool) (m : Nat) (e : Int)
  deriving DecidableEq, Repr

def FNum.sign : FNum → Bool
  | .nan s _ _ => s
  | .inf s => s
  | .fin s _ _ => s

def FNum.isNan : FNum → Bool
  | .nan _ _ _ => true
  | _ => false

/-- A signalling NaN (R112). -/
def FNum.isSnan : FNum → Bool
  | .nan _ _ q => !q
  | _ => false

def FNum.isInf : FNum → Bool
  | .inf _ => true
  | _ => false

def FNum.isZero : FNum → Bool
  | .fin _ m _ => m == 0
  | _ => false

/-- Takes a bit pattern apart; under `flush` a narrow operand with E = 0 is a zero of its sign (R105). -/
def unpack (k : Fmt) (flush : Bool) (x : Nat) : FNum :=
  let s := x / 2 ^ (k.e + k.f) % 2 == 1
  let ex := x / 2 ^ k.f % 2 ^ k.e
  let fr := x % 2 ^ k.f
  if ex = k.top then
    if fr = 0 then .inf s else .nan s fr (fr / 2 ^ (k.f - 1) == 1)
  else if ex = 0 then
    if flush && k.narrow then .fin s 0 0 else .fin s fr (1 - (k.bias : Int) - k.f)
  else .fin s (2 ^ k.f + fr) ((ex : Int) - k.bias - k.f)

def signBit (k : Fmt) (s : Bool) : Nat := if s then 2 ^ (k.e + k.f) else 0

def zeroOf (k : Fmt) (s : Bool) : Nat := signBit k s
def infOf (k : Fmt) (s : Bool) : Nat := signBit k s + k.top * 2 ^ k.f
def maxOf (k : Fmt) (s : Bool) : Nat := signBit k s + (k.top - 1) * 2 ^ k.f + (2 ^ k.f - 1)
/-- The default NaN (R112). -/
def dnan (k : Fmt) : Nat := k.top * 2 ^ k.f + 2 ^ (k.f - 1)

/-- A NaN operand as a result of format k, quieted, its payload's high bits kept (R112). -/
def quietTo (k : Fmt) (fromF : Nat) (s : Bool) (frac : Nat) : Nat :=
  let fr := if fromF ≤ k.f then frac * 2 ^ (k.f - fromF) else frac / 2 ^ (fromF - k.f)
  signBit k s + k.top * 2 ^ k.f + (fr ||| 2 ^ (k.f - 1))

/-! ### Rounding (R110, R111, R114, R105) -/

/-- The rounding attributes (R110); a stochastic one carries its variate. -/
inductive Rnd where
  | rne
  | rtz
  | rup
  | rdn
  | rna
  | sto (raw : Word)
  deriving DecidableEq, Repr

/-- RND of the mode register, STO read as RNE (R111). -/
def Rnd.ofMode (r : Nat) : Rnd :=
  match r with
  | 1 => .rtz
  | 2 => .rup
  | 3 => .rdn
  | 4 => .rna
  | _ => .rne

/-- Whether |x| = m + r/d (0 ≤ r < d, `more` when a little above that) rounds away from zero to m + 1 (R110, R111). -/
def roundsUp (rnd : Rnd) (sign : Bool) (m r d : Nat) (more : Bool) : Bool :=
  if r = 0 && !more then false
  else match rnd with
    | .rne => decide (2 * r > d) || (2 * r == d && (more || m % 2 == 1))
    | .rtz => false
    | .rup => !sign
    | .rdn => sign
    | .rna => decide (2 * r ≥ d)
    | .sto raw => decide (raw.toNat / 256 < 2 ^ 24 * r / d)

/-- round_int of an exact magnitude n/d: the rounded magnitude, and whether it is exact. -/
def roundInt (rnd : Rnd) (sign : Bool) (n d : Nat) (more : Bool) : Nat × Bool :=
  let m := n / d
  let r := n % d
  (if roundsUp rnd sign m r d more then m + 1 else m, r = 0 && !more)

/-- floor(log2(n/d)) of a positive ratio. -/
def log2Ratio (n d : Nat) : Int :=
  let l : Int := (Nat.log2 n : Int) - (Nat.log2 d : Int)
  -- n/d lies within a factor of 2 of 2^l
  if l ≥ 0 then (if n < d * 2 ^ l.toNat then l - 1 else l)
  else (if n * 2 ^ (-l).toNat < d then l - 1 else l)

/-- Rounds n/d (plus a little when `more`) to a multiple of 2^q: the multiple, and whether it is exact. -/
def roundAt (rnd : Rnd) (sign : Bool) (n d : Nat) (more : Bool) (q : Int) : Nat × Bool :=
  if q ≥ 0 then roundInt rnd sign n (d * 2 ^ q.toNat) more
  else roundInt rnd sign (n * 2 ^ (-q).toNat) d more

/-- What an operation delivers in one element: the bits and the flags it would set. -/
structure FRes where
  bits : Nat
  flags : Byte
  deriving DecidableEq, Repr

/-- Rounds the exact magnitude n/d × 2^e, with `more` for a little above it, into format k, with the flags of R114, and
under `flush` R105's flush of a narrow result. Just beyond the largest finite magnitude the value is rounded first, and
overflows only where the rounded value is out of range (R114; DEDUCED, log 72). -/
def roundTo (k : Fmt) (flush : Bool) (rnd : Rnd) (sign : Bool) (n0 d0 : Nat) (e : Int) (more : Bool) : FRes :=
  if n0 = 0 && !more then { bits := zeroOf k sign, flags := 0 }
  else
    let n := if e ≥ 0 then n0 * 2 ^ e.toNat else n0
    let d := if e ≥ 0 then d0 else d0 * 2 ^ (-e).toNat
    let emin : Int := 1 - (k.bias : Int)
    let l := log2Ratio n d
    let qFree : Int := l - k.f
    -- rounded to the precision with an unbounded exponent
    let (mu, _) := roundAt rnd sign n d more qFree
    let tiny : Bool :=
      if mu ≥ 2 ^ (k.f + 1) then decide (l + 1 < emin) else decide (l < emin)
    if flush && k.narrow && tiny then { bits := zeroOf k sign, flags := UF ||| NX }
    else
      let q : Int := if qFree < emin - k.f then emin - k.f else qFree
      let (m, exact) := roundAt rnd sign n d more q
      -- the value is m × 2^q; its biased exponent and fraction follow
      let (m, q) : Nat × Int := if m ≥ 2 ^ (k.f + 1) then (m / 2, q + 1) else (m, q)
      let be : Int := if m ≥ 2 ^ k.f then q + k.f + k.bias else 0
      if be ≥ k.top then
        let toInf : Bool := match rnd with
          | .rtz => false
          | .rup => !sign
          | .rdn => sign
          | _ => true
        { bits := if toInf then infOf k sign else maxOf k sign, flags := OF ||| NX }
      else
        let fr := m % 2 ^ k.f
        { bits := signBit k sign + be.toNat * 2 ^ k.f + fr,
          flags := if exact then 0 else if tiny then UF ||| NX else NX }

/-! ### Arithmetic (R112, R118, R119) -/

/-- The rounding environment of an operation: attribute and NFZ. -/
structure FEnv where
  rnd : Rnd
  nfz : Bool
  deriving DecidableEq, Repr

/-- The first NaN among the operands, quieted; NV for a signalling one anywhere (R112). -/
def nanResult (k : Fmt) (xs : List FNum) : Option FRes :=
  match xs.find? FNum.isNan with
  | some (.nan s fr _) =>
    some { bits := quietTo k k.f s fr, flags := if xs.any FNum.isSnan then NV else 0 }
  | _ => none

def invalid (k : Fmt) : FRes := { bits := dnan k, flags := NV }

/-- The exact sum of signed dyadics as sign, magnitude and exponent. -/
def addExact (s1 : Bool) (m1 : Nat) (e1 : Int) (s2 : Bool) (m2 : Nat) (e2 : Int) : Bool × Nat × Int :=
  let e := if e1 ≤ e2 then e1 else e2
  let a : Int := (m1 * 2 ^ (e1 - e).toNat : Nat)
  let b : Int := (m2 * 2 ^ (e2 - e).toNat : Nat)
  let t := (if s1 then -a else a) + (if s2 then -b else b)
  (decide (t < 0), t.natAbs, e)

/-- The sign of an exact zero sum: that of both addends when they agree, else + but − under RDN (R319). -/
def zeroSumSign (rnd : Rnd) (s1 s2 : Bool) : Bool :=
  if s1 = s2 then s1 else rnd == .rdn

def addFin (k : Fmt) (env : FEnv) (s1 : Bool) (m1 : Nat) (e1 : Int) (s2 : Bool) (m2 : Nat) (e2 : Int) : FRes :=
  let (s, m, e) := addExact s1 m1 e1 s2 m2 e2
  if m = 0 then { bits := zeroOf k (if m1 = 0 && m2 = 0 then zeroSumSign env.rnd s1 s2 else env.rnd == .rdn), flags := 0 }
  else roundTo k env.nfz env.rnd s m 1 e false

def addNum (k : Fmt) (env : FEnv) (x y : FNum) : FRes :=
  match x, y with
  | .inf s, .inf t => if s = t then { bits := infOf k s, flags := 0 } else invalid k
  | .inf s, _ => { bits := infOf k s, flags := 0 }
  | _, .inf t => { bits := infOf k t, flags := 0 }
  | .fin s1 m1 e1, .fin s2 m2 e2 => addFin k env s1 m1 e1 s2 m2 e2
  | _, _ => invalid k

def fadd (k : Fmt) (env : FEnv) (a b : Nat) : FRes :=
  let x := unpack k env.nfz a
  let y := unpack k env.nfz b
  (nanResult k [x, y]).getD (addNum k env x y)

def FNum.neg : FNum → FNum
  | .nan s f q => .nan s f q
  | .inf s => .inf !s
  | .fin s m e => .fin (!s) m e

def fsub (k : Fmt) (env : FEnv) (a b : Nat) : FRes :=
  let x := unpack k env.nfz a
  let y := unpack k env.nfz b
  (nanResult k [x, y]).getD (addNum k env x y.neg)

def fmul (k : Fmt) (env : FEnv) (a b : Nat) : FRes :=
  let x := unpack k env.nfz a
  let y := unpack k env.nfz b
  (nanResult k [x, y]).getD <|
    let s := x.sign != y.sign
    match x, y with
    | .fin _ m1 e1, .fin _ m2 e2 => roundTo k env.nfz env.rnd s (m1 * m2) 1 (e1 + e2) false
    | _, _ => if x.isZero || y.isZero then invalid k else { bits := infOf k s, flags := 0 }

/-- a × b + d rounded once (R118); NaN operands in the order a, b, d. -/
def ffma (k : Fmt) (env : FEnv) (a b d : Nat) : FRes :=
  let x := unpack k env.nfz a
  let y := unpack k env.nfz b
  let z := unpack k env.nfz d
  -- ∞ × 0 sets NV whatever d is (R362)
  let nv : Byte := if (x.isInf && y.isZero) || (x.isZero && y.isInf) then NV else 0
  ((nanResult k [x, y, z]).map fun r => { r with flags := r.flags ||| nv }).getD <|
    let s := x.sign != y.sign
    match x, y, z with
    | .fin _ m1 e1, .fin _ m2 e2, .fin s3 m3 e3 => addFin k env s (m1 * m2) (e1 + e2) s3 m3 e3
    | .fin _ _ _, .fin _ _ _, .inf t => { bits := infOf k t, flags := 0 }
    | _, _, _ =>
      if x.isZero || y.isZero then invalid k
      else match z with
        | .inf t => if t = s then { bits := infOf k s, flags := 0 } else invalid k
        | _ => { bits := infOf k s, flags := 0 }

def fdiv (k : Fmt) (env : FEnv) (a b : Nat) : FRes :=
  let x := unpack k env.nfz a
  let y := unpack k env.nfz b
  (nanResult k [x, y]).getD <|
    let s := x.sign != y.sign
    match x, y with
    | .inf _, .inf _ => invalid k
    | .inf _, _ => { bits := infOf k s, flags := 0 }
    | _, .inf _ => { bits := zeroOf k s, flags := 0 }
    | .fin _ m1 e1, .fin _ m2 e2 =>
      if m2 = 0 then (if m1 = 0 then invalid k else { bits := infOf k s, flags := DZ })
      else roundTo k env.nfz env.rnd s m1 m2 (e1 - e2) false
    | _, _ => invalid k

/-- The integer square root of n, bit by bit from bit i down. -/
def isqrtFrom (n : Nat) : Nat → Nat → Nat
  | 0, r => r
  | i + 1, r =>
    let c := r + 2 ^ i
    isqrtFrom n i (if c * c ≤ n then c else r)

def isqrt (n : Nat) : Nat := isqrtFrom n (Nat.log2 n / 2 + 1) 0

/-- The square root of m × 2^e (m > 0) as a floor to well beyond any format, and whether more follows. -/
def sqrtExact (m : Nat) (e : Int) : Nat × Int × Bool :=
  let sh : Nat := 256 + (if e % 2 = 0 then 0 else 1)
  let n := m * 2 ^ sh
  let r := isqrt n
  (r, (e - sh) / 2, r * r != n)

def fsqrt (k : Fmt) (env : FEnv) (a : Nat) : FRes :=
  let x := unpack k env.nfz a
  (nanResult k [x]).getD <|
    match x with
    | .inf false => { bits := infOf k false, flags := 0 }
    | .fin s m e =>
      if m = 0 then { bits := zeroOf k s, flags := 0 }
      else if s then invalid k
      else
        let (r, q, more) := sqrtExact m e
        roundTo k env.nfz env.rnd false r 1 q more
    | _ => invalid k

/-- Order of two numbers that are not NaN: −0 and +0 equal. -/
def FNum.lt (x y : FNum) : Bool :=
  match x, y with
  | .inf s, .inf t => s && !t
  | .inf s, _ => s
  | _, .inf t => !t
  | .fin s1 m1 e1, .fin s2 m2 e2 =>
    let e := if e1 ≤ e2 then e1 else e2
    let a : Int := (m1 * 2 ^ (e1 - e).toNat : Nat)
    let b : Int := (m2 * 2 ^ (e2 - e).toNat : Nat)
    decide ((if s1 then -a else a) < (if s2 then -b else b))
  | _, _ => false

/-- As `lt`, with −0 below +0 (R119). -/
def FNum.below (x y : FNum) : Bool :=
  x.lt y || (!x.lt y && !y.lt x && x.sign && !y.sign)

/-- MIN (false) or MAX (true) of R119; operands keep their bits, and both NaN give the one named first, quieted. -/
def fminmax (k : Fmt) (nfz : Bool) (isMax : Bool) (a b : Nat) : FRes :=
  let x := unpack k nfz a
  let y := unpack k nfz b
  let nv := if x.isSnan || y.isSnan then NV else 0
  let keep (v : Nat) (u : FNum) : Nat := if u.isZero then zeroOf k u.sign else v
  match x, y with
  | .nan s fr _, .nan _ _ _ => { bits := quietTo k k.f s fr, flags := nv }
  | .nan _ _ _, _ => { bits := keep b y, flags := nv }
  | _, .nan _ _ _ => { bits := keep a x, flags := nv }
  | _, _ =>
    let takeB := if isMax then x.below y else y.below x
    { bits := if takeB then keep b y else keep a x, flags := 0 }

/-- CMP by condition 0 to 7 (R89, R119): the truth and the flags. -/
def fcmp (k : Fmt) (nfz : Bool) (cond a b : Nat) : Bool × Byte :=
  let x := unpack k nfz a
  let y := unpack k nfz b
  let un := x.isNan || y.isNan
  let sn := x.isSnan || y.isSnan
  let ordered := 2 ≤ cond && cond ≤ 5
  let nv : Byte := if sn || (un && ordered) then NV else 0
  let lt := x.lt y
  let gt := y.lt x
  let r : Bool := match cond with
    | 0 => !un && !lt && !gt
    | 1 => un || lt || gt
    | 2 => !un && lt
    | 3 => !un && !gt
    | 4 => !un && gt
    | 5 => !un && !lt
    | 6 => un
    | _ => !un
  (r, nv)

/-! ### Conversion (R120) -/

/-- One format into another, rounding with the attribute; NaN quieted, payload's high bits kept; `sat` replaces an
overflow to infinity by the largest finite value. -/
def fcvt (src dst : Fmt) (env : FEnv) (sat : Bool) (a : Nat) : FRes :=
  match unpack src env.nfz a with
  | .nan s fr q => { bits := quietTo dst src.f s fr, flags := if q then 0 else NV }
  | .inf s => { bits := infOf dst s, flags := 0 }
  | .fin s m e =>
    let r := roundTo dst env.nfz env.rnd s m 1 e false
    if sat && r.bits = infOf dst s then { r with bits := maxOf dst s } else r

/-- A floating value into an integer format of w bits: out of range saturates, and NaN gives 0, with NV, and with NX as the
delivered value differs from the source (R120, R347; DEDUCED, log 72). -/
def fToInt (src : Fmt) (env : FEnv) (signed : Bool) (w : Nat) (a : Nat) : FRes :=
  let lo : Int := if signed then -((2 ^ (w - 1) : Nat) : Int) else 0
  let hi : Int := if signed then ((2 ^ (w - 1) : Nat) : Int) - 1 else ((2 ^ w : Nat) : Int) - 1
  match unpack src env.nfz a with
  | .nan _ _ _ => { bits := 0, flags := NV ||| NX }
  | .inf s => { bits := lowBits (if s then lo else hi) w, flags := NV ||| NX }
  | .fin s m e =>
    let (r, exact) := roundAt env.rnd s (if e ≥ 0 then m * 2 ^ e.toNat else m) (if e ≥ 0 then 1 else 2 ^ (-e).toNat) false 0
    let v : Int := if s then -(r : Int) else r
    if v < lo then { bits := lowBits lo w, flags := NV ||| NX }
    else if v > hi then { bits := lowBits hi w, flags := NV ||| NX }
    else { bits := lowBits v w, flags := if exact then 0 else NX }

/-- An integer into a floating format. -/
def intToF (dst : Fmt) (env : FEnv) (sat : Bool) (v : Int) : FRes :=
  let s := decide (v < 0)
  let r := roundTo dst env.nfz env.rnd s v.natAbs 1 0 false
  if sat && r.bits = infOf dst s then { r with bits := maxOf dst s } else r

/-- LI read under F64: an F32 widened exactly, a NaN keeping its state and payload (R85). -/
def widenF32 (x : Nat) : Nat :=
  match unpack f32 false x with
  | .nan s fr _ => signBit f64 s + f64.top * 2 ^ 52 + fr * 2 ^ 29
  | .inf s => infOf f64 s
  | .fin s m e => (roundTo f64 false .rne s m 1 e false).bits

end Sys2Proof.Machine
end

