-- ==== Sys2Proof/Machine/Teams.lean ====
section
/-! DEFINITION. Finding and changing teams, blocks, grids, cores and dies; descriptor fields (spec/08 R184); registers,
freed entries and dirty bits (spec/03); the mode register's fields (R64) and the poison patterns (spec/05 R113). -/

namespace Sys2Proof.Machine

open Sys2Proof

/-! ### Finding and replacing -/

def State.team? (s : State) (uid : Nat) : Option Team := s.teams.find? fun t => t.uid == uid

def State.setTeam (s : State) (t : Team) : State :=
  { s with teams := s.teams.map fun u => if u.uid = t.uid then t else u }

def State.modTeam (s : State) (uid : Nat) (f : Team → Team) : State :=
  { s with teams := s.teams.map fun u => if u.uid = uid then f u else u }

def State.block? (s : State) (uid : Nat) : Option Block := s.blocks.find? fun b => b.uid == uid

def State.modBlock (s : State) (uid : Nat) (f : Block → Block) : State :=
  { s with blocks := s.blocks.map fun b => if b.uid = uid then f b else b }

def State.grid? (s : State) (gid : Nat) : Option Grid := s.grids.find? fun g => g.gid == gid

def State.modGrid (s : State) (gid : Nat) (f : Grid → Grid) : State :=
  { s with grids := s.grids.map fun g => if g.gid = gid then f g else g }

def State.proc? (s : State) (pid : Nat) : Option Process := s.procs.find? fun p => p.pid == pid

def State.modProc (s : State) (pid : Nat) (f : Process → Process) : State :=
  { s with procs := s.procs.map fun p => if p.pid = pid then f p else p }

def State.coreAt (s : State) (n : Nat) : CoreState := vget s.cores n .reset

def State.modCore (s : State) (n : Nat) (f : CoreState → CoreState) : State :=
  { s with cores := vput s.cores n (f (s.coreAt n)) }

def State.dieAt (s : State) (d : Nat) : DieState := vget s.dies d .reset

def State.modDie (s : State) (d : Nat) (f : DieState → DieState) : State :=
  { s with dies := vput s.dies d (f (s.dieAt d)) }

def State.modHub (s : State) (f : Hub → Hub) : State := { s with hub := f s.hub }

/-- Adds 1 to a count that saturates at 2^64 − 1 (R307, R308). -/
def satInc (x : Double) : Double := if x = BitVec.allOnes 64 then x else x + 1

/-- Adds 1 to device counter n of the read-counters table (R307). -/
def State.count (s : State) (n : Nat) : State :=
  s.modHub fun h => { h with counters := vput h.counters n (satInc (vget h.counters n 0)) }

/-- The near-memory controller 0 to 127 that serves a physical address, or 128 + e for expander e (R134, R308). -/
def controllerOf (pa : Nat) : Nat :=
  if pa < 0x200000000000 then pa / 0x2000000000 * 32 + Nat.xor (bitsOf pa 12 8) (bitsOf pa 17 13)
  else 128 + (pa - 0x200000000000) / 0x20000000000

/-- Adds 1 to number k of an error-log table. -/
def logInc (t : Table 64) (k : Nat) : Table 64 := Table.set t k (satInc (Table.get t k))

def State.say (s : State) (status : String) (values : List Nat) : State :=
  { s with replies := s.replies ++ [{ status := status, values := values }] }

/-- The next value of the counter that free values are applied to. -/
def State.ticked (s : State) : State := { s with tick := s.tick + 1 }

/-- Die, column and row of a linear core number (R6). -/
def dieOf (core : Nat) : Nat := core / 144
def colOf (core : Nat) : Nat := core % 12
def rowOf (core : Nat) : Nat := core / 12 % 12
/-- Package-wide cluster number (R7). -/
def clusterOf (core : Nat) : Nat := dieOf core * 36 + rowOf core / 2 * 6 + colOf core / 2

/-! ### Descriptor fields (R184) -/

def Grid.field (g : Grid) (off n : Nat) : Nat := leNat ((g.desc.drop off).take n)
def Grid.entry (g : Grid) : Double := BitVec.ofNat 64 (g.field 0x000 8)
def Grid.param (g : Grid) : Double := BitVec.ofNat 64 (g.field 0x008 8)
def Grid.count (g : Grid) : Nat := g.field 0x010 4
def Grid.teams (g : Grid) : Nat := g.field 0x014 1
def Grid.ngrp (g : Grid) : Nat := g.field 0x015 1
def Grid.nvec (g : Grid) : Nat := g.field 0x016 1
def Grid.nscal (g : Grid) : Nat := g.field 0x017 1
def Grid.scrsz (g : Grid) : Nat := g.field 0x018 4
def Grid.ntile (g : Grid) : Nat := g.field 0x01C 1
def Grid.nacc (g : Grid) : Nat := g.field 0x01D 1
def Grid.prio (g : Grid) : Nat := g.field 0x01E 1
def Grid.flags (g : Grid) : Nat := g.field 0x01F 1
def Grid.gang (g : Grid) : Bool := g.flags % 2 == 1
def Grid.ordered (g : Grid) : Bool := g.flags / 2 % 2 == 1
def Grid.strict (g : Grid) : Bool := g.flags / 4 % 2 == 1
def Grid.heirDef (g : Grid) : Bool := g.flags / 8 % 2 == 1
def Grid.atomr (g : Grid) : Nat := g.field 0x020 4
def Grid.tfloor (g : Grid) : Nat := g.field 0x024 2
def Grid.nnode (g : Grid) : Nat := g.field 0x026 2
def Grid.seed (g : Grid) : Double := BitVec.ofNat 64 (g.field 0x028 8)
def Grid.cvbase (g : Grid) : Double := BitVec.ofNat 64 (g.field 0x030 8)
def Grid.cvcap (g : Grid) : Nat := g.field 0x038 2
def Grid.cvmode (g : Grid) : Nat := g.field 0x03A 1
def Grid.nafter (g : Grid) : Nat := g.field 0x03B 1
def Grid.relayA (g : Grid) : Double := BitVec.ofNat 64 (g.field 0x040 8)
def Grid.traph (g : Grid) : Double := BitVec.ofNat 64 (g.field 0x048 8)
def Grid.saveh (g : Grid) : Double := BitVec.ofNat 64 (g.field 0x050 8)
def Grid.resth (g : Grid) : Double := BitVec.ofNat 64 (g.field 0x058 8)
def Grid.esth (g : Grid) : Double := BitVec.ofNat 64 (g.field 0x060 8)
def Grid.eventsA (g : Grid) : Double := BitVec.ofNat 64 (g.field 0x070 8)
/-- start-after entry i as a 128-bit number (R185) -/
def Grid.after (g : Grid) (i : Nat) : Nat := g.field (0x0A0 + 16 * i) 16

/-- The grid of a team; a team always has one. -/
def State.gridOf (s : State) (t : Team) : Option Grid := s.grid? t.gid

def State.procOf (s : State) (t : Team) : Option Process := (s.gridOf t).bind fun g => s.proc? g.pid

def State.blockOf (s : State) (t : Team) : Option Block := s.block? t.blk

/-- A team of one of the grid's GRID blocks, not of a node, proposal or estate handler. -/
def Team.isGrid (t : Team) : Bool := t.kind == .grid

/-- The team runs in a shadow (R179). -/
def State.isShadow (s : State) (t : Team) : Bool :=
  match s.blockOf t with
  | some b => b.shadowOf.isSome
  | none => false

/-! ### The mode register (R64) -/

def modeGuard (m : Word) : Nat := (m.extractLsb' 0 4).toNat
def modeSense (m : Word) : Bool := m.getLsbD 4
def modeType (m : Word) : Nat := (m.extractLsb' 5 3).toNat
def modeRnd (m : Word) : Nat := (m.extractLsb' 8 3).toNat
def modeSat (m : Word) : Bool := m.getLsbD 11
def modeNfz (m : Word) : Bool := m.getLsbD 12
/-- The trap enables as bits of the flag byte: enable of flag bit k is mode bit 13 + k (R114). -/
def modeTraps (m : Word) : Byte := (m.extractLsb' 13 5).setWidth 8
def modeChk (m : Word) : Bool := m.getLsbD 18

/-- W = 64 for I64, U64 and F64 (R79). -/
def wide (ty : Nat) : Bool := ty == 2 || ty == 3 || ty == 5

/-- Element width W of TYPE. -/
def widthOf (ty : Nat) : Nat := if wide ty then 64 else 32

/-- The poison pattern of a format 0 to 13 of R89 written at 32 or 64 bits (R113). -/
def poison (fmt : Nat) (w64 : Bool) : Double :=
  match fmt, w64 with
  | 4, false => 0x7FC0DEAD#64
  | 4, true => 0x7FF81BD5A0000000#64
  | 5, false => 0x7FC0DEAD#64
  | 5, true => 0x7FF81BD5A0000000#64
  | 6, false => 0x7E067E06#64
  | 6, true => 0x7E067E067E067E06#64
  | 7, false => 0x7FDE7FDE#64
  | 7, true => 0x7FDE7FDE7FDE7FDE#64
  | 8, _ => 0x00007E06#64
  | 9, _ => 0x00007FDE#64
  | _, false => 0xDEADDEAD#64
  | _, true => 0xDEADDEADDEADDEAD#64

/-! ### Threads and masks (R21 to R23, R38) -/

def Thread.retired (th : Thread) : Bool := th.life != .live

/-- The thread at position p; its home lane while nothing has moved. -/
def Team.threadAt (t : Team) (p : Nat) : Option Thread :=
  match t.threads[p]? with
  | some th => if th.pos = p then some th else t.threads.find? fun th => th.pos == p
  | none => t.threads.find? fun th => th.pos == p

def Team.thread (t : Team) (home : Nat) : Thread := t.threads[home]?.getD (Thread.entry home)

/-- Home lane of the thread at position p. -/
def Team.homeAt (t : Team) (p : Nat) : Nat := (t.threads.findIdx? fun th => th.pos == p).getD 0

def Team.retiredMask (t : Team) : Mask :=
  t.threads.foldl (fun m th => if th.retired then m ||| maskOne th.pos else m) 0

/-- Mask of the threads that satisfy a test. -/
def Team.maskWhere (t : Team) (f : Thread → Bool) : Mask :=
  t.threads.foldl (fun m th => if f th then m ||| maskOne th.pos else m) 0

/-- Threads that wait on a stack entry (R22). -/
def Team.waitingMask (t : Team) : Mask :=
  t.stack.foldl (fun m e => m ||| e.gmask) 0 &&& ~~~t.retiredMask

/-- The current mask less retired threads. -/
def Team.running (t : Team) : Mask := t.mask &&& ~~~t.retiredMask

/-- The lowest position of every quad (R37). -/
def quadStarts : Mask := BitVec.ofNat 1024 ((2 ^ 1024 - 1) / 15)

/-- Quads (R37) with at least one running thread, as a mask of all their positions. -/
def quadsOf (m : Mask) : Mask :=
  let any := m ||| (m >>> 1) ||| (m >>> 2) ||| (m >>> 3)
  let low := any &&& quadStarts
  low ||| (low <<< 1) ||| (low <<< 2) ||| (low <<< 3)

/-- Helper lanes: exited threads in a quad that holds a running thread (R38). -/
def Team.helpers (t : Team) : Mask :=
  (t.maskWhere fun th => th.life == .exited || th.life == .exitedAtEntry) &&& quadsOf t.running

/-- FSUM: the OR of the flag bytes of all the team's threads (R67). -/
def Team.fsum (t : Team) : Byte := t.threads.foldl (fun b th => b ||| th.flags) 0

/-! ### Registers (R48 to R62) -/

/-- What the register file holds for vector register i of a thread; a freed entry reads 0 (R58). -/
def Thread.readV (th : Thread) (i : Nat) : Word :=
  if th.freed.getLsbD i then 0 else vget th.v i 0

/-- Writes one entry and clears its freed bit (R58). -/
def Thread.writeV (th : Thread) (i : Nat) (x : Word) : Thread :=
  { th with v := vput th.v i x, freed := th.freed &&& ~~~(1#64 <<< i) }

def Thread.free (th : Thread) (i : Nat) : Thread := { th with freed := th.freed ||| (1#64 <<< i) }

/-- p0 reads true (R50). -/
def Thread.readP (th : Thread) (i : Nat) : Bool := i == 0 || th.p.getLsbD i

/-- A write to p0 is discarded (R50). -/
def Thread.writeP (th : Thread) (i : Nat) (x : Bool) : Thread :=
  if i = 0 then th else { th with p := if x then th.p ||| (1#16 <<< i) else th.p &&& ~~~(1#16 <<< i) }

def Team.readS (t : Team) (i : Nat) : Word := vget t.s i 0

/-- A write to a line of the scalar, predicate or lane-flag area, as AUXDIRTY numbers it: the line is in the register cache and dirty
(R62; log 68). A handler context's private registers have no lines (R213). -/
def Team.markAux (t : Team) (k : Nat) : Team :=
  if t.aside.isSome then t
  else { t with auxDirty := t.auxDirty ||| (1#64 <<< k), auxAbsent := t.auxAbsent &&& ~~~(1#64 <<< k) }

def Team.markS (t : Team) (i : Nat) : Team := t.markAux (i / 32)

def Team.writeS (t : Team) (i : Nat) (x : Word) : Team :=
  Team.markS { t with s := vput t.s i x } i

def Team.readSP (t : Team) (i : Nat) : Double := t.readS (i + 1) ++ t.readS i

def Team.writeSP (t : Team) (i : Nat) (x : Double) : Team :=
  (t.writeS i (x.setWidth 32)).writeS (i + 1) (x.extractLsb' 32 32)

/-- A write to the vector line of register i and row g: the line is in the cache and dirty, and so is its freed-map line, whose bit
the write clears whether or not it was set (R58, R62; log 68). -/
def Team.markV (t : Team) (i g : Nat) : Team :=
  if t.aside.isSome then t
  else
    { t with dirty := t.dirty ||| (1#2048 <<< (32 * i + g)), fDirty := t.fDirty ||| (1#64 <<< i),
             absent := t.absent &&& ~~~(1#2048 <<< (32 * i + g)), fAbsent := t.fAbsent &&& ~~~(1#64 <<< i) }

def Team.markP (t : Team) (i : Nat) : Team := t.markAux (2 + i)

def Team.markF (t : Team) (g : Nat) : Team := t.markAux (18 + g / 4)

/-- Applies f to the thread with home lane h. -/
def Team.modThread (t : Team) (h : Nat) (f : Thread → Thread) : Team :=
  { t with threads := modifyAt t.threads h f }

/-- Applies f to every thread whose position is in the mask. -/
def Team.modLanes (t : Team) (m : Mask) (f : Thread → Thread) : Team :=
  { t with threads := t.threads.map fun th => if maskHas m th.pos then f th else th }

/-- Writes one 32-bit register by reference, with its dirty bit. -/
def Team.writeRef (t : Team) (r : RegRef) (x : Word) : Team :=
  match r with
  | .v h i =>
    (t.modThread h fun th => th.writeV i.toNat x).markV i.toNat ((t.thread h).pos / 32)
  | .s i => t.writeS i.toNat x
  | .p h i => (t.modThread h fun th => th.writeP i.toNat (x != 0)).markP i.toNat

def Team.readRef (t : Team) (r : RegRef) : Word :=
  match r with
  | .v h i => (t.thread h).readV i.toNat
  | .s i => t.readS i.toNat
  | .p h i => if (t.thread h).readP i.toNat then 1 else 0

/-! ### Existence of registers (R49, R213) -/

def Team.hasV (t : Team) (i : Nat) : Bool := i < t.nvec
def Team.hasVP (t : Team) (i : Nat) : Bool := i % 2 == 0 && i + 1 < t.nvec
/-- s62 and s63 always exist, except in a save or restore handler context (R49, R213). -/
def Team.hasS (t : Team) (i : Nat) : Bool := i < t.nscal || (62 ≤ i && i < 64 && t.aside.isNone)
def Team.hasSP (t : Team) (i : Nat) : Bool := i % 2 == 0 && t.hasS i && t.hasS (i + 1)
def Team.hasP (t : Team) (i : Nat) : Bool := if t.aside.isSome then i < 4 else i < 16

end Sys2Proof.Machine
end

