-- ==== Sys2Proof/Machine/Lines.lean ====
section
/-! DEFINITION. Lines of the register cache (spec/03 R52 to R62): which lines a team has, the packing forms and their choice,
write-back, eviction, the arrival of a line, and late writes to a line that is not in the cache. -/

namespace Sys2Proof.Machine

open Sys2Proof

/-! ### Packing forms (R60, R61) -/

/-- The entries of a line by position, none where an entry is freed. -/
abbrev LineEntries := List (Option Word)

/-- Every entry that is not freed satisfies the test at its position. -/
def LineEntries.fits (es : LineEntries) (f : Nat → Word → Bool) : Bool :=
  es.zipIdx.all fun (e, j) => match e with | some x => f j x | none => true

/-- Entry j of the affine form. -/
def affineAt (base stride : Word) (j : Nat) : Word := base + BitVec.ofNat 32 j * stride

/-- Entry j of the narrow form from its half. -/
def narrowAt (h : Half) : Word := h.signExtend 32

/-- The value that all the entries hold. -/
def uniformOf (es : LineEntries) : Option Word :=
  let x := (es.findSome? id).getD 0
  if es.fits fun _ y => y == x then some x else none

/-- Base and stride that give all the entries: from the first two that are held, the stride is one of the quotients of their
difference modulo 2^32. Where freed entries leave several strides that do, it is the smallest (DESIGN CHOICE, log 68). -/
def affineOf (es : LineEntries) : Option (Word × Word) :=
  match es.zipIdx.filterMap fun (e, j) => e.map fun x => (j, x) with
  | (i, x) :: (j, y) :: _ =>
    (List.range (j - i)).findSome? fun q =>
      let n := (y - x).toNat + q * 2 ^ 32
      let stride := BitVec.ofNat 32 (n / (j - i))
      let base := x - BitVec.ofNat 32 i * stride
      if n % (j - i) = 0 && es.fits fun k z => z == affineAt base stride k then some (base, stride) else none
  | _ => none

/-- A tag and the bytes that its form writes. At the place of a freed entry the narrow and general forms write 0 (DESIGN CHOICE,
log 68). -/
def packLine (es : LineEntries) : BitVec 2 × List Byte :=
  match uniformOf es with
  | some x => (1, leBytes 4 x.toNat)
  | none =>
    match affineOf es with
    | some (b, st) => (2, leBytes 4 b.toNat ++ leBytes 4 st.toNat)
    | none =>
      if es.fits fun _ x => narrowAt (x.setWidth 16) == x then
        (3, es.flatMap fun e => leBytes 2 ((e.getD 0).toNat % 2 ^ 16))
      else (0, es.flatMap fun e => leBytes 4 (e.getD 0).toNat)

/-- Entry j of a slot of the image, read by its tag. -/
def slotEntry (m : Memory) (slot : Nat) (tag : BitVec 2) (j : Nat) : Word :=
  match tag with
  | 0 => BitVec.ofNat 32 (Memory.readNat m (slot + 4 * j) 4)
  | 1 => BitVec.ofNat 32 (Memory.readNat m slot 4)
  | 2 => affineAt (BitVec.ofNat 32 (Memory.readNat m slot 4)) (BitVec.ofNat 32 (Memory.readNat m (slot + 4) 4)) j
  | _ => narrowAt (BitVec.ofNat 16 (Memory.readNat m (slot + 2 * j) 2))

/-- The slot of vector line k (R71). -/
def slotOf (k : Nat) : Nat := 0x1000 + 128 * k

/-! ### Tags and presence -/

def Team.tag2 (t : Team) (k : Nat) : BitVec 2 := t.tags.extractLsb' (2 * k) 2

/-- x with the two bits at 2k replaced. -/
def putTag (x : BitVec 4096) (k : Nat) (tag : BitVec 2) : BitVec 4096 :=
  (x &&& ~~~((3#4096) <<< (2 * k))) ||| (tag.setWidth 4096 <<< (2 * k))

/-- The team has the line: lines of rows and registers that it does not have are neither read nor written (R71). -/
def Team.hasLine (t : Team) : RegLine → Bool
  | .vector k => k / 32 < t.nvec && k % 32 < t.ngrp
  | .aux k => k = 1 || (k = 0 && 0 < t.nscal) || (2 ≤ k && k < 18) || (18 ≤ k && k < 18 + (t.ngrp + 3) / 4)
  | .freed k => k < t.nvec

def Team.isAbsent (t : Team) : RegLine → Bool
  | .vector k => t.absent.getLsbD k
  | .aux k => t.auxAbsent.getLsbD k
  | .freed k => t.fAbsent.getLsbD k

def Team.isDirty (t : Team) : RegLine → Bool
  | .vector k => t.dirty.getLsbD k
  | .aux k => t.auxDirty.getLsbD k
  | .freed k => t.fDirty.getLsbD k

def Team.setAbsent (t : Team) (l : RegLine) (gone : Bool) : Team :=
  let put {w : Nat} (x : BitVec w) (k : Nat) : BitVec w := if gone then x ||| (1#w <<< k) else x &&& ~~~(1#w <<< k)
  match l with
  | .vector k => { t with absent := put t.absent k }
  | .aux k => { t with auxAbsent := put t.auxAbsent k }
  | .freed k => { t with fAbsent := put t.fAbsent k }

/-- Every line of the team. -/
def Team.lines (t : Team) : List RegLine :=
  ((List.range 2048).map RegLine.vector ++ (List.range 26).map RegLine.aux ++ (List.range 64).map RegLine.freed).filter t.hasLine

/-- The entries of vector line k. -/
def Team.lineEntries (t : Team) (k : Nat) : LineEntries :=
  (List.range 32).map fun j =>
    (t.threadAt (32 * (k % 32) + j)).bind fun th => if th.freed.getLsbD (k / 32) then none else some (vget th.v (k / 32) 0)

/-! ### Write-back, eviction, arrival (R53, R54, R59, R61, R62) -/

/-- The slot and tag of vector line k take the form that R61 chooses. -/
def Team.packSlot (t : Team) (k : Nat) : Team :=
  let (tag, bs) := packLine (t.lineEntries k)
  { t with image := Memory.writeBytes t.image (slotOf k) bs, tags := putTag t.tags k tag }

/-- A dirty line is written back in the form that R61 chooses, and its bit is cleared. A line whose entries are all freed is not
written, and keeps its slot, its tag and its bit (R59). -/
def Team.writeBack (t : Team) (l : RegLine) : Team :=
  if !t.isDirty l then t
  else
    match l with
    | .vector k =>
      if (t.lineEntries k).all Option.isNone then t else { t.packSlot k with dirty := t.dirty &&& ~~~(1#2048 <<< k) }
    | .aux k => { t with auxDirty := t.auxDirty &&& ~~~(1#64 <<< k) }
    | .freed k => { t with fDirty := t.fDirty &&& ~~~(1#64 <<< k) }

/-- A line leaves the cache. -/
def Team.evict (t : Team) (l : RegLine) : Team := (t.writeBack l).setAbsent l true

/-- The entries of vector line k that are not freed take what its slot holds. -/
def Team.unpackLine (t : Team) (k : Nat) : Team :=
  { t with threads := t.threads.map fun th =>
      if th.pos / 32 = k % 32 && !th.freed.getLsbD (k / 32) then
        { th with v := vput th.v (k / 32) (slotEntry t.image (slotOf k) (t.tag2 k) (th.pos % 32)) }
      else th }

/-- An absent line arrives and is unpacked by its format tag. -/
def Team.fill (t : Team) (l : RegLine) : Team :=
  let t1 := match l with
    | .vector k => t.unpackLine k
    | _ => t
  t1.setAbsent l false

/-- A line that is not in the cache is stored back in the general form with its tag set to general (R55). -/
def Team.storeGeneral (t : Team) (k : Nat) : Team :=
  { t with image := Memory.writeBytes t.image (slotOf k) ((t.lineEntries k).flatMap fun e => leBytes 4 (e.getD 0).toNat),
           tags := putTag t.tags k 0 }

/-- A late write to one register: an atomic reply, or a write of the debugger or of Serai. A line in the cache takes it as any
write; one that is not there takes it in the image (R55), where no dirty bit stands for it. The freed bit that it clears is a write to
the freed-map line of the register, wherever that is (R58, R62). -/
def Team.lateWrite (t : Team) (r : RegRef) (x : Word) : Team :=
  match r with
  | .v h i =>
    let k := 32 * i.toNat + (t.thread h).pos / 32
    if t.aside.isNone && t.absent.getLsbD k then
      let t1 := (t.modThread h fun th => th.writeV i.toNat x).storeGeneral k
      if t.fAbsent.getLsbD i.toNat then t1 else { t1 with fDirty := t.fDirty ||| (1#64 <<< i.toNat) }
    else t.writeRef r x
  | .s i => if t.aside.isNone && t.auxAbsent.getLsbD (i.toNat / 32) then { t with s := vput t.s i.toNat x } else t.writeRef r x
  | .p h i =>
    if t.aside.isNone && t.auxAbsent.getLsbD (2 + i.toNat) then t.modThread h fun th => th.writeP i.toNat (x != 0) else t.writeRef r x

/-! ### At team entry (R61) -/

/-- v0 is affine in each row, and every other vector line uniform. -/
def entryTags (nvec ngrp : Nat) : BitVec 4096 :=
  let row (tag : Nat) : BitVec 4096 := BitVec.ofNat 4096 (tag * ((4 ^ ngrp - 1) / 3))
  (List.range nvec).foldl (fun x i => x ||| (row (if i = 0 then 2 else 1) <<< (64 * i))) 0

/-- The slots of v0: base and stride 1; every other slot holds 0. -/
def entryImage (tix ngrp : Nat) : Memory :=
  (List.range ngrp).foldl (fun m g => Memory.writeBytes m (slotOf g) (leBytes 4 (32 * (tix * ngrp + g)) ++ leBytes 4 1)) []

end Sys2Proof.Machine
end

