-- ==== Sys2Proof/Machine/Image.lean ====
section
/-! DEFINITION. Context images, block images and log regions as memory (spec/03 R71 to R74, spec/09 R204, R205, spec/13
R237, R238, spec/15 R261): each byte read from, or written into, the piece of state that stands there. -/

namespace Sys2Proof.Machine

open Sys2Proof

/-- A number laid out from (byte offset, value) fields. -/
def packFields (fs : List (Nat × Nat)) : Nat := fs.foldl (fun n f => n + f.2 * 2 ^ (8 * f.1)) 0

/-- n bytes at byte offset off. -/
def fieldAt (x off n : Nat) : Nat := x / 2 ^ (8 * off) % 2 ^ (8 * n)

def byteOf (x k : Nat) : Byte := BitVec.ofNat 8 (x / 2 ^ (8 * k))

/-- x with byte k replaced. -/
def putByte (x k : Nat) (b : Byte) : Nat :=
  x - (x / 2 ^ (8 * k) % 256) * 2 ^ (8 * k) + b.toNat * 2 ^ (8 * k)

/-! ### Layouts -/

/-- R27; PRES is recomputed. -/
def PathEntry.pack (e : PathEntry) : Nat :=
  e.pc.toNat + e.kind.toNat * 2 ^ 64 + e.ftag.toNat * 2 ^ 66 + e.resv.toNat * 2 ^ 78 +
    (presenceOf e.gmask).toNat * 2 ^ 96 + e.gmask.toNat * 2 ^ 128

def PathEntry.unpack (x : Nat) : PathEntry :=
  { pc := BitVec.ofNat 64 x, kind := BitVec.ofNat 2 (x / 2 ^ 64), ftag := BitVec.ofNat 12 (x / 2 ^ 66),
    resv := BitVec.ofNat 18 (x / 2 ^ 78), gmask := BitVec.ofNat 1024 (x / 2 ^ 128) }

/-- The first 0x400 bytes of a replay-queue entry (R205). -/
def ReplayEntry.pack (e : ReplayEntry) : Nat :=
  packFields [(0x000, e.pc.toNat), (0x008, e.word.toNat), (0x00C, e.lit.toNat), (0x010, e.state.toNat),
    (0x014, e.mode.toNat), (0x080, e.pmask.toNat)]

def ReplayEntry.unpack (x : Nat) (ops : Table 64) (bad : List Nat) : ReplayEntry :=
  { pc := BitVec.ofNat 64 (fieldAt x 0 8), word := BitVec.ofNat 32 (fieldAt x 8 4), lit := BitVec.ofNat 32 (fieldAt x 12 4),
    state := BitVec.ofNat 8 (fieldAt x 16 1), mode := BitVec.ofNat 32 (fieldAt x 20 4),
    pmask := BitVec.ofNat 1024 (fieldAt x 128 128), ops := ops, bad := bad }

/-- R204. -/
def TrapFrame.pack (f : TrapFrame) : Nat :=
  packFields [(0x000, f.tpc.toNat), (0x008, f.rpc.toNat), (0x010, f.smode.toNat), (0x014, f.cause.toNat),
    (0x015, f.detail.toNat), (0x016, f.active.toNat), (0x017, f.rqn.toNat), (0x018, f.vaddr.toNat), (0x020, f.info.toNat),
    (0x028, f.word.toNat), (0x02C, f.lit.toNat), (0x030, f.edepth.toNat), (0x032, f.skid.toNat), (0x080, f.lmask.toNat),
    (0x100, f.smask.toNat)]

def TrapFrame.unpack (x : Nat) : TrapFrame :=
  { tpc := BitVec.ofNat 64 (fieldAt x 0 8), rpc := BitVec.ofNat 64 (fieldAt x 8 8),
    smode := BitVec.ofNat 32 (fieldAt x 0x10 4), cause := BitVec.ofNat 8 (fieldAt x 0x14 1),
    detail := BitVec.ofNat 8 (fieldAt x 0x15 1), active := BitVec.ofNat 8 (fieldAt x 0x16 1),
    rqn := BitVec.ofNat 8 (fieldAt x 0x17 1), vaddr := BitVec.ofNat 64 (fieldAt x 0x18 8),
    info := BitVec.ofNat 64 (fieldAt x 0x20 8), word := BitVec.ofNat 32 (fieldAt x 0x28 4),
    lit := BitVec.ofNat 32 (fieldAt x 0x2C 4), edepth := BitVec.ofNat 16 (fieldAt x 0x30 2),
    skid := BitVec.ofNat 16 (fieldAt x 0x32 2), lmask := BitVec.ofNat 1024 (fieldAt x 0x80 128),
    smask := BitVec.ofNat 1024 (fieldAt x 0x100 128) }

/-- R261. -/
def EstateSlot.pack (e : EstateSlot) : Nat :=
  e.kind.toNat + e.resv3.toNat * 2 ^ 3 + e.brv.toNat * 2 ^ 4 + e.hkind.toNat * 2 ^ 5 + e.quiet.toNat * 2 ^ 7 +
    e.resv.toNat * 2 ^ 8 + e.seq.toNat * 2 ^ 96 + e.htag.toNat * 2 ^ 128 + e.count.toNat * 2 ^ 160 + e.addr.toNat * 2 ^ 192

def EstateSlot.unpack (x : Nat) : EstateSlot :=
  { kind := BitVec.ofNat 3 x, resv3 := x / 2 ^ 3 % 2 == 1, brv := x / 2 ^ 4 % 2 == 1, hkind := BitVec.ofNat 2 (x / 2 ^ 5),
    quiet := x / 2 ^ 7 % 2 == 1, resv := BitVec.ofNat 88 (x / 2 ^ 8), seq := BitVec.ofNat 32 (x / 2 ^ 96),
    htag := BitVec.ofNat 32 (x / 2 ^ 128), count := BitVec.ofNat 32 (x / 2 ^ 160), addr := BitVec.ofNat 64 (x / 2 ^ 192) }

/-- The 64 bytes of R237. -/
def ChoiceState.pack (c : ChoiceState) : Nat :=
  packFields [(0x00, c.stream.toNat), (0x08, c.loga.toNat), (0x10, c.gen.toNat), (0x14, c.ord.toNat), (0x18, c.occ3.toNat),
    (0x1C, c.occ4.toNat), (0x20, c.n.toNat), (0x22, c.sn.toNat), (0x24, c.rn.toNat), (0x26, c.cap.toNat),
    (0x28, c.div.toNat), (0x2A, c.sta.toNat), (0x2B, c.rwc.toNat), (0x2C, c.chain.toNat), (0x30, c.accraw.toNat),
    (0x34, c.accset.toNat)]

def ChoiceState.putState (c : ChoiceState) (x : Nat) : ChoiceState :=
  { c with
    stream := BitVec.ofNat 64 (fieldAt x 0 8), loga := BitVec.ofNat 64 (fieldAt x 8 8), gen := BitVec.ofNat 32 (fieldAt x 0x10 4),
    ord := BitVec.ofNat 32 (fieldAt x 0x14 4), occ3 := BitVec.ofNat 32 (fieldAt x 0x18 4),
    occ4 := BitVec.ofNat 32 (fieldAt x 0x1C 4), n := BitVec.ofNat 16 (fieldAt x 0x20 2),
    sn := BitVec.ofNat 16 (fieldAt x 0x22 2), rn := BitVec.ofNat 16 (fieldAt x 0x24 2),
    cap := BitVec.ofNat 16 (fieldAt x 0x26 2), div := BitVec.ofNat 16 (fieldAt x 0x28 2),
    sta := BitVec.ofNat 8 (fieldAt x 0x2A 1), rwc := BitVec.ofNat 8 (fieldAt x 0x2B 1),
    chain := BitVec.ofNat 32 (fieldAt x 0x2C 4), accraw := BitVec.ofNat 32 (fieldAt x 0x30 4),
    accset := BitVec.ofNat 8 (fieldAt x 0x34 1) }

/-- A byte of the thread's log region (R238); `cvcap` is the grid's. -/
def ChoiceState.logByte (c : ChoiceState) (cvcap off : Nat) : Byte :=
  if off < 0x100 then byteOf (vget c.sites (off / 4) 0).toNat (off % 4)
  else if off < 0x120 then byteOf (vget c.result ((off - 0x100) / 4) 0).toNat (off % 4)
  else if off < 0x140 then byteOf c.pending.toNat (off - 0x120)
  else if off < 0x140 + 8 * cvcap then byteOf (Table.get c.record ((off - 0x140) / 8)).toNat (off % 8)
  else byteOf (Table.get c.source ((off - 0x140 - 8 * cvcap) / 8)).toNat (off % 8)

def ChoiceState.putLogByte (c : ChoiceState) (cvcap off : Nat) (b : Byte) : ChoiceState :=
  if off < 0x100 then
    { c with sites := vput c.sites (off / 4) (BitVec.ofNat 32 (putByte (vget c.sites (off / 4) 0).toNat (off % 4) b)) }
  else if off < 0x120 then
    let k := (off - 0x100) / 4
    { c with result := vput c.result k (BitVec.ofNat 32 (putByte (vget c.result k 0).toNat (off % 4) b)) }
  else if off < 0x140 then { c with pending := BitVec.ofNat 256 (putByte c.pending.toNat (off - 0x120) b) }
  else if off < 0x140 + 8 * cvcap then
    let k := (off - 0x140) / 8
    { c with record := Table.set c.record k (BitVec.ofNat 64 (putByte (Table.get c.record k).toNat (off % 8) b)) }
  else
    let k := (off - 0x140 - 8 * cvcap) / 8
    { c with source := Table.set c.source k (BitVec.ofNat 64 (putByte (Table.get c.source k).toNat (off % 8) b)) }

/-! ### The context image (R71, R72) -/

/-- The team's own state, where a save or restore handler context has set it aside (R213). -/
def Team.real (t : Team) : Team :=
  match t.aside with
  | none => t
  | some a => { t with threads := a.threads, s := a.s, mode := a.mode, mask := a.mask, pc := a.pc, nvec := a.nvec, nscal := a.nscal,
                       stack := a.stack }

/-- Puts changes to the team's own state back where it stands. -/
def Team.putReal (t r : Team) : Team :=
  match t.aside with
  | none => r
  | some a =>
    { r with
      threads := t.threads, s := t.s, mode := t.mode, mask := t.mask, pc := t.pc, nvec := t.nvec, nscal := t.nscal, stack := t.stack,
      aside := some { a with threads := r.threads, s := r.s, mode := r.mode, mask := r.mask, pc := r.pc, nvec := r.nvec, nscal := r.nscal,
                             stack := r.stack } }

/-- RQN: entries in use (R72, R204). -/
def Team.rqn (t : Team) : Nat := (t.rq.toList.filter fun e => e.state != 0).length

/-- PC as the image and the debugger show it: a team that waits in SYSC stands at the SYSC (R221). -/
def Team.shownPc (t : Team) : Double :=
  match t.run with
  | .waiting (.sysc _) => t.waitEntry.pc
  | _ => t.pc

/-- Bytes 0x000 to 0x0FF of the header. -/
def Team.headerLow (t : Team) : Nat :=
  packFields [(0x000, t.shownPc.toNat), (0x008, t.mode.toNat), (0x00C, t.fsum.toNat), (0x00D, t.cause.toNat), (0x00E, t.nvec),
    (0x00F, t.nscal), (0x010, t.ngrp), (0x011, t.rqn), (0x012, t.stack.length), (0x014, (presenceOf t.mask).toNat),
    (0x018, t.auxDirty.toNat), (0x020, t.fDirty.toNat), (0x080, t.mask.toNat)]

/-- A word of bits, one for each position of row g. -/
def rowWord (t : Team) (g : Nat) (f : Thread → Bool) : Word := maskRow (t.maskWhere f) g

/-- Bytes of the header that the part reads or keeps; the others are ignored (R72). -/
def headerHeld (off : Nat) : Bool := off < 0x28 || 0x80 ≤ off

/-- Bytes of a replay-queue entry that are not ignored (R205). -/
def replayHeld (o : Nat) : Bool := o < 0x11 || (0x14 ≤ o && o < 0x18) || (0x80 ≤ o && o < 0x100) || 0x400 ≤ o

/-- Bytes of the trap frame that are not ignored (R204). -/
def frameHeld (o : Nat) : Bool := o < 0x34 || (0x80 ≤ o && o < 0x180)

/-- What a byte of the image that the team's state holds reads as; none for bytes that only memory holds. -/
def Team.heldByte (t0 : Team) (off : Nat) : Option Byte :=
  let t := t0.real
  let row (g : Nat) (b : Byte) : Option Byte := if g < t.ngrp then some b else none
  if off < 0x100 then (if headerHeld off then some ((t.header.lookup off).getD (byteOf t.headerLow off)) else none)
  else if off < 0x200 then some (byteOf t.dirty.toNat (off - 0x100))
  else if off < 0x400 then some (byteOf t.tags.toNat (off - 0x200))
  else if off < 0x500 then
    let i := (off - 0x400) / 4
    if i < t.nscal || 62 ≤ i then some (byteOf (t.readS i).toNat (off % 4)) else none
  else if off < 0xD00 then
    let p := (off - 0x500) / 2
    row (p / 32) (byteOf (let w := (Table.get t.mapWritten p).toNat; if w = 0 then t.homeAt p else w) (off % 2))
  else if off < 0x1000 then none
  else if off < 0x41000 then
    let k := (off - 0x1000) / 128
    if k / 32 < t.nvec then (t.threadAt (32 * (k % 32) + off % 128 / 4)).map fun th => byteOf (th.readV (k / 32)).toNat (off % 4) else none
  else if off < 0x43000 then
    let k := (off - 0x41000) / 4
    if k / 32 < t.nvec then row (k % 32) (byteOf (rowWord t (k % 32) fun th => th.freed.getLsbD (k / 32)).toNat (off % 4)) else none
  else if off < 0x43800 then
    let k := (off - 0x43000) / 4
    row (k % 32) (byteOf (rowWord t (k % 32) fun th => th.readP (k / 32)).toNat (off % 4))
  else if off < 0x43C00 then (t.threadAt (off - 0x43800)).map Thread.flags
  else if off < 0x44000 then none
  else if off < 0x4D000 then
    (t.stack.reverse[(off - 0x44000) / 144]?).map fun e => byteOf e.pack ((off - 0x44000) % 144)
  else if off < 0x7F000 then
    let o := (off - 0x4D000) % 25600
    let e := vget t.rq ((off - 0x4D000) / 25600) .free
    if !replayHeld o then none
    else some (if o < 0x400 then byteOf e.pack o else byteOf (Table.get e.ops ((o - 0x400) / 8)).toNat (o % 8))
  else if off < 0x7F200 then
    if frameHeld (off - 0x7F000) then some (byteOf { t.frame with rqn := BitVec.ofNat 8 t.rqn }.pack (off - 0x7F000)) else none
  else if off < 0x7F600 then some (byteOf (vget t.estate ((off - 0x7F200) / 32) (.free 1)).pack (off % 32))
  else if off < 0x80000 then none
  else if off < 0x90000 then
    if off % 64 < 0x35 then (t.threads[(off - 0x80000) / 64]?).map fun th => byteOf th.cv.pack (off % 64) else none
  else if off < 0x90008 then some (byteOf t.sspImage.toNat (off - 0x90000))
  else none

/-- A byte of the context image: what the state holds, with register lines as register reads give them (R56), and else memory. -/
def Team.imageByte (t : Team) (off : Nat) : Byte := (t.heldByte off).getD (Memory.read t.image off)

/-- The team is not at the issue logic's header: its own state stands in the image until it resumes. -/
def Team.imaged (t : Team) : Bool := t.aside.isSome || t.preempted

/-- A store to the header (R72). The issue logic of a resident team holds PC, NVEC, NSCAL, the current masks and the maps, and takes
them at once; MODE is written only as R66 says, and the others the part computes (log 20). In the image of a team that is not
running they stand as written until resumption reads them; PRES is recomputed whenever it is read, and masks have no bit of a row that
the team does not have (R23). -/
def Team.putHeaderLow (t : Team) (imaged : Bool) (off : Nat) (b : Byte) : Team :=
  let x := putByte t.headerLow off b
  let t1 := { t with
    pc := if off < 8 then BitVec.ofNat 64 (fieldAt x 0 8) else t.pc, nvec := fieldAt x 0x0E 1, nscal := fieldAt x 0x0F 1, auxDirty := BitVec.ofNat 64 (fieldAt x 0x18 8),
    fDirty := BitVec.ofNat 64 (fieldAt x 0x20 8), mask := BitVec.ofNat 1024 (fieldAt x 0x80 128) &&& fullMask t.ngrp }
  if imaged && 0x008 ≤ off && off < 0x014 then { t1 with header := (off, b) :: t1.header } else t1

/-- Writes a bit per position of row g. -/
def Team.putRowByte (t : Team) (g k : Nat) (b : Byte) (f : Thread → Bool → Thread) : Team :=
  { t with threads := t.threads.map fun th =>
      if th.pos / 32 = g && th.pos % 32 / 8 = k then f th (b.getLsbD (th.pos % 8)) else th }

/-- The position map as stored: the home lane that each position of the team is given. -/
def Team.mapAt (t : Team) (p : Nat) : Nat :=
  let w := (Table.get t.mapWritten p).toNat
  if w = 0 then t.homeAt p else w % 0x10000

/-- When every home lane of the team stands at exactly one position of the map as stored, the threads take those home lanes. What is
kept by home lane, a thread's choice vector and its log of outward results, stays with the home lane (R35, R237). -/
def Team.rehome (t : Team) : Team :=
  let n := t.threads.length
  let m := (List.range n).map t.mapAt
  if (List.range n).all fun h => m.contains h then
    { t with
      mapWritten := [],
      threads := t.threads.zipIdx.map fun (old, h) =>
        let p := (m.findIdx? fun x => x == h).getD h
        match t.threadAt p with
        | some th => { th with cv := old.cv, outLog := old.outLog }
        | none => old }
  else t

/-- A store to the position map. -/
def Team.putMapByte (t : Team) (p k : Nat) (b : Byte) : Team :=
  let x := putByte (t.mapAt p) k b
  Team.rehome { t with mapWritten := Table.set t.mapWritten p (BitVec.ofNat 17 (0x10000 + x % 0x10000)) }

/-- A handler context's threads stand at the positions of the team's own. -/
def Team.alignContext (t : Team) : Team :=
  match t.aside with
  | none => t
  | some a => { t with threads := a.threads.map fun th => (t.threadAt th.pos).getD th }

/-- A store to the format tags; a line that is not in the cache is read by its new tag. -/
def Team.putTagByte (t : Team) (k : Nat) (b : Byte) : Team :=
  let t1 := { t with tags := BitVec.ofNat 4096 (putByte t.tags.toNat k b) }
  (List.range 4).foldl (fun t i => if t.absent.getLsbD (4 * k + i) then t.unpackLine (4 * k + i) else t) t1

/-- A store to a vector line's slot passes through the register cache as a write of the entry. -/
def Team.putVectorByte (t : Team) (i p k : Nat) (b : Byte) : Team :=
  { t with
    dirty := t.dirty ||| (1#2048 <<< (32 * i + p / 32)), fDirty := t.fDirty ||| (1#64 <<< i),
    absent := t.absent &&& ~~~(1#2048 <<< (32 * i + p / 32)), fAbsent := t.fAbsent &&& ~~~(1#64 <<< i),
    threads := t.threads.map fun th =>
      if th.pos = p then th.writeV i (BitVec.ofNat 32 (putByte (th.readV i).toNat k b)) else th }

/-- A write to a line of the scalar, predicate or lane-flag area, or of the freed map. -/
def Team.touchAux (t : Team) (k : Nat) : Team :=
  { t with auxDirty := t.auxDirty ||| (1#64 <<< k), auxAbsent := t.auxAbsent &&& ~~~(1#64 <<< k) }

def Team.touchFreed (t : Team) (i : Nat) : Team :=
  { t with fDirty := t.fDirty ||| (1#64 <<< i), fAbsent := t.fAbsent &&& ~~~(1#64 <<< i) }

/-- Writes a byte that the team's state holds (R56): the piece of state that stands there takes it. -/
def Team.putHeldByte (t0 : Team) (off : Nat) (b : Byte) : Team :=
  let t := t0.real
  let r : Team :=
    if off < 0x100 then t.putHeaderLow t0.imaged off b
    else if off < 0x200 then { t with dirty := BitVec.ofNat 2048 (putByte t.dirty.toNat (off - 0x100) b) }
    else if off < 0x400 then t.putTagByte (off - 0x200) b
    else if off < 0x500 then
      let i := (off - 0x400) / 4
      Team.touchAux { t with s := vput t.s i (BitVec.ofNat 32 (putByte (t.readS i).toNat (off % 4) b)) } (i / 32)
    else if off < 0xD00 then t.putMapByte ((off - 0x500) / 2) (off % 2) b
    else if off < 0x41000 then
      let k := (off - 0x1000) / 128
      t.putVectorByte (k / 32) (32 * (k % 32) + off % 128 / 4) (off % 4) b
    else if off < 0x43000 then
      let k := (off - 0x41000) / 4
      (t.putRowByte (k % 32) (off % 4) b fun th x => if x then th.free (k / 32) else { th with freed := th.freed &&& ~~~(1#64 <<< (k / 32)) }).touchFreed
        (k / 32)
    else if off < 0x43800 then
      let k := (off - 0x43000) / 4
      (t.putRowByte (k % 32) (off % 4) b fun th x => th.writeP (k / 32) x).touchAux (2 + k / 32)
    else if off < 0x43C00 then
      let p := off - 0x43800
      Team.touchAux { t with threads := t.threads.map fun th => if th.pos = p then { th with flags := b } else th } (18 + p / 128)
    else if off < 0x4D000 then
      let e := (off - 0x44000) / 144
      let st := t.stack.reverse
      { t with stack := (modifyAt st e fun x => PathEntry.unpack (putByte x.pack ((off - 0x44000) % 144) b)).reverse }
    else if off < 0x7F000 then
      let k := (off - 0x4D000) / 25600
      let o := (off - 0x4D000) % 25600
      let e := vget t.rq k .free
      let e' : ReplayEntry :=
        if o < 0x400 then ReplayEntry.unpack (putByte e.pack o b) e.ops e.bad
        else
          let j := (o - 0x400) / 8
          { e with ops := Table.set e.ops j (BitVec.ofNat 64 (putByte (Table.get e.ops j).toNat (o % 8) b)), bad := e.bad.filter (· != j) }
      { t with rq := vput t.rq k e' }
    else if off < 0x7F200 then { t with frame := TrapFrame.unpack (putByte t.frame.pack (off - 0x7F000) b) }
    else if off < 0x7F600 then
      let k := (off - 0x7F200) / 32
      { t with estate := vput t.estate k (EstateSlot.unpack (putByte (vget t.estate k (.free 1)).pack (off % 32) b)) }
    else if off < 0x90000 then
      t.modThread ((off - 0x80000) / 64) fun th => { th with cv := th.cv.putState (putByte th.cv.pack (off % 64) b) }
    else { t with sspImage := BitVec.ofNat 64 (putByte t.sspImage.toNat (off - 0x90000) b) }
  (t0.putReal r).alignContext

/-- Writes a byte of the context image. -/
def Team.putImageByte (t : Team) (off : Nat) (b : Byte) : Team :=
  match t.heldByte off with
  | some _ => t.putHeldByte off b
  | none => { t with image := Memory.write t.image off b }

/-! ### The block image (R74) -/

/-- A byte of tile storage: the tile's own once loaded, else one that a handler put there, else free (R74; log 14). -/
def tileByteOf (uid : Nat) (loaded : Half) (tiles : Memory) (strays : Table 9) (a : Nat) : Byte :=
  if loaded.getLsbD (a / 0x4000) then Memory.read tiles a
  else
    let x := Table.get strays a
    if x = 0 then Config.tileByte uid a else x.setWidth 8

def Block.tileByte (b : Block) (a : Nat) : Byte := tileByteOf b.uid b.loaded b.tiles b.strays a

/-- The fields before the scratch dirty map. -/
def Block.imageHead (b : Block) : Nat :=
  packFields [(0, b.image.tfull.toNat), (2, b.ntile), (3, b.nacc), (4, b.image.mflags.toNat), (8, b.scrsz)]

/-- A byte of the block image as memory holds it. NTILE, NACC and SCRSZ are the descriptor's unless a handler has stored there. -/
def Block.imageByte (b : Block) (off : Nat) : Byte :=
  let m := b.image
  let x := Table.get m.other off
  if x != 0 then x.setWidth 8
  else if off < 0x00C then byteOf b.imageHead off
  else if 0x100 ≤ off && off < 0x500 then
    (List.range 8).foldl (fun x i => if m.sdirty.contains (8 * (off - 0x100) + i) then x ||| (1#8 <<< i) else x) 0
  else if off < 0x1000 then 0
  else if off < 0x41000 then tileByteOf b.uid m.loaded m.tiles m.strays (off - 0x1000)
  else byteOf (Table.get m.accs ((off - 0x41000) / 8)).toNat (off % 8)

/-- x with bit k set or cleared in a list of numbers, rising. -/
def putNumber (l : List Nat) (k : Nat) (on : Bool) : List Nat :=
  if on then (if l.contains k then l else l.filter (· < k) ++ k :: l.filter (k < ·)) else l.filter (· != k)

/-- The fields of MFLAGS; its reserved bits read 0 (R281). -/
def mflagsBits : Word := 0x00FF007F#32

/-- A store to the block image. -/
def BlockImage.put (m : BlockImage) (off : Nat) (b : Byte) : BlockImage :=
  if off < 2 then { m with tfull := BitVec.ofNat 16 (putByte m.tfull.toNat off b) }
  else if 4 ≤ off && off < 8 then { m with mflags := BitVec.ofNat 32 (putByte m.mflags.toNat (off - 4) b) &&& mflagsBits }
  else if 0x100 ≤ off && off < 0x500 then
    { m with sdirty := (List.range 8).foldl (fun l i => putNumber l (8 * (off - 0x100) + i) (b.getLsbD i)) m.sdirty }
  else if 0x1000 ≤ off && off < 0x41000 then
    let a := off - 0x1000
    if m.loaded.getLsbD (a / 0x4000) then { m with tiles := Memory.write m.tiles a b }
    else { m with strays := Table.set m.strays a (0x100 ||| b.setWidth 9) }
  else if 0x41000 ≤ off then
    let k := (off - 0x41000) / 8
    { m with accs := Table.set m.accs k (BitVec.ofNat 64 (putByte (Table.get m.accs k).toNat (off % 8) b)) }
  else { m with other := Table.set m.other off (0x100 ||| b.setWidth 9) }

/-- The part writes the scratch dirty map (R63). -/
def Block.saveDirty (b : Block) : Block := { b with image := { b.image with sdirty := b.sdirty } }

/-- The entries of `a` below number n, and those of `b` from there on. -/
def joinAt {w : Nat} (n : Nat) (a b : Table w) : Table w := a.filter (·.1 < n) ++ b.filter (n ≤ ·.1)

/-- The part writes TFULL, MFLAGS, and the tiles and accumulators that the block declares (R75). Nothing loads a tile that is not
declared, so `tiles` holds declared ones alone. -/
def Block.saveImage (b : Block) : Block :=
  { b with image := { b.image with
      tfull := b.tfull, mflags := b.mflags, loaded := b.loaded, tiles := b.tiles,
      strays := joinAt (0x4000 * b.ntile) b.strays b.image.strays, accs := joinAt (1024 * b.nacc) b.accs b.image.accs } }

/-- The part reloads them (R75): what stands in the image, for the tiles and accumulators that the block declares. -/
def Block.reload (b : Block) : Block :=
  { b with tfull := b.image.tfull, mflags := b.image.mflags, loaded := b.image.loaded, tiles := b.image.tiles,
           strays := joinAt (0x4000 * b.ntile) b.image.strays [], accs := joinAt (1024 * b.nacc) b.image.accs [] }

/-! ### Where an address of a process falls in an image, a spill or log region, or a save area -/

inductive ImageRef where
  | team (uid : Nat)
  | block (uid : Nat)
  | spill (team : Nat)
  | log (team home : Nat)
  | save (blk : Nat)
  deriving DecidableEq, Repr

def within (a base size : Nat) : Bool := base ≤ a && a < base + size

def Team.findImage (cvcap : Nat) (t : Team) (a : Nat) : Option (ImageRef × Nat) :=
  if within a t.imga.toNat 0x91000 then some (.team t.uid, a - t.imga.toNat)
  else if within a t.spillBase.toNat (32768 * t.ngrp) then some (.spill t.uid, a - t.spillBase.toNat)
  else
    let ths := t.real.threads
    match ths.findIdx? (fun th => within a th.cv.loga.toNat (0x140 + 16 * cvcap)) with
    | some h => some (.log t.uid h, a - ((ths[h]?.getD (Thread.entry h)).cv.loga.toNat))
    | none => none

/-- The launch manager has a team's image back once the team has ended (R56), unless a conveyance or an estate handler still names
the team (R267, R269). -/
def State.keepsImage (s : State) (t : Team) : Bool :=
  t.cause == 0 ||
    (match s.grid? t.gid with
      | some g => g.conveying.any (fun c => c.team == t.uid) || g.handlersDue.any fun h => h.dead == t.uid
      | none => false) ||
    s.teams.any fun u => u.cause == 0 && u.kind == .handler t.uid

/-- The image, if any, that holds address a of process pid (R52, R56, R128, R213, R238). Where only images of ended teams have stood, the
last one's bytes are what it held when its team ended (R62). -/
def State.findImage (s : State) (pid a : Nat) : Option (ImageRef × Nat) :=
  let mine (gid : Nat) : Option Grid := (s.grid? gid).bind fun g => if g.pid = pid then some g else none
  let ofTeams (ts : List Team) : Option (ImageRef × Nat) := ts.findSome? fun t => (mine t.gid).bind fun g => t.findImage g.cvcap a
  ((ofTeams (s.teams.filter s.keepsImage)).orElse fun _ =>
    s.blocks.findSome? fun b =>
      (mine b.gid).bind fun _ =>
        if b.complete then none
        else if within a b.bimga.toNat 0x51000 then some (.block b.uid, a - b.bimga.toNat)
        else if b.saveAssigned && within a b.saveBase.toNat b.scrsz then some (.save b.uid, a - b.saveBase.toNat)
        else none).orElse fun _ => ofTeams (s.teams.reverse.filter fun t => !s.keepsImage t)

/-- The team runs in its trap, save or restore handler. -/
def Team.inHandler (t : Team) : Bool := t.frame.active != 0 || t.aside.isSome

/-- It is its grid's estate handler. -/
def Team.isHeir (t : Team) : Bool := match t.kind with | .handler _ => true | _ => false

/-- Whether an access of team uid, of a block and a grid, may reach the image, being in a handler or not, and the estate handler or not
(R56, R129, R238). The memory of an image that its team no longer has is like any other. -/
def State.reaches (s : State) (uid blk gid : Nat) (inHandler isHeir : Bool) (r : ImageRef) : Bool :=
  let of (u : Nat) : Bool :=
    (u == uid && inHandler) || (isHeir && (s.team? u).any fun t => t.gid == gid) || (s.team? u).any fun t => !s.keepsImage t
  match r with
  | .team u => of u
  | .spill u => of u
  | .log u _ => of u
  | .block b => (b == blk && inHandler) || (isHeir && (s.block? b).any fun x => x.gid == gid)
  | .save b => (s.block? b).any fun x => x.gid == gid

/-- Whether a thread of team t may reach the image. -/
def State.mayReach (s : State) (t : Team) (r : ImageRef) : Bool := s.reaches t.uid t.blk t.gid t.inHandler t.isHeir r

def State.imageByte (s : State) (r : ImageRef) (off : Nat) : Byte :=
  match r with
  | .team u => ((s.team? u).map fun t => t.imageByte off).getD 0
  | .block b => ((s.block? b).map fun x => x.imageByte off).getD 0
  | .spill u => ((s.team? u).map fun t => Memory.read t.spill off).getD 0
  | .log u h =>
    ((s.team? u).bind fun t => (s.grid? t.gid).map fun g => (t.real.thread h).cv.logByte g.cvcap off).getD 0
  | .save b => ((s.block? b).map fun x => Memory.read x.saveArea off).getD 0

/-- Writes a byte. -/
def State.putImageByte (s : State) (r : ImageRef) (off : Nat) (b : Byte) : State :=
  match r with
  | .team u => s.modTeam u fun t => t.putImageByte off b
  | .block k => s.modBlock k fun x => { x with image := x.image.put off b }
  | .spill u => s.modTeam u fun t => { t with spill := Memory.write t.spill off b }
  | .log u h =>
    let cap := ((s.team? u).bind fun t => (s.grid? t.gid).map Grid.cvcap).getD 16
    s.modTeam u fun t => t.putReal (t.real.modThread h fun th => { th with cv := th.cv.putLogByte cap off b })
  | .save k => s.modBlock k fun x => { x with saveArea := Memory.write x.saveArea off b }

def State.imageBytes (s : State) (r : ImageRef) (off n : Nat) : List Byte :=
  (List.range n).map fun i => s.imageByte r (off + i)

def State.putImageBytes (s : State) (r : ImageRef) (off : Nat) : List Byte → State
  | [] => s
  | b :: bs => State.putImageBytes (s.putImageByte r off b) r (off + 1) bs

end Sys2Proof.Machine
end

