-- ==== Sys2Proof/Machine/Memory.lean ====
section
/-! DEFINITION. Memory spaces (spec/06 R125 to R147, spec/07 R158 to R180): translation, the L1 and translation buffers,
uncorrectable words, watchpoints at the home side, store queues, and the reading and writing of bytes. -/

namespace Sys2Proof.Machine

open Sys2Proof

/-! ### Physical memory and page tables (R133 to R138) -/

def nearSize : Nat := 0x1680000000

/-- The range of R133 that holds a physical address, as (base, size, far); expanders that enumerated alone (R304). -/
def State.physRange (s : State) (pa : Nat) : Option (Nat × Nat × Bool) :=
  if pa < 0x8000000000 then
    let d := pa / 0x2000000000
    if pa % 0x2000000000 < nearSize then some (d * 0x2000000000, nearSize, false) else none
  else if within pa 0x200000000000 (16 * 0x20000000000) then
    let e := (pa - 0x200000000000) / 0x20000000000
    if s.hub.farPorts.getLsbD e then some (0x200000000000 + e * 0x20000000000, 0x20000000000, true) else none
  else none

/-- len bytes from pa lie wholly inside one range. -/
def State.populated (s : State) (pa len : Nat) : Bool :=
  match s.physRange pa with
  | some (b, n, _) => pa + len ≤ b + n
  | none => false

/-- A page that a walk found: virtual and physical base, size, permissions, the level of its leaf. -/
structure Page where
  va : Nat
  pa : Nat
  size : Nat
  r : Bool
  w : Bool
  x : Bool
  global : Bool
  c64 : Bool
  /-- the coalescing hint -/
  ch : Nat
  level : Nat
  deriving DecidableEq, Repr

/-- The result of a walk; causes are coded as CAUSE of R142. -/
inductive Walk where
  | page (p : Page)
  | fault (cause level : Nat)
  deriving DecidableEq, Repr

/-- Page size of a leaf at a level (R136). -/
def leafSize (level : Nat) : Nat := 2 ^ (12 + 9 * level)

/-- A malformed entry (R137, R138); va is the address it maps. -/
def State.malformed (s : State) (e level va : Nat) : Bool :=
  let leaf := e / 2 % 2 == 1
  let ppn := bitsOf e 47 12
  bitsOf e 63 48 != 0 || bitsOf e 3 2 != 0 ||
  (if leaf then
    level ≥ 3 || bitsOf e 11 10 == 3 || (bitsOf e 8 8 == 1 && level != 0) || (bitsOf e 5 5 == 1 && bitsOf e 4 4 == 0) ||
    ppn * 4096 % leafSize level != 0 || !(s.populated (ppn * 4096) (leafSize level)) ||
    ((bitsOf e 7 7 == 1) != ((s.physRange (ppn * 4096)).any fun r => r.2.2)) ||
    (bitsOf e 8 8 == 1 && ppn % 16 != bitsOf va 15 12)
  else level == 0 || bitsOf e 11 2 != 0 || !(s.populated (ppn * 4096) 4096))

/-- walk of R136 from a table, with `level` + 1 levels left. -/
def State.walkFrom (s : State) (va : Nat) : Nat → Nat → Walk
  | 0, _ => .fault 4 0
  | level + 1, t =>
    let e := Memory.readNat s.mem (t + 8 * bitsOf va (20 + 9 * level) (12 + 9 * level)) 8
    if e % 2 = 0 then .fault 0 level
    else if s.malformed e level va then .fault 4 level
    else if e / 2 % 2 = 1 then
      .page { va := va / leafSize level * leafSize level, pa := bitsOf e 47 12 * 4096, size := leafSize level,
              r := bitsOf e 4 4 == 1, w := bitsOf e 5 5 == 1, x := bitsOf e 6 6 == 1, global := bitsOf e 9 9 == 1,
              c64 := bitsOf e 8 8 == 1, ch := bitsOf e 11 10, level := level }
    else State.walkFrom s va level (bitsOf e 47 12 * 4096)

def State.walk (s : State) (root va : Nat) : Walk := s.walkFrom (va % 2 ^ 57) 5 root

/-- What an access needs of its page (R140). -/
inductive Need where
  | load
  | store
  | fetch
  deriving DecidableEq, Repr

def Page.toCached (p : Page) (asn : Nat) : Translation :=
  { asn := asn, global := p.global, va := p.va, size := p.size, pa := p.pa, r := p.r, w := p.w, x := p.x }

/-- A cached translation of the buffer that matches (R139). -/
def CoreState.lookup (c : CoreState) (asn va : Nat) : Option Translation :=
  c.tlb.find? fun t => (t.global || t.asn == asn) && within va t.va t.size

/-- A translation of the same page under the same tag. -/
def Translation.sameTag (t u : Translation) : Bool := (u.asn == t.asn || (u.global && t.global)) && u.va == t.va && u.size == t.size

/-- The 64 KiB page translates by any of its 16 entries that a walker has read since the range was invalidated (R138; log 8): here by
entry k of the free choice when one has read it, else by the page's own. -/
def State.memberOf (s : State) (asn : Nat) (p : Page) : Page :=
  if p.c64 then
    let k := (Config.c64Entry s.tick).toNat
    let base := p.va / 0x10000 * 0x10000
    match s.walked.find? (fun t => (t.global || t.asn == asn) && t.va == base + k * 4096) with
    | some t => { p with pa := t.pa - k * 4096 + (p.va - base), r := t.r, w := t.w, x := t.x }
    | none => p
  else p

/-- A walker has read the page's entry. -/
def State.noteWalk (s : State) (p : Page) (asn : Nat) : State :=
  if p.c64 && !s.walked.contains (p.toCached asn) then { s with walked := p.toCached asn :: s.walked } else s

/-- A buffer of n translations takes one more, the oldest leaving it. -/
def addTranslation (n : Nat) (l : List Translation) (t : Translation) : List Translation :=
  if l.contains t then l else (t :: l.filter fun u => !u.sameTag t).take n

/-- Records a translation in the core's buffer of 256, and in its die's cache of 16,384 (R139). -/
def State.cacheTranslation (s : State) (core : Nat) (t : Translation) : State :=
  if (s.coreAt core).tlb.contains t && (s.dieAt (dieOf core)).dtlb.contains t then s
  else
    (s.modCore core fun c => { c with tlb := addTranslation 256 c.tlb t }).modDie (dieOf core) fun d =>
      { d with dtlb := addTranslation 16384 d.dtlb t }

/-- The core and its die lose the translations that match. -/
def State.dropTranslations (s : State) (core : Nat) (f : Translation → Bool) : State :=
  (s.modCore core fun c => { c with tlb := c.tlb.filter fun u => !f u }).modDie (dieOf core) fun d =>
    { d with dtlb := d.dtlb.filter fun u => !f u }

/-- The translation that the core's buffer, or else its die's cache, holds for an address (R139). -/
def State.cachedAt (s : State) (core asn va : Nat) : Option Translation :=
  ((s.coreAt core).lookup asn va).orElse fun _ =>
    (s.dieAt (dieOf core)).dtlb.find? fun t => (t.global || t.asn == asn) && within va t.va t.size

/-- A fault of an address is replayed with a fresh walk (R143): no cached translation of it stays. -/
def State.forget (s : State) (core asn va : Nat) : State :=
  s.dropTranslations core fun t => (t.global || t.asn == asn) && within (va % 2 ^ 57) t.va t.size

/-- The level of a leaf from the size of its page. -/
def levelOf (size : Nat) : Nat := if size = leafSize 2 then 2 else if size = leafSize 1 then 1 else 0

/-- CAUSE of a denied access (R142), or none. -/
def Need.denies (need : Need) (r w x : Bool) : Option Nat :=
  match need with
  | .load => if r then none else some 2
  | .store => if w then none else some 1
  | .fetch => if x then none else some 3

/-- Addresses of the entries that a walk reads. -/
def State.walkReadsFrom (s : State) (va : Nat) : Nat → Nat → List Nat
  | 0, _ => []
  | level + 1, t =>
    let a := t + 8 * bitsOf va (20 + 9 * level) (12 + 9 * level)
    let e := Memory.readNat s.mem a 8
    a :: (if e % 2 = 0 || s.malformed e level va || e / 2 % 2 = 1 then [] else State.walkReadsFrom s va level (bitsOf e 47 12 * 4096))

/-- The uncorrectable sectors and words that a walk takes as entries are consumed (R146); an entry reads as the marker there. -/
def State.walkConsumes (s : State) (root va : Nat) : State :=
  if s.poison.isEmpty then s
  else
    ((s.walkReadsFrom (va % 2 ^ 57) 5 root).filter fun a => s.poison.contains (a / 32)).foldl (fun s a =>
      (s.count 2).modHub fun h => { h with consumed := logInc h.consumed (controllerOf a) }) s

/-- A translation by a fresh walk. -/
def State.translateFresh (s : State) (core : Nat) (p : Process) (need : Need) (va : Nat) : Except (Nat × Nat) Nat × State :=
  let s := s.walkConsumes p.root va
  match s.walk p.root va with
  | .fault c l => (.error (c, l), s)
  | .page own =>
    let pg := s.memberOf p.asn own
    let s := s.noteWalk own p.asn
    match need.denies pg.r pg.w pg.x with
    | some c => (.error (c, pg.level), s)
    | none => (.ok (pg.pa + (va - pg.va)), s.cacheTranslation core (pg.toCached p.asn))

/-- Translates a canonical address for an access of process p from a core: its physical address, or the CAUSE and LEVEL of
the page fault (R136 to R140). A cached translation that differs from a fresh walk may still be used (R139; log 8). -/
def State.translate (s : State) (core : Nat) (p : Process) (need : Need) (va : Nat) : Except (Nat × Nat) Nat × State :=
  let va := va % 2 ^ 57
  match s.cachedAt core p.asn va with
  | none => s.translateFresh core p need va
  | some t =>
    let same := match s.walk p.root va with
      | .page pg => pg.toCached p.asn == t
      | .fault _ _ => false
    if same then s.translateFresh core p need va
    else if Config.tlbKeeps s.tick then
      match need.denies t.r t.w t.x with
      | some c => (.error (c, levelOf t.size), s.ticked)
      | none => (.ok (t.pa + (va - t.va)), s.ticked)
    else (s.ticked.dropTranslations core fun u => u == t).translateFresh core p need va

/-- A virtual address with bits [63:57] equal to bit 56 (R133). -/
def canonical (va : Double) : Bool := va == (va.setWidth 57).signExtend 64

/-! ### Spaces and targets (R125 to R132) -/

/-- Where the bytes of an access live. -/
inductive Target where
  | phys (pa : Nat)
  | scratch (blk off : Nat)
  | commons (core off : Nat)
  | image (r : ImageRef) (off : Nat)
  deriving DecidableEq, Repr

/-- An address checked against its space: misaligned, protected (with R200's INFO code), a virtual address still to be
translated, or a place. -/
inductive Resolved where
  | misaligned
  | denied (space : Space)
  | virt (va : Nat)
  | at (t : Target)
  deriving DecidableEq, Repr

/-- INFO [1:0] of PROTECTION (R200). -/
def spaceCode : Space → Nat
  | .device => 0
  | .scratch => 1
  | .commons => 2
  | .image => 3

/-- Bytes of the radiance-cache region: slots 0 and 1 and SET (R290). -/
def rcRegion : Nat := 0x8004

/-- A commons address of die d: the contributing core and offset, when it lies in a contribution (R131). -/
def State.commonsAt (s : State) (d addr size : Nat) : Option (Nat × Nat) :=
  let c := bitsOf addr 25 18
  let off := bitsOf addr 26 26 * 0x40000 + bitsOf addr 17 0
  if addr / 2 ^ 27 != 0 || c ≥ 144 then none
  else
    let core := d * 144 + c
    if off + size ≤ (s.coreAt core).contribution then some (core, off) else none

/-- The core lies in the window that Serai granted the process on that die (R132). -/
def Process.hasCore (p : Process) (core : Nat) : Bool :=
  p.windows.any fun w => w.1 == dieOf core && w.2.contains core

/-- The bytes fall in the die's radiance-cache region (R290). -/
def State.inCache (s : State) (core off size : Nat) : Bool :=
  match (s.dieAt (dieOf core)).rcBase with
  | some b =>
    let c := dieOf core * 144 + bitsOf b.toNat 25 18
    let o := bitsOf b.toNat 26 26 * 0x40000 + bitsOf b.toNat 17 0
    c == core && off < o + rcRegion && o < off + size
  | none => false

/-- Checks of R126, R127, R130 to R133 and R56 on one lane's address. -/
def State.resolve (s : State) (t : Team) (space : Space) (addr : Double) (size : Nat) (write : Bool) : Resolved :=
  if addr.toNat % size != 0 then .misaligned
  else match space with
    | .scratch =>
      match s.blockOf t with
      | some b => if addr.toNat + size ≤ b.scrsz then .at (.scratch b.uid addr.toNat) else .denied .scratch
      | none => .denied .scratch
    | .commons =>
      match s.commonsAt (dieOf t.core) addr.toNat size, s.procOf t with
      | some (c, off), some p =>
        if !p.hasCore c || (write && s.inCache c off size) then .denied .commons else .at (.commons c off)
      | _, _ => .denied .commons
    | _ =>
      if !canonical addr then .denied .device
      else match s.gridOf t with
        | none => .denied .device
        | some g =>
          match s.findImage g.pid addr.toNat with
          | some (r, off) => if s.mayReach t r then .at (.image r off) else .denied .image
          | none => .virt addr.toNat

/-! ### Engines' translations, and where images lie -/

/-- A device access by an engine in a process's address space, with a fresh walk; of a 64 KiB page, by any entry read (R138). -/
def State.engineAddr (s : State) (p : Process) (need : Need) (va : Nat) : Except (Nat × Nat) Nat :=
  match s.walk p.root va with
  | .fault c l => .error (c, l)
  | .page pg =>
    let pg := s.memberOf p.asn pg
    match need.denies pg.r pg.w pg.x with
    | none => .ok (pg.pa + (va % 2 ^ 57 - pg.va))
    | some c => .error (c, pg.level)

/-- The process and virtual address of a place in an image, a spill or log region, or a save area. -/
def State.imageVa (s : State) (r : ImageRef) (off : Nat) : Option (Process × Nat) :=
  let of (gid a : Nat) : Option (Process × Nat) := ((s.grid? gid).bind fun g => s.proc? g.pid).map fun p => (p, a + off)
  match r with
  | .team u => (s.team? u).bind fun t => of t.gid t.imga.toNat
  | .spill u => (s.team? u).bind fun t => of t.gid t.spillBase.toNat
  | .log u h => (s.team? u).bind fun t => of t.gid (t.real.thread h).cv.loga.toNat
  | .block b => (s.block? b).bind fun x => of x.gid x.bimga.toNat
  | .save b => (s.block? b).bind fun x => of x.gid x.saveBase.toNat

/-- The near memory in which such a place lies, where the process maps it (R52, R128). A byte that the part itself holds, in the register
cache or elsewhere, is not read from there. -/
def State.imagePa (s : State) (r : ImageRef) (off : Nat) : Option Nat :=
  let held : Bool := match r with
    | .team u => (s.team? u).any fun t => (t.heldByte off).isSome
    | _ => false
  if held then none
  else (s.imageVa r off).bind fun x => match s.engineAddr x.1 .load x.2 with
    | .ok pa => some pa
    | .error _ => none

/-! ### Uncorrectable words (R145 to R147, R209) -/

def State.badSector (s : State) (pa : Nat) : Bool := s.poison.contains (pa / 32)

/-- Whether device memory at pa is uncorrectable for a reader on a core. -/
def State.badPhys (s : State) (core pa : Nat) : Bool :=
  s.badSector pa || (!s.soft.isEmpty && (s.soft.contains (.l2 (pa / 4)) || s.soft.contains (.l1 core (pa / 4))))

/-- Whether data at the target is uncorrectable for a reader on a core. -/
def State.uncorrectable (s : State) (core : Nat) (tg : Target) : Bool :=
  match tg with
  | .phys pa => s.badPhys core pa
  | .scratch b off => !s.soft.isEmpty && s.soft.contains (.scratch b (off / 4))
  | .commons c off => !s.soft.isEmpty && s.soft.contains (.commons c (off / 4))
  | .image r off => !(s.poison.isEmpty && s.soft.isEmpty) && (s.imagePa r off).any (s.badPhys core)

/-- The second word of an 8-byte access counts too. -/
def State.uncorrectableAt (s : State) (core : Nat) (tg : Target) (size : Nat) : Bool :=
  s.uncorrectable core tg ||
  (size == 8 && match tg with
    | .phys pa => s.uncorrectable core (.phys (pa + 4))
    | .scratch b off => s.uncorrectable core (.scratch b (off + 4))
    | .commons c off => s.uncorrectable core (.commons c (off + 4))
    | .image r off => s.uncorrectable core (.image r (off + 4)))

/-- Adds a consumption to the device counter, and to its controller's count in memory (R209, R308). -/
def State.consumed (s : State) (tg : Target) : State :=
  let s := s.count 2
  let pa := match tg with
    | .phys pa => some pa
    | .image r off => s.imagePa r off
    | _ => none
  match pa.filter s.badSector with
  | some pa => s.modHub fun h => { h with consumed := logInc h.consumed (controllerOf pa) }
  | none => s

/-- A sector's latent read is counted (R146). -/
def State.latentSector (s : State) (sec : Nat) : State :=
  (s.count 3).modHub fun h => { h with latent := logInc h.latent (controllerOf (sec * 32)) }

/-- The poison marker's bytes (R146). -/
def markerByte (a : Nat) : Byte := if a % 2 = 0 then 0xDE else 0xAD

/-- An uncorrectable L2 word is read without being taken: the read is counted, and the word is rewritten with the poison marker, as which
it stays uncorrectable (R209). -/
def State.latentWord (s : State) (w : Nat) : State :=
  { s.count 3 with mem := Memory.writeBytes s.mem (4 * w) ((List.range 4).map markerByte) }

/-- Counts the latent reads of a line fill: the poisoned sectors of the line, and its uncorrectable L2 words, that are not among the
sectors from which live lanes take bytes (R146, R209). -/
def State.latentFill (s : State) (pa : Nat) (taken : List Nat) : State :=
  let s := if s.poison.isEmpty then s
    else (List.range 4).foldl (fun s i =>
      let sec := pa / 128 * 4 + i
      if !taken.contains sec && s.poison.contains sec then s.latentSector sec else s) s
  if s.soft.isEmpty then s
  else (List.range 32).foldl (fun s i =>
    let w := pa / 128 * 32 + i
    if !taken.contains (w / 8) && s.soft.contains (.l2 w) then s.latentWord w else s) s

/-- The die whose L2 is the home of a line (R134). -/
def homeDie (pa : Nat) : Nat := if pa < 0x200000000000 then pa / 0x2000000000 else (pa - 0x200000000000) / 0x20000000000 / 4

/-- The hint of the page that a process maps at an address (R137). -/
def State.hintAt (s : State) (t : Team) (va : Nat) : Nat :=
  match (s.procOf t).map fun p => s.walk p.root va with
  | some (.page pg) => pg.ch
  | _ => 0

/-- L2 takes a line, of 262,144, the one taken longest ago leaving it (R11 names no order: DESIGN CHOICE, log 7). -/
def DieState.takeLine (d : DieState) (line : Nat) : DieState := { d with l2 := (line :: d.l2.filter (· != line)).take 262144 }

/-- A line that L1 fills comes through its home L2. A miss there allocates it, unless the page's hint is streaming; under the gather hint
it fetches the next line too, which no lane takes (R135, R137, R146). -/
def State.fillL2 (s : State) (pa hint : Nat) : State :=
  let line := pa / 128
  if (s.dieAt (homeDie pa)).l2.contains line then s
  else
    let s := if hint = 1 then s else s.modDie (homeDie pa) fun d => d.takeLine line
    if hint = 2 && s.populated (128 * (line + 1)) 128 then
      (s.latentFill (128 * (line + 1)) []).modDie (homeDie (128 * (line + 1))) fun d => d.takeLine (line + 1)
    else s

/-- An L1 word's error leaves with its line. -/
def State.dropL1Soft (s : State) (core : Nat) (lines : List CacheLine) : State :=
  if s.soft.isEmpty then s
  else
    { s with soft := s.soft.filter fun x => match x with
        | .l1 c w => c != core || lines.any fun l => l.line == w / 32
        | _ => true }

/-- A whole word written drops its soft error. -/
def State.scrub (s : State) (w : SoftErrorSite) : State :=
  if s.soft.isEmpty then s else { s with soft := s.soft.filter fun x => x != w }

/-- The words that n bytes from off cover whole. -/
def State.scrubWords (s : State) (site : Nat → SoftErrorSite) (off n : Nat) : State :=
  if s.soft.isEmpty then s
  else (List.range ((off + n) / 4 - (off + 3) / 4)).foldl (fun s i => s.scrub (site ((off + 3) / 4 + i))) s

/-! ### Plain bytes of each space -/

def State.commonsByte (s : State) (c off : Nat) : Byte := Memory.read (s.coreAt c).commons off

/-- The bytes as the home holds them. -/
def State.homeBytes (s : State) (tg : Target) (n : Nat) : List Byte :=
  match tg with
  | .phys pa => Memory.readBytes s.mem pa n
  | .scratch b off => ((s.block? b).map fun x => Memory.readBytes x.scratch off n).getD (List.replicate n 0)
  | .commons c off => Memory.readBytes (s.coreAt c).commons off n
  | .image r off => s.imageBytes r off n

/-- Marks the 256-byte scratch lines of n bytes from off dirty (R63). -/
def markLines (l : List Nat) (off n : Nat) : List Nat :=
  (List.range ((off + n - 1) / 256 - off / 256 + 1)).foldl (fun l i =>
    let k := off / 256 + i
    if l.contains k then l else (l.filter (· < k)) ++ k :: l.filter (k < ·)) l

/-- The L1 line of `core` takes bytes written at pa, if the line is present (R135). -/
def CoreState.patchLine (c : CoreState) (pa : Nat) (bs : List Byte) : CoreState :=
  if c.l1.isEmpty then c
  else
    { c with l1 := c.l1.map fun l =>
        if l.line = pa / 128 then
          { l with data := BitVec.ofNat 1024 (bs.zipIdx.foldl (fun x b => putByte x (pa % 128 + b.2) b.1) l.data.toNat) }
        else l }

/-- Writes bytes at their home. A partial write to a poisoned near sector is dropped and counted; `whole` says that the
write covers whole sectors (R146). A far write always goes out; what it does to poisoned data the expander says (R147). -/
def State.writeHome (s : State) (tg : Target) (bs : List Byte) (whole : Bool) : State :=
  match tg with
  | .phys pa =>
    let s := s.scrubWords .l2 pa bs.length
    if s.badSector pa && pa < 0x200000000000 then
      if whole then { s with mem := Memory.writeBytes s.mem pa bs, poison := s.poison.filter fun x => x != pa / 32 }
      else s.modHub fun h => { h with partialWrites := logInc h.partialWrites (controllerOf pa) }
    else if s.badSector pa then
      let sec := pa / 32
      let t := s.ticked
      let t := if Config.expanderReports s.tick sec then t.modHub fun h => { h with partialWrites := logInc h.partialWrites (controllerOf pa) } else t
      { t with mem := Memory.writeBytes t.mem pa bs,
               poison := if Config.expanderClears s.tick sec then t.poison.filter fun x => x != sec else t.poison }
    else { s with mem := Memory.writeBytes s.mem pa bs }
  | .scratch b off =>
    (s.scrubWords (.scratch b) off bs.length).modBlock b fun x =>
      { x with scratch := Memory.writeBytes x.scratch off bs, sdirty := markLines x.sdirty off bs.length }
  | .commons c off =>
    (s.scrubWords (.commons c) off bs.length).modCore c fun x =>
      { x with commons := Memory.writeBytes x.commons off bs }
  | .image r off =>
    match (if s.poison.isEmpty && s.soft.isEmpty then none else s.imagePa r off) with
    | some pa =>
      let s := s.scrubWords .l2 pa bs.length
      if !(s.badSector pa && pa < 0x200000000000) then s.putImageBytes r off bs
      else if whole then { s with poison := s.poison.filter fun x => x != pa / 32 }.putImageBytes r off bs
      else s.modHub fun h => { h with partialWrites := logInc h.partialWrites (controllerOf pa) }
    | none => s.putImageBytes r off bs

/-! ### Watchpoints (R222 to R224) -/

/-- Kinds of access as bits 0 to 2 of KINDS (R223). -/
inductive AccKind where
  | load
  | store
  | atomic
  deriving DecidableEq, Repr

def AccKind.code : AccKind → Nat
  | .load => 0
  | .store => 1
  | .atomic => 2

/-- Home core of a target, for listing; a device line's home side carries a copy of the charging core's comparator. -/
def homeCore (s : State) (tg : Target) (charged : Nat) : Nat :=
  match tg with
  | .commons c _ => c
  | .scratch b _ => ((s.block? b).map Block.core).getD charged
  | _ => charged

/-- Commons address of an offset in a core's contribution (R131). -/
def commonsAddr (core off : Nat) : Nat := off / 0x40000 * 2 ^ 26 + core % 144 * 2 ^ 18 + off % 0x40000

/-- The grid for which watchpoint k watches: the one whose `watch` command wrote it, else the debugged grid that has a block on its
core (log 30). -/
def State.watchGrid (s : State) (k : Nat) : Option Nat :=
  (s.watchGrids.lookup k).orElse fun _ =>
    (s.blocks.find? fun b => b.core == k / 4 && b.resident && !b.complete && (s.grid? b.gid).any Grid.debugged).map Block.gid

/-- The lowest byte, from `addr`, of an access of `size` bytes that lies in `len` bytes from `base`, when the access starts at `at_` of the
same space. -/
def lowestWatched (base len at_ size addr : Nat) : Option Nat :=
  if at_ < base + len && base < at_ + size then some (addr + (base - at_)) else none

/-- The same for an access of physical memory: the watched bytes are those that the watching grid's process maps at the watched
addresses, under whatever address they are reached (R134, R224). -/
def State.watchedPhys (s : State) (p : Process) (base len pa size addr : Nat) : Option Nat :=
  ([base / 4096 * 4096, (base + len - 1) / 4096 * 4096].eraseDups.filterMap fun page =>
    let lo := max base page
    match s.walk p.root page with
    | .page pg => lowestWatched (pg.pa + (lo - pg.va)) (min (base + len) (page + 4096) - lo) pa size addr
    | .fault _ _ => none).min?

/-- The lowest byte, by the accessor's address, of an access of `size` bytes at `addr` that watchpoint value w, kept at number k,
watches; none when it watches no byte of it (R223, R224). -/
def State.watched? (s : State) (g : Grid) (k : Nat) (w : BitVec 128) (tg : Target) (addr size : Nat) (kind : AccKind) : Option Nat :=
  let base := bitsOf w.toNat 127 64
  let len := 2 ^ bitsOf w.toNat 55 52
  let space := bitsOf w.toNat 57 56
  let watching := (s.watchGrid k).bind s.grid?
  if !(w.getLsbD 0 && w.getLsbD (49 + kind.code)) then none
  else
    match tg with
    | .scratch b off =>
      if space == 1 && (s.block? b).any (fun x => x.core == k / 4 && x.resident && s.watchGrid k == some x.gid) then
        lowestWatched base len off size addr
      else none
    | .commons c off => if space == 2 && c == k / 4 then lowestWatched base len (commonsAddr c off) size (commonsAddr c off) else none
    | .phys pa => if space == 0 then (watching.bind fun h => s.proc? h.pid).bind fun p => s.watchedPhys p base len pa size addr else none
    | .image _ _ => if space == 0 && watching.any (fun h => h.pid == g.pid) then lowestWatched base len addr size addr else none

/-- What a hit records of its instruction. -/
structure HitBy where
  team : Nat
  pc : Double
  word : Word
  lit : Word
  homes : Mask
  after : Double
  deriving DecidableEq, Repr

/-- Cores that a stop notice goes to (R225). -/
def State.noticeCores (s : State) (gid stopCore home : Nat) (bcast : BitVec 2) : List Nat :=
  match bcast with
  | 1 => (List.range 576).filter fun n => clusterOf n == clusterOf stopCore || clusterOf n == clusterOf home
  | 2 => (List.range 576).filter fun n => s.teams.any fun t => t.gid == gid && t.core == n && t.cause == 0
  | _ => []

/-- Sends the stop notices of a stop found at core `home` for a team on `stopCore` (R225, R226). -/
def State.sendNotices (s : State) (gid stopCore home : Nat) (bcast : BitVec 2) : State :=
  (s.noticeCores gid stopCore home bcast).foldl (fun s n =>
    let counts := (s.teams.filter fun t => t.gid == gid && t.core == n).map fun t => (t.uid, t.issuedN)
    s.modCore n fun c => { c with notices := c.notices ++
      [{ gid := gid, resume := false, since := if dieOf n = dieOf home then some counts else none }] }) s

/-- Records the hits of a performed access, and sends the notices of its stop (R224, R225, R235); without a debugger nothing
broadcasts (R201). -/
def State.checkWatch (s : State) (by_ : HitBy) (tg : Target) (addr size : Nat) (kind : AccKind) : State :=
  if s.watches.isEmpty then s
  else
    match (s.team? by_.team).bind fun t => s.grid? t.gid with
    | none => s
    | some g =>
      s.watches.foldl (fun s (k, w) =>
        match s.watched? g k w tg addr size kind with
        | some low =>
          let home := homeCore s tg (k / 4)
          let h : WatchHit :=
            { home := home, team := by_.team, index := k % 4, vaddr := BitVec.ofNat 64 low, pc := by_.pc, word := by_.word,
              lit := by_.lit, homes := by_.homes, after := by_.after }
          let s : State := { s with hits := s.hits ++ [h] }
          if g.debugged then
            s.sendNotices g.gid (((s.team? by_.team).map Team.core).getD home) home (BitVec.ofNat 2 (bitsOf w.toNat 48 47))
          else s
        | none => s) s

/-! ### Store queues (R163) -/

/-- Where L1 keeps the bytes of a target: device memory, and spill stacks like it (R129). -/
def State.cachePa (s : State) (tg : Target) : Option Nat :=
  match tg with
  | .phys pa => some pa
  | .image (.spill u) off => s.imagePa (.spill u) off
  | _ => none

/-- The 128 bytes of the line of a target that L1 keeps at pa. -/
def State.lineData (s : State) (tg : Target) (pa : Nat) : Nat :=
  match tg with
  | .image r off => leNat (s.imageBytes r (off - pa % 128) 128)
  | _ => Memory.readNat s.mem (pa / 128 * 128) 128

def StoreEntry.target (e : StoreEntry) : Target :=
  match e.space with
  | .scratch => .scratch (e.key / 2 ^ 32) (e.key % 2 ^ 32)
  | .commons => .commons (e.key / 2 ^ 32) (e.key % 2 ^ 32)
  | .image => .image (.spill (e.key / 2 ^ 32)) (e.key % 2 ^ 32)
  | .device => .phys e.key

/-- The key of a queued store: physical address, or block, core or spill stack and offset; no store to another image is queued. -/
def Target.key : Target → Nat
  | .phys pa => pa
  | .scratch b off => b * 2 ^ 32 + off
  | .commons c off => c * 2 ^ 32 + off
  | .image (.spill u) off => u * 2 ^ 32 + off
  | .image _ off => 2 ^ 96 + off

def Target.space : Target → Space
  | .phys _ => .device
  | .scratch _ _ => .scratch
  | .commons _ _ => .commons
  | .image _ _ => .image

/-- A team's release at device scope: the bounds it has written hold for every team (R157). -/
def State.settleBounds (s : State) (uid : Nat) : State :=
  match s.team? uid with
  | none => s
  | some t => s.modGrid t.gid fun g => { g with oldBounds := g.oldBounds.filter fun o => o.writer != uid }

/-- Performs one store: it becomes visible to every team at once and updates its core's L1 (R135, R163; log 6). -/
def State.performStore (s : State) (team : Nat) (e : StoreEntry) : State :=
  let tg := e.target
  let s := s.writeHome tg e.bytes false
  let s := match s.cachePa tg with
    | some pa => s.modCore e.core fun c => c.patchLine pa e.bytes
    | none => s
  let s := if e.publishes then s.settleBounds team else s
  s.checkWatch { team := team, pc := e.pc, word := e.word, lit := e.lit, homes := maskOne e.lane, after := e.after } tg e.addr.toNat e.bytes.length .store

/-- Performs every queued store of a team, oldest first. -/
def State.drainAll (s : State) (uid : Nat) : State :=
  match s.team? uid with
  | none => s
  | some t => t.storeQ.foldl (fun s e => s.performStore uid e) (s.modTeam uid fun u => { u with storeQ := [] })

/-- The oldest queued stores of a team are performed until none touches the n bytes at a target, which the team is about to change by
an access that orders no other location (R163, R170). -/
def State.drainFor (s : State) (uid : Nat) (tg : Target) (n : Nat) : State :=
  match s.team? uid with
  | none => s
  | some t =>
    let hit (e : StoreEntry) : Bool := e.space == tg.space && e.key < tg.key + n && tg.key < e.key + e.bytes.length
    let first := (t.storeQ.reverse.dropWhile fun e => !hit e).reverse
    first.foldl (fun s e => s.performStore uid e) (s.modTeam uid fun u => { u with storeQ := u.storeQ.drop first.length })

/-- Performs the oldest queued store of a team. -/
def State.drainOne (s : State) (uid : Nat) : State :=
  match s.team? uid with
  | none => s
  | some t =>
    match t.storeQ with
    | [] => s
    | e :: rest => (s.modTeam uid fun u => { u with storeQ := rest }).performStore uid e

/-- The team's own queued stores over bytes read at a target (R163). -/
def overlayQueue (q : List StoreEntry) (tg : Target) (bs : List Byte) : List Byte :=
  q.foldl (fun bs e =>
    if e.space = tg.space then
      bs.zipIdx.map fun (b, i) =>
        if within (tg.key + i) e.key e.bytes.length then e.bytes[tg.key + i - e.key]?.getD b else b
    else bs) bs

/-- A shadow's own held writes over bytes read (R179). -/
def overlayPriv (b : Block) (tg : Target) (bs : List Byte) : List Byte :=
  let overlay (t : Table 9) (k : Nat) : List Byte :=
    bs.zipIdx.map fun (x, i) => let v := Table.get t (k + i); if v = 0 then x else v.setWidth 8
  match tg with
  | .phys pa => overlay b.privDevice pa
  | .commons c off => overlay b.privCommons (c * 2 ^ 19 + off)
  | _ => bs

/-! ### Loads -/

/-- The bytes that the core's L1 holds at a physical address, when the line serves the load: it holds what its home holds, which is
`fresh`, or is kept (R164; log 7). -/
def State.l1Serves (s : State) (core pa : Nat) (fresh : List Byte) : Option (List Byte) :=
  match (s.coreAt core).l1.find? (fun l => l.line == pa / 128) with
  | some l =>
    let kept := (List.range fresh.length).map fun i => byteOf l.data.toNat (pa % 128 + i)
    if kept = fresh || Config.l1Keeps s.tick l.line then some kept else none
  | none => none

/-- A load is not performed at its home when L1 serves it. -/
def State.atHomeSide (s : State) (core : Nat) (tg : Target) (n : Nat) (home : Bool) : Bool :=
  match s.cachePa tg with
  | some pa => home || (s.l1Serves core pa (s.homeBytes tg n)).isNone
  | none => true

/-- L1 takes the line of a physical address, its bytes as their home holds them. -/
def CoreState.fillLine (c : CoreState) (pa data : Nat) : CoreState :=
  { c with l1 := { line := pa / 128, data := BitVec.ofNat 1024 data } :: c.l1.filter fun l => l.line != pa / 128 }

/-- The bytes a load of the team takes at a target: the core's L1 line may keep older bytes (R164; log 7), for every lane of
the pass alike (R161), so its caller advances the tick and trims L1 after the pass; `va` is the address; `home` reads at the home
(R165); `stream` does not allocate (R87); `taken` are the sectors from which the pass's lanes take bytes. -/
def State.loadBytes (s : State) (t : Team) (tg : Target) (n va : Nat) (home stream : Bool) (taken : List Nat) : List Byte × State :=
  let fresh := s.homeBytes tg n
  let (bs, s) : List Byte × State :=
    match s.cachePa tg with
    | some pa =>
      if home then (fresh, s)
      else
        match s.l1Serves t.core pa fresh with
        | some bs => (bs, s)
        | none =>
          let present := (s.coreAt t.core).l1.any fun l => l.line == pa / 128
          let s := s.fillL2 pa (s.hintAt t va)
          if stream && !present then (fresh, s)
          else
            let s := s.latentFill pa taken
            (fresh, s.modCore t.core fun c => c.fillLine pa (s.lineData tg pa))
    | none => (fresh, s)
  let bs := match s.blockOf t with
    | some b => if b.shadowOf.isSome then overlayPriv b tg bs else bs
    | none => bs
  (overlayQueue t.storeQ tg bs, s)

/-- L1 holds 1,536 lines (R10). Which of them leave it the spec does not say: here those filled longest ago, after the pass that filled
others (DESIGN CHOICE, log 7). -/
def State.trimL1 (s : State) (core : Nat) : State :=
  if (s.coreAt core).l1.length ≤ 1536 then s
  else
    let s := s.modCore core fun c => { c with l1 := c.l1.take 1536 }
    s.dropL1Soft core (s.coreAt core).l1

/-- An acquire at die scope or wider discards the core's L1 lines (R165). -/
def State.discardL1 (s : State) (core : Nat) : State := (s.modCore core fun c => { c with l1 := [] }).dropL1Soft core []

def State.acquire (s : State) (core scope : Nat) : State := if scope ≥ 3 then s.discardL1 core else s

/-! ### Digests of sampled blocks (R180) -/

def hashByte (a : Double) (v : Byte) : BitVec 128 :=
  let lo := mix64 (a ^^^ mix64 (v.setWidth 64 + 0x100))
  let hi := mix64 (lo ^^^ 0x5A17C3E90B2D8F46#64)
  hi ++ lo

/-- What bytes at address a add. -/
def hashBytes (a : Double) (bs : List Byte) : BitVec 128 := bs.zipIdx.foldl (fun d x => d + hashByte (a + BitVec.ofNat 64 x.2) x.1) 0

/-- Adds bytes written at address a to the digest of the team's block, when it is sampled or a shadow. -/
def State.digestBytes (s : State) (t : Team) (a : Double) (bs : List Byte) : State :=
  match s.blockOf t with
  | some b =>
    if b.sampled || b.shadowOf.isSome then
      s.modBlock b.uid fun x => { x with digest := x.digest + hashBytes a bs }
    else s
  | none => s

/-- Each byte of an atomic's operand adds H(a XOR ((OP + 1) << 57), v). -/
def State.digestAtomic (s : State) (t : Team) (a : Double) (op : Nat) (bs : List Byte) : State :=
  match s.blockOf t with
  | some b =>
    if b.sampled || b.shadowOf.isSome then
      s.modBlock b.uid fun x =>
        { x with digest := bs.zipIdx.foldl (fun d (v, i) =>
            d + hashByte ((a + BitVec.ofNat 64 i) ^^^ (BitVec.ofNat 64 (op + 1) <<< 57)) v) x.digest }
    else s
  | none => s

/-! ### Engines' accesses by virtual address -/

/-- n bytes of a process's memory, 0 where nothing is mapped. -/
def State.readVirt (s : State) (p : Process) (va n : Nat) : List Byte :=
  (List.range n).map fun i =>
    match s.engineAddr p .load (va + i) with
    | .ok pa => Memory.read s.mem pa
    | .error _ => 0

/-- An engine takes n bytes as data: each uncorrectable sector among them is a consumption (R146). -/
def State.noteVirt (s : State) (p : Process) (va n : Nat) : State :=
  if s.poison.isEmpty then s
  else
    let secs := ((List.range n).filterMap fun i =>
      match s.engineAddr p .load (va + i) with
      | .ok pa => if s.badSector pa then some (pa / 32) else none
      | .error _ => none).eraseDups
    secs.foldl (fun s x => s.consumed (.phys (32 * x))) s

def State.readVirtNat (s : State) (p : Process) (va n : Nat) : Nat := leNat (s.readVirt p va n)

/-- Bytes at an address, cut where a 32-byte sector ends: each piece's place among them, and the piece; n bounds the pieces. -/
def sectorPieces (va : Nat) : Nat → Nat → List Byte → List (Nat × List Byte)
  | 0, _, _ => []
  | n + 1, i, bs =>
    if bs.isEmpty then []
    else
      let k := 32 - (va + i) % 32
      (i, bs.take k) :: sectorPieces va n (i + k) (bs.drop k)

/-- Writes bytes of a process's memory, a sector or a part of one at a time (R146); what lies on a page that cannot be written is left
out (log 21). -/
def State.writeVirt (s : State) (p : Process) (va : Nat) (bs : List Byte) : State :=
  (sectorPieces va (bs.length / 32 + 2) 0 bs).foldl (fun s x =>
    match s.engineAddr p .store (va + x.1) with
    | .ok pa => s.writeHome (.phys pa) x.2 (x.2.length == 32)
    | .error _ => s) s

def State.writeVirtNat (s : State) (p : Process) (va n v : Nat) : State := s.writeVirt p va (leBytes n v)

end Sys2Proof.Machine
end

