-- ==== Sys2Proof/Machine/Relay.lean ====
section
/-! DEFINITION. The Relay (spec/13 R250 to R256): the source of a proposal, the comparator, the chain records, and the
built-in node's waiting proposals. -/

namespace Sys2Proof.Machine

open Sys2Proof

/-- A mutation descriptor as the level reads it (R251). -/
structure Mutation where
  kind : Nat
  bySite : Bool
  byOrdinal : Bool
  delta : Nat
  ordl : Nat
  ordh : Nat
  slo : Nat
  shi : Nat
  cut : Nat
  splc : Nat
  deriving DecidableEq, Repr

def Mutation.read (level : Byte) (x : BitVec 256) : Mutation :=
  let f (hi lo : Nat) := bitsOf x.toNat hi lo
  if level = 0 then
    { kind := f 3 0, bySite := false, byOrdinal := false, delta := f 135 112, ordl := 0, ordh := 0, slo := 0, shi := 0, cut := 1,
      splc := 0 }
  else
    { kind := f 3 0, bySite := f 4 4 == 1, byOrdinal := f 5 5 == 1, delta := f 135 112, ordh := f 151 136, ordl := f 167 152,
      shi := f 179 168, slo := f 191 180, cut := f 223 192, splc := f 255 224 }

/-- Entry i of the source that build() makes of log C (R252); `other` is other(i) of the SPLC chain. -/
def Mutation.entry (m : Mutation) (log : List Double) (other : Option Double) (i : Nat) (e : Double) : Double :=
  let put (raw : Word) (low : Nat) : Double := mkEntry raw (entrySite e) (entryOcc e) low
  let keep := put (entryRaw e) 1
  let inSites := m.slo ≤ entrySite e && entrySite e ≤ m.shi
  match m.kind with
  | 0 =>
    if (!m.bySite || inSites) && (!m.byOrdinal || (m.ordl ≤ i && i ≤ m.ordh)) then
      let r := (entryRaw e).toNat
      put (BitVec.ofNat 32 ((r / 256 + m.delta) % 2 ^ 24 * 256 + r % 256)) 3
    else keep
  | 1 =>
    let k := sextInt m.cut 32
    let j : Int := (i : Int) - k
    if 0 ≤ j && j < log.length then put (entryRaw (log[j.toNat]?.getD 0)) (if k = 0 then 1 else 3) else put (entryRaw e) 0
  | _ =>
    if (m.kind == 2 && i ≥ m.cut) || (m.kind == 3 && inSites) then
      match other with
      | some o => put (entryRaw o) 3
      | none => put (entryRaw e) 0
    else keep

/-- build() of R252; `o` is the SPLC chain's current log. -/
def Mutation.build (m : Mutation) (seq : Bool) (c o : List Double) : List Double :=
  if m.kind = 4 then []
  else c.zipIdx.map fun (e, i) =>
    let other := if seq then o[i]? else o.find? fun x => entrySite x == entrySite e && entryOcc x == entryOcc e
    m.entry c other i e

/-! ### Chain state in memory (R253) -/

/-- Address of chain c's slot of CHST. -/
def Relay.slot (r : Relay) (g : Grid) (c : Nat) : Nat := r.chst.toNat + c * (128 + 8 * g.cvcap)

/-- Chains of a grid. -/
def Grid.chains (g : Grid) : Nat := g.count * g.teams * 32 * g.ngrp

/-- A chain's current log, as memory holds it. -/
def State.chainLog (s : State) (p : Process) (base : Nat) : List Double :=
  let nc := s.readVirtNat p (base + 8) 2
  (List.range nc).map fun i => BitVec.ofNat 64 (s.readVirtNat p (base + 0x80 + 8 * i) 8)

/-- The Relay takes a chain's head and current log as data (R146). -/
def State.noteChain (s : State) (p : Process) (base : Nat) : State :=
  s.noteVirt p base (0x80 + 8 * s.readVirtNat p (base + 8) 2)

/-- Writes a chain's current record: GEN, STEP, NC, RWC, result and log, reserved bytes 0. -/
def State.writeChain (s : State) (p : Process) (base : Nat) (gen step : Nat) (cv : ChoiceState) : State :=
  let s := s.writeVirt p base
    (leBytes 4 gen ++ leBytes 4 step ++ leBytes 2 cv.n.toNat ++ leBytes 1 cv.rwc.toNat ++ List.replicate 53 0)
  let s := s.writeVirt p (base + 0x40) (cv.result.toList.flatMap fun w => leBytes 4 w.toNat)
  let s := s.writeVirt p (base + 0x60) (List.replicate 32 0)
  s.writeVirt p (base + 0x80) ((List.range cv.n.toNat).flatMap fun i => leBytes 8 (Table.get cv.record i).toNat)

/-- Places a proposal in the built-in node, whose slot closes at 32G records. -/
def Relay.place (r : Relay) (now full : Nat) (p : Proposal) : Relay :=
  let w := r.waiting ++ [p]
  let since := if r.waiting.isEmpty then now else r.since
  if w.length ≥ full then
    { r with waiting := [], since := since, closed := r.closed ++ [{ proposals := w, byAge := false, order := since }] }
  else { r with waiting := w, since := since }

/-- Builds chain c's next proposal while STEP < STEPS (R253); `pending` is the settled thread's RLCH descriptor. -/
def State.nextProposal (s : State) (g : Grid) (c : Nat) (pending : Option (BitVec 256)) : State :=
  match g.relay, s.proc? g.pid with
  | some r, some p =>
    let base := r.slot g c
    let step := s.readVirtNat p (base + 4) 4
    if step < r.steps then
      let gn := s.readVirtNat p base 4 + 1
      let m0 := Mutation.read r.level (pending.getD r.mutDesc)
      let bad := (m0.kind == 2 || m0.kind == 3) && m0.splc ≥ g.chains
      let m := if bad then { m0 with kind := 4 } else m0
      let log := s.chainLog p base
      let o := if m.kind = 2 || m.kind = 3 then s.chainLog p (r.slot g m.splc) else []
      let prop : Proposal :=
        { chain := c, step := gn, source := m.build (g.cvmode == 1) log o, kind := BitVec.ofNat 4 m.kind, badSplice := bad, settled := false }
      let s := s.noteChain p base
      let s := if m.kind = 2 || m.kind = 3 then s.noteChain p (r.slot g m.splc) else s
      { (s.writeVirtNat p base 4 gn).modGrid g.gid fun g => { g with relay := g.relay.map fun r => r.place s.clock (32 * g.ngrp) prop } with
        clock := s.clock + 1 }
    else s
  | _, _ => s

def ChoiceState.pendingDesc (c : ChoiceState) : Option (BitVec 256) := if c.rwc.getLsbD 7 then some c.pending else none

/-! ### The comparator (R254) -/

/-- A target word as the comparator reads it: NaN and negative values as +0. -/
def targetNum (w : Word) : FNum :=
  match unpack f32 false w.toNat with
  | .inf false => .inf false
  | .fin false m e => .fin false m e
  | _ => .fin false 0 0

/-- a of R254 as F32 bits. -/
def acceptance (old new : Word) : Word :=
  let bits (x : FNum) (w : Word) : Nat := match x with
    | .fin _ 0 _ => 0
    | _ => w.toNat
  let fo := targetNum old
  let fn := targetNum new
  let one : Word := 0x3F800000#32
  if fo.isZero then (if fn.isZero then 0 else one)
  else if fn.isInf then one
  else
    let q := fdiv f32 { rnd := .rne, nfz := false } (bits fn new) (bits fo old)
    if (unpack f32 false q.bits).lt (unpack f32 false one.toNat) then BitVec.ofNat 32 q.bits else one

/-- What the comparator finds. -/
structure Verdict where
  code : Nat
  a : Word
  raw : Word
  eq : Byte
  accept : Bool
  fold : Word
  fnew : Word
  deriving DecidableEq, Repr

/-- settle() over the old record (count and target byte, words) and the proposal's state. -/
def verdict (oldRwc : Byte) (old : List Word) (cv : ChoiceState) (exited bad : Bool) : Verdict :=
  let word (l : List Word) (i : Nat) : Word := l[i]?.getD 0
  let tgt (b : Byte) : Nat := (b.extractLsb' 4 3).toNat
  let fold := word old (tgt oldRwc)
  if !exited then { code := 1, a := 0, raw := 0, eq := 0, accept := false, fold := fold, fnew := 0 }
  else
    let new := cv.result.toList
    let fnew := word new (tgt cv.rwc)
    if oldRwc.toNat % 128 != cv.rwc.toNat % 128 then { code := 2, a := 0, raw := 0, eq := 0, accept := false, fold := fold, fnew := fnew }
    else
      let a := acceptance fold fnew
      let raw := if cv.accset.getLsbD 0 then cv.accraw else generate cv.stream 4095 0 cv.gen
      let eq : Byte := (List.range (cv.rwc.toNat % 16)).foldl (fun b i =>
        if word old i = word new i then b ||| (1#8 <<< i) else b) 0
      { code := if bad then 3 else 0, a := a, raw := raw, eq := eq,
        accept := (FNum.fin false (raw.toNat / 256) (-24)).lt (unpack f32 false a.toNat), fold := fold, fnew := fnew }

/-- The 64 bytes of a chain record (R255). -/
def chainRecord (c n : Nat) (v : Verdict) (cv : ChoiceState) (kind : BitVec 4) : List Byte :=
  leBytes 4 c ++ leBytes 4 n ++ leBytes 4 v.fold.toNat ++ leBytes 4 v.fnew.toNat ++ leBytes 4 v.a.toNat ++ leBytes 4 v.raw.toNat ++
    leBytes 2 (if cv.sta? staDIVD then cv.div.toNat else 0xFFFF) ++ leBytes 2 cv.n.toNat ++ [v.eq] ++
    leBytes 1 ((if v.accept then 1 else 0) + 2 * v.code) ++ leBytes 1 kind.toNat ++ [cv.sta] ++
    cv.result.toList.flatMap fun w => leBytes 4 w.toNat

/-- Settles the step of one proposal thread, then builds the chain's next proposal (R253 to R256). -/
def State.settle (s : State) (g : Grid) (p : Proposal) (cv : ChoiceState) (exited : Bool) : State :=
  match g.relay, s.proc? g.pid with
  | some r, some pr =>
    let base := r.slot g p.chain
    let oldRwc : Byte := BitVec.ofNat 8 (s.readVirtNat pr (base + 0x0A) 1)
    let old : List Word := (List.range 8).map fun i => BitVec.ofNat 32 (s.readVirtNat pr (base + 0x40 + 4 * i) 4)
    let v := verdict oldRwc old cv exited p.badSplice
    let gn := s.readVirtNat pr base 4
    let s := s.noteVirt pr base 0x60
    let s := if v.accept then s.writeChain pr base gn p.step cv else s.writeVirtNat pr (base + 4) 4 p.step
    let s := s.writeVirt pr (r.reca.toNat + 64 * (p.chain * r.steps + p.step - 1)) (chainRecord p.chain p.step v cv p.kind)
    s.nextProposal g p.chain cv.pendingDesc
  | _, _ => s

/-- Chain c begins with a first-run thread's record (R253). -/
def State.beginChain (s : State) (g : Grid) (c : Nat) (cv : ChoiceState) : State :=
  match g.relay, s.proc? g.pid with
  | some r, some p => (s.writeChain p (r.slot g c) 0 0 cv).nextProposal g c cv.pendingDesc
  | _, _ => s

/-- The proposal that home lane h of a proposal team runs. -/
def Grid.proposalOf (g : Grid) (team home : Nat) : Option Proposal :=
  g.relay.bind fun r => (r.running.find? fun x => x.1 == team).bind fun x => x.2[home]?

/-- Global thread index of home lane h of a team of a grid block (R21). -/
def Grid.threadIndex (g : Grid) (block tix h : Nat) : Nat := (block * g.teams + tix) * 32 * g.ngrp + h

end Sys2Proof.Machine
end

