-- ==== Sys2Proof/Machine/Ops.lean ====
section
/-! DEFINITION. The operations that instructions share: what an issuing instruction is, the pending-path stack (spec/02 R26
to R33), how a team ends (R42), page faults as deferred paths (spec/06 R141 to R144, spec/09 R208), TAKING A TRAP (R203,
R234) and RETURNING FROM ONE (R206), waiting (R317), and how an instruction finishes. -/

namespace Sys2Proof.Machine

open Sys2Proof

/-- What a step answers. -/
abbrev Out := Host.Outcome State Fault Refusal

/-! ### The issuing instruction -/

/-- The instruction a team issues: its words, its address, the mode it runs under, and the replay it is, if it is one. -/
structure Ctx where
  i : Instr
  word : Word
  lit : Word
  len : Nat
  pc : Double
  uid : Nat
  mode : Word
  rp : Option PendingReplay
  /-- the team's uncorrectable register words (R209) -/
  soft : List SoftErrorSite := []

def Ctx.of (i : Instr) (t : Team) : Ctx :=
  let ws := encode i
  let rp := t.replay.head?
  { i := i, word := ws.headD 0, lit := (ws.drop 1).headD 0, len := 4 * ws.length,
    pc := match rp with | some r => r.entry.pc | none => t.pc,
    uid := t.uid, mode := match rp with | some r => r.entry.mode | none => t.mode, rp := rp }

/-- Address of the next instruction in line. -/
def Ctx.next (c : Ctx) : Double := c.pc + BitVec.ofNat 64 c.len

/-- The running lanes the instruction acts for; a replay acts for its own (R206, R208). -/
def Ctx.lanes (c : Ctx) (t : Team) : Mask :=
  match c.rp with
  | some r => r.entry.pmask &&& ~~~t.retiredMask
  | none => t.running

/-! ### Hazards of fixed-latency results (R91, R92; log 10) -/

/-- The value that register r held before a writer that is still inside its window, if there is one. -/
def Team.stale? (t : Team) (r : RegRef) : Option Word :=
  t.recent.findSome? fun w => if w.dist < w.lat then (w.olds.find? fun o => o.1 == r).map (·.2) else none

/-- What an instruction reads from a register: inside the window of R92, the old value or the result. A scalar is chosen
once for the instruction. -/
def Team.readHaz (t : Team) (tick : Nat) (r : RegRef) : Word :=
  match t.recent with
  | [] => t.readRef r
  | _ =>
    match t.stale? r with
    | none => t.readRef r
    | some old =>
      let (lane, reg) : Nat × Nat := match r with
        | .v h i => (h, i.toNat)
        | .s i => (0, 64 + i.toNat)
        | .p h i => (h, 128 + i.toNat)
      if Config.staleRead tick lane reg then old else t.readRef r

/-- The address of the first writer whose window a read of these registers falls into. -/
def Team.hazard (t : Team) (reads : RegRef → Bool) : Option Double :=
  t.recent.findSome? fun w => if w.dist < w.lat && w.olds.any (fun o => reads o.1) then some w.pc else none

/-- Ages the windows by one instruction and its stall count. -/
def ageRecent (l : List RecentWrite) (d : Nat) : List RecentWrite :=
  (l.map fun w => { w with dist := w.dist + d }).filter fun w => w.dist < w.lat

/-- A later write to a register ends its older window (R91: writes to one register take effect in program order). -/
def dropRefs (l : List RecentWrite) (r : RegRef) : List RecentWrite :=
  (l.map fun w => { w with olds := w.olds.filter fun o => o.1 != r }).filter fun w => !w.olds.isEmpty

/-- STALL of an instruction word. -/
def stallOf (word : Word) : Nat := word.toNat % 4

/-! ### Fault entries -/

/-- The fault-queue entry that a stack entry of the team names (R27, R142). -/
def State.faultOf (s : State) (t : Team) (ftag : BitVec 12) : Option FaultEntry :=
  (s.dieAt (dieOf t.core)).faults.find? fun f => f.index == ftag && f.team == t.uid && f.status != 3

/-- Frees an entry (R143). -/
def State.freeFault (s : State) (die : Nat) (ftag : BitVec 12) : State :=
  s.modDie die fun d => { d with faults := d.faults.filter fun f => f.index != ftag }

/-- A resolved entry is taken: with STATUS 1 the replay walks afresh (R143), for a fetch also at its literal (R77), and the entry is
freed. -/
def State.takeFault (s : State) (t : Team) (ftag : BitVec 12) : State :=
  let s := match s.faultOf t ftag, s.procOf t with
    | some f, some p =>
      if f.status != 1 then s
      else if f.access = 3 then (s.forget t.core p.asn f.vaddr.toNat).forget t.core p.asn (f.vaddr + 4).toNat
      else s.forget t.core p.asn f.vaddr.toNat
    | _, _ => s
  s.freeFault (dieOf t.core) ftag

/-- The entries of an ending team are cancelled; its copies' entries and conveyance entries stay (R143, R370). -/
def State.cancelFaults (s : State) (t : Team) : State :=
  s.modDie (dieOf t.core) fun d =>
    { d with faults := (d.faults.filter fun f => !(f.team == t.uid && f.status != 0 && f.access.toNat < 4)).map fun f =>
        if f.team = t.uid ∧ f.access.toNat < 4 then { f with status := 3 } else f }

/-- Entries in use; a cancelled one is free again. -/
def DieState.inUse (d : DieState) : Nat := (d.faults.filter fun f => f.status != 3).length

/-- The next free index in ring order. -/
def freeIndex (used : List Nat) : Nat → Nat → Nat
  | 0, i => i
  | n + 1, i => if used.contains i then freeIndex used n ((i + 1) % 4096) else i

/-- What a fault-queue entry says of its access. -/
structure FaultSpec where
  vaddr : Double
  pc : Double
  lanes : Word
  row : Nat
  access : Nat
  level : Nat
  cause : Nat

/-- Posts an entry in the die's queue, which has room, and answers its index (R141, R142). -/
def State.postFault (s : State) (die gid asn core slot team : Nat) (f : FaultSpec) : BitVec 12 × State :=
  let d := s.dieAt die
  let used := (d.faults.filter fun e => e.status != 3).map fun e => e.index.toNat
  let ix := freeIndex used 4096 d.nextFault
  let e : FaultEntry :=
    { vaddr := f.vaddr, pc := f.pc, lmask := f.lanes, grid := BitVec.ofNat 32 gid, asn := BitVec.ofNat 16 asn,
      core := BitVec.ofNat 10 core, tslot := BitVec.ofNat 6 slot, row := BitVec.ofNat 5 f.row, access := BitVec.ofNat 3 f.access,
      level := BitVec.ofNat 4 f.level, cause := BitVec.ofNat 4 f.cause, status := 0, index := BitVec.ofNat 12 ix, team := team,
      order := 0 }
  (BitVec.ofNat 12 ix,
   s.modDie die fun d => { d with faults := (d.faults.filter fun x => x.index.toNat != ix) ++ [e], nextFault := (ix + 1) % 4096 })

def faultRoom (s : State) (die n : Nat) : Bool := (s.dieAt die).inUse + n ≤ 4096

/-! ### How a team ends (R42) -/

/-- Death causes (R72). -/
def causeEXIT : Byte := 1
def causeEXTINCT : Byte := 2
def causeKILLED : Byte := 3
def causeFATAL : Byte := 4

/-- Teams of a block. -/
def State.teamsOf (s : State) (blk : Nat) : List Team := s.teams.filter fun t => t.blk == blk

/-- Settles, with code 1, the proposals of a team's home lanes that ended without EXITR (R253, R254). -/
def State.settleLanes (s : State) (t : Team) (homes : List Nat) (exited : Bool) : State :=
  match t.kind with
  | .proposal _ =>
    homes.foldl (fun s h =>
      match s.grid? t.gid with
      | none => s
      | some g =>
        match g.proposalOf t.uid h with
        | some p =>
          if p.settled then s
          else
            let s := s.modGrid t.gid fun g => { g with relay := g.relay.map fun r =>
              { r with running := r.running.map fun x =>
                  if x.1 = t.uid then (x.1, modifyAt x.2 h fun p => { p with settled := true }) else x } }
            s.settle g p (t.real.thread h).cv exited
        | none => s) s
  | _ => s

/-- Publishes a block event once (R173). -/
def State.publish (s : State) (b : Block) (v : Word) : State :=
  (s.modBlock b.uid fun b => { b with published := true }).modGrid b.gid fun g => { g with events := g.events ++ [(b.index, v)] }

/-- Whether a dead team leaves the conveyance unit something to do (R267). -/
def Team.conveys (t : Team) : Bool :=
  t.estate.toList.any (fun e => e.kind != 0) || (match t.run with | .waiting (.lock _ _ _) => true | _ => false)

/-- Frees the slot of a node whose team ended (R194). -/
def Grid.freeSlot (g : Grid) (t : Team) : Grid :=
  match t.kind with
  | .node n k => { g with nodes := modifyAt g.nodes n fun x => { x with slots := modifyAt x.slots k fun _ => .free } }
  | .proposal _ => { g with relay := g.relay.map fun r => { r with running := r.running.filter fun x => x.1 != t.uid } }
  | _ => g

/-- The team's death takes effect: its stores are performed, its record's default event is published, its proposals are
settled, and its conveyance is queued (R42, R171, R173, R253, R267). -/
def State.die (s : State) (t : Team) (cause : Byte) : State :=
  let s := ((s.drainAll t.uid).settleBounds t.uid).cancelFaults t
  let s := s.modTeam t.uid fun u =>
    { u.real with aside := none, cause := cause, inflight := [], replay := [], stack := [], recent := [], openBatch := [] }
  let s := s.settleLanes t (List.range (32 * t.ngrp)) false
  let s := s.modGrid t.gid fun g => g.freeSlot t
  let s := if t.conveys then
      s.modGrid t.gid fun g => { g with conveying := g.conveying ++ [{ team := t.uid, fault := none }] }
    else s
  match s.block? t.blk with
  | none => s
  | some b =>
    let s := s.modBlock b.uid fun b => { b with jobs := b.jobs.filter fun j => j.team != t.uid }
    let s := if b.shadowOf.isSome && (s.coreAt t.core).reservation == some t.uid then s.modCore t.core fun c => { c with reservation := none } else s
    let s := if b.shadowOf.isSome && cause != causeEXIT then s.modBlock b.uid fun b => { b with mismatch := true } else s
    if t.isGrid && b.shadowOf.isNone && !b.published && (s.teamsOf b.uid).all (fun u => u.cause != 0) then
      s.publish b 0xFFFFFFFF#32
    else s

/-- Ends a team with a death cause. A FATAL death of a process that takes dumps freezes the team first, and what its dump shows of the
fault's moment is kept (R215, R216, R218). -/
def State.endTeam (s : State) (uid : Nat) (cause : Byte) : State :=
  match s.team? uid with
  | none => s
  | some t =>
    if t.cause != 0 || t.run == .frozen then s
    else
      let dumps := (s.procOf t).any (fun p => p.dumpPolicy != 0) && !s.isShadow t
      if cause = causeFATAL && dumps then
        if s.hub.dumpQueue.length ≥ 8 then (s.count 1).die t cause
        else
          let at_ : Double × Memory := (Config.cycle t.core s.tick, ((s.block? t.blk).map Block.scratch).getD [])
          (s.ticked.modTeam uid fun u => { u with run := .frozen, faultAt := some at_ }).modHub fun h => { h with dumpQueue := h.dumpQueue ++ [uid] }
      else s.die t cause

/-- The running mask and the stack are empty: EXIT when a thread exited, else EXTINCT (R42). -/
def State.endNatural (s : State) (uid : Nat) : State :=
  match s.team? uid with
  | none => s
  | some t => s.endTeam uid (if t.threads.any (fun th => th.life == .exited) then causeEXIT else causeEXTINCT)

/-! ### The pending-path stack (R26 to R33) -/

/-- Removes lanes from the current mask and from every stack entry (R22, R40). -/
def Team.dropLanes (t : Team) (m : Mask) : Team :=
  { t with mask := maskMinus t.mask m, stack := t.stack.map fun e => { e with gmask := maskMinus e.gmask m } }

/-- Lanes end as exited or dead; a proposal lane that ends without EXITR is settled. -/
def State.retire (s : State) (uid : Nat) (m : Mask) (life : Life) : State :=
  match s.team? uid with
  | none => s
  | some t =>
    let s := s.modTeam uid fun u => (u.modLanes m fun th => { th with life := life }).dropLanes m
    if t.aside.isSome then s else s.settleLanes t ((maskLanes m).map t.homeAt) false

/-- What take_next finds. -/
inductive Pick where
  | ended
  | fatal
  | choose
  | path (e : PathEntry) (rest : List PathEntry)

/-- Popping an entry whose reserved field is not zero kills the team (R27). -/
def PathEntry.popped (e : PathEntry) (rest : List PathEntry) : Pick := if e.resv != 0 then .fatal else .path e rest

/-- The adjacent DEFERRED entries on top. -/
def deferredRun (st : List PathEntry) : List PathEntry := st.takeWhile fun e => e.kind == 1

/-- take_next of R29: of a run of DEFERRED entries the one whose fault was resolved first; `resolved` gives the order of
a resolved fault. -/
def takeNext (resolved : BitVec 12 → Option Nat) (st : List PathEntry) : Pick :=
  match st with
  | [] => .ended
  | e :: rest =>
    if e.kind = 3 then .fatal
    else if e.kind != 1 then e.popped rest
    else
      let run := deferredRun st
      let best := run.zipIdx.foldl (fun (b : Option (Nat × Nat)) (x, i) =>
        match resolved x.ftag, b with
        | some o, none => some (o, i)
        | some o, some (o', j) => if o < o' then some (o, i) else some (o', j)
        | none, _ => b) none
      match best with
      | some (_, i) =>
        match st[i]? with
        | some x => x.popped (st.eraseIdx i)
        | none => .choose
      | none => if run.length = 1 then e.popped rest else .choose

def State.resolvedOrder (s : State) (t : Team) (ftag : BitVec 12) : Option Nat :=
  (s.faultOf t ftag).bind fun f => if f.status = 1 || f.status = 2 then some f.order else none

/-- An entry is ready: PATH at once, DEFERRED when its fault is resolved, FOCUS when lane focus has ended (R27). -/
def State.pathReady (s : State) (t : Team) (e : PathEntry) : Bool :=
  match e.kind with
  | 0 => true
  | 1 => (s.resolvedOrder t e.ftag).isSome
  | _ => t.focus.isNone

/-- The replay that a resumed DEFERRED entry owes: of the replay-queue entry that holds its lanes (R208), or of the
fetch alone. Lanes of a denied fault raise PAGE_FAULT at it (R143). -/
def Team.deferredReplay (t : Team) (e : PathEntry) (m : Mask) (denied : Bool) : List PendingReplay :=
  let d : List (Mask × BitVec 12) := if denied then [(m, e.ftag)] else []
  match t.rq.toList.findIdx? (fun r => r.state == 3 && r.pc == e.pc && (r.pmask &&& m) != 0) with
  | some k => [{ slot := some k, entry := { vget t.rq k .free with pmask := (vget t.rq k .free).pmask &&& m }, denied := d, rte := false,
                 again := false }]
  | none =>
    if denied then [{ slot := none, entry := { ReplayEntry.free with pc := e.pc, pmask := m, mode := t.mode }, denied := d, rte := false,
                      again := false }]
    else []

/-- resume(e) of R29 with the entry already taken; `n` bounds how many entries of retired threads it passes over. -/
def State.resume (uid : Nat) : Nat → State → PathEntry → State
  | 0, s, _ => s.endNatural uid
  | n + 1, s, e =>
    match s.team? uid with
    | none => s
    | some t =>
      if !s.pathReady t e then s.modTeam uid fun u => { u with mask := 0, run := .choosing none, stack := e :: u.stack }
      else
        let m := maskMinus (e.gmask &&& fullMask t.ngrp) t.retiredMask
        let denied := e.kind == 1 && (s.faultOf t e.ftag).any (fun f => f.status == 2)
        let s := if e.kind = 1 then s.takeFault t e.ftag else s
        if m = 0 then
          match takeNext (s.resolvedOrder t) t.stack with
          | .ended => (s.modTeam uid fun u => { u with mask := 0 }).endNatural uid
          | .fatal => s.endTeam uid causeFATAL
          | .choose => s.modTeam uid fun u => { u with mask := 0, run := .choosing none }
          | .path e' rest => State.resume uid n (s.modTeam uid fun u => { u with stack := rest }) e'
        else
          s.modTeam uid fun u =>
            { u with mask := m, pc := e.pc, resumed := true, run := .ready, recent := [],
                     replay := if e.kind = 1 then u.deferredReplay e m denied else [] }

/-- resume_next of R29. -/
def State.resumeNext (s : State) (uid : Nat) : State :=
  match s.team? uid with
  | none => s
  | some t =>
    match takeNext (s.resolvedOrder t) t.stack with
    | .ended => s.endNatural uid
    | .fatal => s.endTeam uid causeFATAL
    | .choose => s.modTeam uid fun u => { u with mask := 0, run := .choosing none, recent := [] }
    | .path e rest => State.resume uid (t.stack.length + 1) (s.modTeam uid fun u => { u with stack := rest, recent := [] }) e

/-- Merges the paths parked at pcA on top of the stack (R29); none when one of them kills the team as it is popped (R27). `live`
holds the team's threads that are not retired. -/
def mergeParked (live : Mask) (pcA : Double) (m : Mask) : List PathEntry → Option (Mask × List PathEntry)
  | [] => some (m, [])
  | e :: rest =>
    if e.kind = 0 && e.pc = pcA then (if e.resv != 0 then none else mergeParked live pcA (m ||| (e.gmask &&& live)) rest)
    else some (m, e :: rest)

def pathEntry (pc : Double) (m : Mask) : PathEntry := { gmask := m, resv := 0, ftag := 0, kind := 0, pc := pc }

/-- arrive of R29. It answers the state, and whether the arriving path executes its instruction now. A path that has just
resumed, and a replay, executes without the check (R30). -/
def State.arrive (s : State) (c : Ctx) : State × Bool :=
  match s.team? c.uid with
  | none => (s, false)
  | some t =>
    if t.resumed || c.rp.isSome then (s, true)
    else
      match mergeParked (maskMinus (fullMask t.ngrp) t.retiredMask) c.pc t.mask t.stack with
      | none => (s.endTeam c.uid causeFATAL, false)
      | some (m, st) =>
        let s := s.modTeam c.uid fun u => { u with mask := m, stack := st }
        if st.head?.any fun top => top.kind = 0 || top.kind = 1 then
          match takeNext (s.resolvedOrder t) st with
          | .path e rest =>
            (State.resume c.uid (st.length + 1)
              (s.modTeam c.uid fun u => { u with stack := pathEntry c.pc m :: rest, recent := [] }) e, false)
          | .choose => (s.modTeam c.uid fun u => { u with run := .choosing (some c.pc), recent := [] }, false)
          | .fatal => (s.endTeam c.uid causeFATAL, false)
          | .ended => (s, true)
        else (s, true)

/-! ### Issue and completion -/

/-- A reply writes a register, an atomic's as a late write (R55). It is the register's latest writer, so an older window on it ends
(R90, R91). -/
def Team.reply (t : Team) (atomic : Bool) (r : RegRef) (x : Word) : Team :=
  let t1 := if atomic then t.lateWrite r x else t.writeRef r x
  match t1.recent with
  | [] => t1
  | rs => { t1 with recent := dropRefs rs r }

/-- Delivers every outstanding load and atomic reply of a team: a later reader is interlocked (R90; log 9). A dead lane
takes none (R214). -/
def Team.deliver (t : Team) : Team :=
  match t.inflight with
  | [] => t
  | fs =>
    { fs.foldl (fun t f => f.writes.foldl (fun t w =>
        match w.1 with
        | .v h _ => if (t.thread h).life == .dead then t else t.reply f.atomic w.1 w.2
        | _ => t.reply f.atomic w.1 w.2) t) t with inflight := [] }

/-- Entries of STATE 2 below index k are dropped as RTE passes them (R206). -/
def Team.dropBelow (t : Team) (k : Nat) : Team :=
  { t with rq := t.rq.mapIdx fun j e => if j < k && e.state == 2 then { e with state := 0 } else e }

/-- A replay leaves the queue of replays owed; its replay-queue entry is freed, or loses its lanes (R206, R208). -/
def Team.beginReplay (t : Team) (rp : PendingReplay) : Team :=
  let t := { t with replay := t.replay.drop 1 }
  match rp.slot with
  | none => t
  | some k =>
    let t := if rp.rte then t.dropBelow k else t
    let e := vget t.rq k .free
    let left := maskMinus e.pmask rp.entry.pmask
    if rp.rte || rp.again || left = 0 then { t with rq := vput t.rq k { e with state := 0 } }
    else { t with rq := vput t.rq k { e with pmask := left } }

/-- What stands at the beginning of every issue. -/
def Team.begin (t : Team) (c : Ctx) : Team :=
  let t := t.deliver
  match c.rp with
  | none => t
  | some rp => t.beginReplay rp

/-- The team's uncorrectable register words. -/
def State.softOf (s : State) (t : Team) : List SoftErrorSite :=
  s.soft.filter fun x => match x with
    | .reg u _ _ => u == t.uid
    | .scalar u _ => u == t.uid
    | .pred u _ _ => u == t.uid
    | _ => false

/-- Register words written whole are no longer uncorrectable: of a predicate, when every lane of the row is written. -/
def State.scrubRegs (s : State) (t : Team) (refs : List RegRef) : State :=
  if s.soft.isEmpty then s
  else
    { s with soft := s.soft.filter fun x => !(match x with
        | .reg u h i => u == t.uid && refs.contains (.v h i)
        | .scalar u i => u == t.uid && refs.contains (.s i)
        | .pred u i g => u == t.uid && (t.threads.zipIdx.all fun (th, h) => th.pos / 32 != g || refs.contains (.p h i))
        | _ => false) }

/-- The dump writer has frozen a team of the grid (R215). -/
def State.gridFrozen (s : State) (gid : Nat) : Bool := s.teams.any fun u => u.gid == gid && u.run == .frozen

/-- It stops issue by the grid's other teams too, under policy 2 (R215). -/
def State.dumpStops (s : State) (gid : Nat) : Bool :=
  s.gridFrozen gid && ((s.grid? gid).bind fun g => s.proc? g.pid).any fun p => p.dumpPolicy == 2

/-- While a team of the grid is frozen no held store is performed (R215): an instruction that would perform one is not ready. -/
def State.unlessHeld (s s0 : State) (t : Team) : State :=
  if t.storeQ.isEmpty || !s0.gridFrozen t.gid then s
  else if (s.team? t.uid).any fun u => t.storeQ.isPrefixOf u.storeQ then s else s0

/-- The team is not ready while lines that its next instruction reads are not in the register cache (R53): nothing else has happened. -/
def State.unlessMissing (s s0 : State) (t : Team) : State :=
  match t.run with
  | .missing _ => s
  | _ =>
    match (s.team? t.uid).map Team.run with
    | some (.missing ls) => s0.modTeam t.uid fun u => { u with run := .missing ls }
    | _ => s

/-- Runs the effect f of an instruction of the team that has the turn. -/
def issue (i : Instr) (s : State) (f : Ctx → Team → State → State) : Out :=
  match s.team? s.turn with
  | none => .fault .noIssuingTeam
  | some t =>
    let c := { Ctx.of i t with soft := s.softOf t }
    let t1 := t.begin c
    let s1 := s.setTeam t1
    let s2 := if t.recent.isEmpty then s1 else s1.ticked
    .next ((f c t1 (s2.scrubRegs t (t.inflight.flatMap fun l => l.writes.map (·.1)))).unlessMissing s t |>.unlessHeld s t)

/-- Where a team goes on after the instruction: at `next`; a replay of RTE goes on with the next entry, and after the last
at RPC (R206). -/
def Team.goOn (t : Team) (c : Ctx) (next : Double) : Team :=
  match c.rp with
  | none => { t with pc := next, resumed := false, recent := ageRecent t.recent (1 + stallOf c.word) }
  | some r =>
    let recent := ageRecent t.recent (1 + stallOf c.word)
    if r.again && !r.rte then { t with resumed := false, recent := recent }
    else if r.rte then
      (if t.replay.isEmpty then { t.dropBelow 8 with pc := t.frame.rpc, resumed := false, recent := recent } else { t with recent := recent })
    else { t with pc := next, resumed := false, recent := recent }

/-- The instruction has committed: it counts (R345), and the path goes on, or the next one resumes when no lane is left. -/
def State.finish (s : State) (c : Ctx) (next : Double) : State :=
  match s.team? c.uid with
  | none => s
  | some t =>
    let t1 := { t.goOn c next with insn := t.insn + 1 }
    let s1 := s.setTeam t1
    if t1.running = 0 && t1.replay.isEmpty then s1.resumeNext c.uid else s1

/-- n passes issue (R24, R345). -/
def Team.passed (t : Team) (n : Nat) : Team := { t with passes := t.passes + BitVec.ofNat 64 n }

/-- Passes beyond the first of an instruction that acts once and reads or writes a register of every lane (R24; log 9). -/
def extraPasses (lanes : Mask) : Nat := (maskRows lanes).length - 1

/-- An instruction of one pass that acts on the team alone and finishes. -/
def State.finishTeam (s : State) (c : Ctx) (f : Team → Team) (next : Double) : State :=
  (s.modTeam c.uid fun t => (f t).passed 1).finish c next

/-! ### Taking a trap (R200 to R203, R234, R423) -/

/-- CAUSE, DETAIL, VADDR and INFO of R200. -/
structure TrapInfo where
  cause : Byte
  detail : Byte
  vaddr : Double
  info : Double
  deriving DecidableEq, Repr

def trapOf (cause : Byte) : TrapInfo := { cause := cause, detail := 0, vaddr := 0, info := 0 }

def illegalEncoding : TrapInfo := trapOf 0x01
def illegalOperand : TrapInfo := trapOf 0x02
def privilege : TrapInfo := trapOf 0x05

/-- The lowest replay-queue entry in STATE 0. -/
def Team.freeEntry (t : Team) : Option Nat := t.rq.toList.findIdx? fun e => e.state == 0

/-- The frame of R204. -/
def Team.frameOf (t : Team) (c : Ctx) (ti : TrapInfo) (lanes : Mask) (rpc : Double) (skid : Nat) (active : Byte) : TrapFrame :=
  { tpc := c.pc, rpc := rpc, smode := t.mode, cause := ti.cause, detail := ti.detail, active := active, rqn := 0, vaddr := ti.vaddr,
    info := ti.info, word := c.word, lit := c.lit, edepth := BitVec.ofNat 16 t.stack.length, skid := BitVec.ofNat 16 skid,
    lmask := lanes, smask := t.mask }

/-- Trap entry: `keep` is what the instruction still has to perform, none when it is complete; `rpc` is the address after
the youngest issued instruction. -/
def Team.enterTrap (t : Team) (c : Ctx) (ti : TrapInfo) (lanes : Mask) (keep : Option ReplayEntry) (rpc traph : Double) : Team :=
  let rte := c.rp.any fun r => r.rte
  let t1 := { t with frame := t.frameOf c ti lanes (if rte then t.frame.rpc else rpc) 0 1 }
  let t2 := match keep with
    | none => t1
    | some e =>
      let slot := match c.rp with
        | some r => if r.rte then r.slot.orElse fun _ => t1.freeEntry else t1.freeEntry
        | none => t1.freeEntry
      match slot with
      | some k => { t1 with rq := vput t1.rq k { e with state := 1 } }
      | none => t1
  { t2 with mode := 0, mask := lanes, pc := traph, recent := [], replay := [], resumed := false, run := .ready }

/-- A trap ends the team FATAL: its frame is kept for the dump (R216, R218). -/
def State.fatalTrap (s : State) (c : Ctx) (ti : TrapInfo) (lanes : Mask) (rpc : Double) : State :=
  (s.modTeam c.uid fun t => { t with fatal := t.fatal ++ [t.frameOf c ti lanes rpc 0 t.frame.active] }).endTeam c.uid causeFATAL

/-- A trap of the team would end it (R203, R213). -/
def State.trapsFatal (s : State) (t : Team) : Bool :=
  t.aside.isSome || t.frame.active != 0 || (s.gridOf t).all fun g => g.traph == 0

/-- take_trap of R203. A trap inside a handler, or without a trap handler, ends the team FATAL; a shadow's traps are not
taken and count as a mismatch (R179); a handler context's trap ends its team (R213). -/
def State.takeTrap (s : State) (c : Ctx) (ti : TrapInfo) (lanes : Mask) (keep : Option ReplayEntry) (rpc : Double) : State :=
  match s.team? c.uid with
  | none => s
  | some t =>
    match s.gridOf t with
    | none => s.endTeam c.uid causeFATAL
    | some g =>
      if s.isShadow t then (s.modBlock t.blk fun b => { b with mismatch := true }).endTeam c.uid causeFATAL
      else if t.aside.isSome || t.frame.active != 0 || g.traph = 0 then s.fatalTrap c ti lanes rpc
      else s.setTeam (t.enterTrap c ti lanes keep rpc g.traph)

/-- A watchpoint hit by lanes of one row concerns that row (R221). -/
def stopRow (ti : TrapInfo) (lanes : Mask) : Option Nat :=
  match ti.cause == 0x12, maskRows lanes with
  | true, [g] => some g
  | _, _ => none

/-- A team stops for the debugger at BREAKPOINT or WATCHPOINT (R234): the frame is written, or kept in the debug record when
a handler is active, and nothing else of the team changes; EDEPTH is no field that it writes. -/
def Team.stopFor (t : Team) (c : Ctx) (ti : TrapInfo) (lanes : Mask) (rpc : Double) (skid : Nat) (exact : Bool) : Team :=
  let f := t.frameOf c ti lanes rpc skid t.frame.active
  if t.frame.active != 0 || t.aside.isSome then
    { t with stop := some { reason := if ti.cause = 0x12 then 1 else 0, skid := List.replicate t.ngrp skid, exact := exact,
                               row := stopRow ti lanes, kept := some f } }
  else
    { t with frame := { f with active := 0, edepth := t.frame.edepth },
             stop := some { reason := if ti.cause = 0x12 then 1 else 0, skid := List.replicate t.ngrp skid, exact := exact,
                               row := stopRow ti lanes, kept := none } }

/-! ### Returning from a trap (R206, R403) -/

/-- The replays that RTE owes: the entries of STATE 1 in ascending index. -/
def Team.rteReplays (t : Team) : List PendingReplay :=
  t.rq.toList.zipIdx.filterMap fun (e, k) =>
    if e.state = 1 then some { slot := some k, entry := { e with pmask := e.pmask &&& fullMask t.ngrp }, denied := [], rte := true, again := false } else none

/-- rte() of R206 once its checks have passed: ACTIVE, mode and mask are restored, the image's spill-stack pointer takes effect (R128),
entries of STATE 1 are to be replayed and those of STATE 2 dropped in index order, and execution continues at RPC. -/
def Team.leaveTrap (t : Team) : Team :=
  let f := t.frame
  let t1 := { t with
    frame := { f with active := 0 }, mode := f.smode, mask := maskMinus (f.smask &&& fullMask t.ngrp) t.retiredMask, pc := f.rpc, recent := [],
    replay := t.rteReplays, resumed := false, ssp := t.sspImage }
  if t1.replay.isEmpty then t1.dropBelow 8 else t1

/-! ### Waiting (R317) -/

/-- The team's youngest instruction waits: the address after it stands in pc, and `e` is its replay-queue entry. -/
def State.wait (s : State) (c : Ctx) (w : Wait) (e : ReplayEntry) : State :=
  s.modTeam c.uid fun t => { (t.goOn c c.next).passed 1 with run := .waiting w, waitEntry := e, waitRte := (c.rp.filter (·.rte)).bind (·.slot) }

/-- A waiting instruction has finished. -/
def State.endWait (s : State) (uid : Nat) (f : Team → Team) : State :=
  s.modTeam uid fun t => { f t with run := .ready, waitEntry := .free, waitRte := none, insn := t.insn + 1 }

/-- The context of a team's waiting instruction, for a trap that ends its wait. -/
def Team.waitCtx (t : Team) : Ctx :=
  { i := .nop { lua := false, lub := false, stall := 0 }, word := t.waitEntry.word, lit := t.waitEntry.lit, len := 4,
    pc := t.waitEntry.pc, uid := t.uid, mode := t.waitEntry.mode,
    rp := t.waitRte.map fun k => { slot := some k, entry := t.waitEntry, denied := [], rte := true, again := false } }

/-! ### Page faults as deferred paths (R141, R144, R208) -/

/-- The faulting lanes of one page of a pass, as team positions, with the walk's finding. -/
structure PageFault where
  vaddr : Double
  lanes : Mask
  cause : Nat
  level : Nat

/-- Groups (position, address, cause, level) of a pass by 4 KiB page, in ascending order of the lowest position. -/
def groupPages (l : List (Nat × Double × Nat × Nat)) : List PageFault :=
  l.foldl (fun (ps : List PageFault) x =>
    let page := x.2.1.toNat / 4096
    if ps.any (fun p => p.vaddr.toNat / 4096 == page) then
      ps.map fun p => if p.vaddr.toNat / 4096 = page then { p with lanes := p.lanes ||| maskOne x.1 } else p
    else ps ++ [{ vaddr := x.2.1, lanes := maskOne x.1, cause := x.2.2.1, level := x.2.2.2 }]) []

/-- Posts one entry for each page and answers the indices in order. -/
def State.postPages (s : State) (c : Ctx) (t : Team) (row access : Nat) (ps : List PageFault) : List (BitVec 12) × State :=
  let asn := ((s.procOf t).map Process.asn).getD 0
  ps.foldl (fun (l, s) p =>
    let (ix, s) := s.postFault (dieOf t.core) t.gid asn t.core t.slot t.uid
      { vaddr := p.vaddr, pc := c.pc, lanes := if access = 3 then 0 else maskRow p.lanes row, row := if access = 3 then 0 else row,
        access := access, level := p.level, cause := p.cause }
    (l ++ [ix], s)) ([], s)

/-- The replay-queue slot in which an instruction's deferred lanes stay: its own STATE 3 entry of this issue, or the entry it
is a replay of, or the lowest free one; none when 4 entries are held (R208). -/
def Team.deferSlot (t : Team) (c : Ctx) (mine : Option Nat) : Option Nat :=
  match mine with
  | some k => some k
  | none =>
    let own := (c.rp.bind fun r => r.slot).filter fun k =>
      let e := vget t.rq k .free
      e.state == 0 || (e.state == 3 && e.pc == c.pc)
    let held := (t.rq.toList.filter fun e => e.state == 3).length
    match own with
    | some k => if (vget t.rq k .free).state == 3 || held < 4 then some k else none
    | none => if held < 4 then t.freeEntry else none

/-- How a pass's deferral ended. -/
inductive Deferral where
  /-- the lanes were split off; the entry that keeps them -/
  | split (slot : Nat)
  /-- the whole path waits for these faults -/
  | whole (ftags : List (BitVec 12 × Mask))
  /-- the die's queue is full -/
  | full

/-- Defers the faulting lanes of a pass (R141): posts the entries and pushes a DEFERRED stack entry for each, unless the
stack or the replay queue lacks room (R26, R208) or the queue is full (R144). A queue that has room for some of a pass's entries and not
for all counts as full: the pass posts none, and waits until all fit (DESIGN CHOICE, log 24). `e` is the instruction's replay entry, and `act` the
lanes that it performs for, where these are not all that are deferred. -/
def State.defer (s : State) (c : Ctx) (row access : Nat) (ps : List PageFault) (e : ReplayEntry) (mine : Option Nat)
    (act : Option Mask := none) : Deferral × State :=
  match s.team? c.uid with
  | none => (.full, s)
  | some t =>
    if !faultRoom s (dieOf t.core) ps.length then (.full, s)
    else
      let (tags, s) := s.postPages c t row access ps
      let lanes := ps.foldl (fun m p => m ||| p.lanes) 0
      match (if t.stack.length + ps.length ≤ 256 then t.deferSlot c mine else none) with
      | none => (.whole (tags.zip (ps.map PageFault.lanes)), s)
      | some k =>
        let old := vget t.rq k .free
        let kept := act.getD lanes
        let keep : ReplayEntry :=
          if old.state = 3 then
            { e with state := 3, pmask := old.pmask ||| kept, ops := e.ops.foldl (fun ops x => Table.set ops x.1 x.2) old.ops,
                     bad := (old.bad ++ e.bad).eraseDups }
          else { e with state := 3, pmask := kept }
        let pushed := (ps.zip tags).map fun (p, ix) => ({ gmask := p.lanes, resv := 0, ftag := ix, kind := 1, pc := c.pc } : PathEntry)
        (.split k, s.modTeam c.uid fun u =>
          { u with rq := vput u.rq k keep, stack := pushed.reverse ++ u.stack, mask := maskMinus u.mask lanes,
                   split := u.split + BitVec.ofNat 64 ps.length })

/-- The team waits as `r` says, and then replays the lanes of `e`, for which nothing was split off; no path is switched, so its windows
stay open (R91). What RTE was replaying keeps its own
entry (R203). -/
def State.waitReplay (s : State) (c : Ctx) (r : RunState) (e : ReplayEntry) : State :=
  let slot := (c.rp.filter PendingReplay.rte).bind PendingReplay.slot
  s.modTeam c.uid fun t =>
    { t with run := r, rq := match slot with | some k => vput t.rq k { e with state := 1 } | none => t.rq,
             replay := { slot := slot, entry := e, denied := [], rte := c.rp.any (·.rte), again := false } :: t.replay }

/-- The whole running path of the team waits for faults (R26, R208). -/
def State.waitWhole (s : State) (c : Ctx) (ftags : List (BitVec 12 × Mask)) (e : ReplayEntry) : State :=
  s.waitReplay c (.wholePath ftags) e

/-- A pass waits for a free fault-queue entry (R144). -/
def State.waitQueue (s : State) (c : Ctx) (e : ReplayEntry) : State := s.waitReplay c .queueFull e

/-- A fault of an access made once for the team, or of a fetch, defers the whole running path as one entry (R141, R264,
R373); `e` is none for a fetch, and else the entry of the lanes that passed the guard (R205). In a replay of RTE nothing splits off: the
path still owes the entries that follow, and RPC, so it waits as one (DESIGN CHOICE, log 24). -/
def State.deferPath (s : State) (c : Ctx) (access : Nat) (va : Double) (cause level : Nat) (e : Option ReplayEntry) : State :=
  match s.team? c.uid with
  | none => s
  | some t =>
    let m := t.running
    let p : PageFault := { vaddr := va, lanes := m, cause := cause, level := level }
    match e with
    | some e =>
      if c.rp.any (·.rte) then
        if !faultRoom s (dieOf t.core) 1 then s.waitQueue c e
        else
          let (tags, s) := s.postPages c t ((maskRows m).headD 0) access [p]
          s.waitWhole c (tags.map fun x => (x, m)) e
      else
      match s.defer c ((maskRows m).headD 0) access [p] e none (some e.pmask) with
      | (.split _, s) => s.resumeNext c.uid
      | (.whole tags, s) => s.waitWhole c tags e
      | (.full, s) => s.waitQueue c e
    | none =>
      if !faultRoom s (dieOf t.core) 1 then s.modTeam c.uid fun t => { t with run := .queueFull }
      else
        let (tags, s) := s.postPages c t 0 3 [p]
        if t.stack.length < 256 then
          (s.modTeam c.uid fun u =>
            { u with stack := { gmask := m, resv := 0, ftag := tags.headD 0, kind := 1, pc := c.pc } :: u.stack, mask := 0,
                     split := u.split + 1 }).resumeNext c.uid
        else s.modTeam c.uid fun t => { t with run := .wholePath (tags.map fun x => (x, m)) }

/-! ### Lanes that die (R40, R209) -/

/-- The poison pattern TYPE gives at a width written. -/
def poisonOf (mode : Word) (w64 : Bool) : Double := poison (modeType mode) w64

/-! ### Stores and images -/

/-- A release: the team's queued stores are performed (R165; log 6). -/
def State.release (s : State) (uid : Nat) : State := s.drainAll uid

/-- A release at a scope, 4 device and 5 system (R165, R157). -/
def State.releaseAt (s : State) (uid scope : Nat) : State :=
  if scope ≥ 4 then (s.drainAll uid).settleBounds uid else s.drainAll uid

end Sys2Proof.Machine
end

