-- ==== Sys2Proof/Machine/Operands.lean ====
section
/-! DEFINITION. Every operand form: vector, scalar, predicate and immediate sources with their pairs (spec/04 R85, R315),
existence (R49), live lanes under the guard (R65), last use (R57), the checks at issue in their order (R78, R58, R92), and
the capture of operands in a replay-queue entry (R205). -/

namespace Sys2Proof.Machine

open Sys2Proof

/-- Where an operand comes from; `w` names a 64-bit pair, `vv` two vector registers of any number, and `vs` the n from r of
which one operand slot holds the first. -/
inductive Src where
  | none
  | v (r : Nat) (w : Bool)
  | vv (r : Nat)
  | vs (r n : Nat)
  | s (r : Nat) (w : Bool)
  | p (r : Nat)
  | imm (x : Double)
  deriving DecidableEq, Repr

/-- The register, or both registers of the pair, exists, and a pair is even (R49). -/
def Src.ok (t : Team) : Src → Bool
  | .none => true
  | .v r w => if w then t.hasVP r else t.hasV r
  | .vv r => t.hasV r && t.hasV (r + 1)
  | .vs r n => (List.range n).all fun i => t.hasV (r + i)
  | .s r w => if w then t.hasSP r else t.hasS r
  | .p r => t.hasP r
  | .imm _ => true

/-- Home lane of the thread at position p. -/
def Team.home (t : Team) (p : Nat) : Nat :=
  match t.threads[p]? with
  | some th => if th.pos = p then p else t.homeAt p
  | none => t.homeAt p

/-- It re-executes an instruction that waited (R317). -/
def Ctx.again (c : Ctx) : Bool := c.rp.any fun r => r.again

/-- The home lanes of the threads at the positions of a mask. -/
def Team.homesOf (t : Team) (m : Mask) : Mask := (maskLanes m).foldl (fun x p => x ||| maskOne (t.home p)) 0

/-- The positions at which the threads of these home lanes stand. -/
def Team.placesOf (t : Team) (homes : Mask) : Mask := (maskLanes homes).foldl (fun x h => x ||| maskOne (t.real.thread h).pos) 0

def refV (h r : Nat) : RegRef := .v h (BitVec.ofNat 6 r)
def refS (r : Nat) : RegRef := .s (BitVec.ofNat 6 r)
def refP (h r : Nat) : RegRef := .p h (BitVec.ofNat 4 r)

/-- Reads an operand from the registers, for the thread at position p. -/
def Team.readSrc (t : Team) (tick : Nat) (x : Src) (p : Nat) : Double :=
  match x with
  | .none => 0
  | .imm k => k
  | .v r w =>
    let h := t.home p
    let lo := t.readHaz tick (refV h r)
    if w then t.readHaz tick (refV h (r + 1)) ++ lo else lo.setWidth 64
  | .vv r =>
    let h := t.home p
    t.readHaz tick (refV h (r + 1)) ++ t.readHaz tick (refV h r)
  | .vs r _ => (t.readHaz tick (refV (t.home p) r)).setWidth 64
  | .s r w =>
    let lo := t.readHaz tick (refS r)
    if w then t.readHaz tick (refS (r + 1)) ++ lo else lo.setWidth 64
  | .p r => if r = 0 then 1 else (t.readHaz tick (refP (t.home p) r)).setWidth 64

/-- The operands of an instruction: a, b and d as OPS numbers them (R205). -/
structure Srcs where
  a : Src
  b : Src
  d : Src
  deriving DecidableEq, Repr

def Srcs.none : Srcs := { a := .none, b := .none, d := .none }

def Srcs.get (x : Srcs) (k : Nat) : Src :=
  match k with
  | 0 => x.a
  | 1 => x.b
  | _ => x.d

def Srcs.ok (t : Team) (x : Srcs) : Bool := x.a.ok t && x.b.ok t && x.d.ok t

/-- An operand of 32 bits takes the low word of its capture. -/
def Src.clip (x : Src) (v : Double) : Double :=
  match x with
  | .v _ true => v
  | .vv _ => v
  | .s _ true => v
  | _ => v &&& 0xFFFFFFFF#64

/-- Reads operand k for position p: from the captured copy in a replay, else from the registers (R205, R207). -/
def Ctx.read (c : Ctx) (t : Team) (tick : Nat) (x : Srcs) (k p : Nat) : Double :=
  match x.get k with
  | .imm v => v
  | .none => 0
  | src =>
    match c.rp with
    | some r => src.clip (Table.get r.entry.ops (1024 * k + p))
    | Option.none => t.readSrc tick src p

/-- An operand read once for the team: as the first lane reads it. -/
def Ctx.readTeam (c : Ctx) (t : Team) (tick : Nat) (x : Srcs) (k : Nat) : Double :=
  c.read t tick x k ((lowestLane (c.lanes t)).getD 0)

/-- Where an entry keeps word i ≥ 1 of a record of operand k: beyond OPS, which has room for the first alone (R205, R206; log 24). -/
def wordSlot (k i p : Nat) : Nat := 1024 * (3 + 8 * k + i) + p

/-- Words 0 to n − 1 of a record that stands in the n vector registers from r; a replay takes them as they were captured (R206). -/
def Ctx.readWords (c : Ctx) (t : Team) (tick : Nat) (x : Srcs) (k r n p : Nat) : List Word :=
  (List.range n).map fun i =>
    if i = 0 then (c.read t tick x k p).setWidth 32
    else
      match c.rp with
      | some q => (Table.get q.entry.ops (wordSlot k i p)).setWidth 32
      | none => t.readHaz tick (refV (t.home p) (r + i))

/-! ### Live lanes (R65) -/

/-- The guard holds for the thread at position p. -/
def Ctx.guard (c : Ctx) (t : Team) (tick : Nat) (p : Nat) : Bool :=
  let g := modeGuard c.mode
  let v := if g = 0 then true else t.readHaz tick (refP (t.home p) g) != 0
  v != modeSense c.mode

/-- Positions of m that satisfy a test. -/
def filterMask (m : Mask) (f : Nat → Bool) : Mask := maskOf ((maskLanes m).filter f)

/-- live(team) of a guarded instruction; a replay does not read the guard again (R205). -/
def Ctx.live (c : Ctx) (t : Team) (tick : Nat) : Mask :=
  match c.rp with
  | some _ => c.lanes t
  | none =>
    if modeGuard c.mode = 0 then (if modeSense c.mode then 0 else c.lanes t)
    else filterMask (c.lanes t) (c.guard t tick)

/-! ### Capture (R205) -/

/-- Positions of the rows that hold a lane of the mask, ascending. -/
def rowPositions (m : Mask) : List Nat := (maskRows m).flatMap fun g => (List.range 32).map fun j => 32 * g + j

/-- Positions at which an operand is captured: a scalar in every lane, and the others in the rows of pm. -/
def Src.captured (x : Src) (t : Team) (pm : Mask) : List Nat :=
  match x with
  | .none => []
  | .imm _ => []
  | .s _ _ => List.range (32 * t.ngrp)
  | _ => rowPositions pm

/-- OPS: the operands as the instruction reads them. -/
def Ctx.ops (c : Ctx) (t : Team) (tick : Nat) (x : Srcs) (pm : Mask) : Table 64 :=
  let put (at_ : Nat) (v : Double) : Option (Nat × Double) := if v = 0 then none else some (at_, v)
  ([0, 1, 2].flatMap fun k => ((x.get k).captured t pm).filterMap fun p => put (1024 * k + p) (c.read t tick x k p)) ++
    [0, 1, 2].flatMap fun k =>
      match x.get k with
      | .vs r n =>
        (List.range n).flatMap fun i =>
          if i = 0 then []
          else (rowPositions pm).filterMap fun p => put (wordSlot k i p) ((t.readHaz tick (refV (t.home p) (r + i))).setWidth 64)
      | _ => []

/-- The operand that the thread at position p reads holds an uncorrectable word. -/
def Src.badAt (soft : List SoftErrorSite) (t : Team) (x : Src) (p : Nat) : Bool :=
  let v (r : Nat) : Bool := soft.contains (.reg t.uid (t.home p) (BitVec.ofNat 6 r))
  let sc (r : Nat) : Bool := soft.contains (.scalar t.uid (BitVec.ofNat 6 r))
  match x with
  | .none => false
  | .imm _ => false
  | .v r w => v r || (w && v (r + 1))
  | .vv r => v r || v (r + 1)
  | .vs r n => (List.range n).any fun i => v (r + i)
  | .s r w => sc r || (w && sc (r + 1))
  | .p r => soft.contains (.pred t.uid (BitVec.ofNat 4 r) (p / 32))

/-- The operands that are captured from uncorrectable words, by their numbers in OPS (R209). -/
def Ctx.badOps (c : Ctx) (t : Team) (x : Srcs) (pm : Mask) : List Nat :=
  if c.soft.isEmpty then []
  else [0, 1, 2].flatMap fun k => (((x.get k).captured t pm).filter fun p => (x.get k).badAt c.soft t p).map fun p => 1024 * k + p

/-- The replay-queue entry that keeps the lanes of pm with their operands. -/
def Ctx.capture (c : Ctx) (t : Team) (tick : Nat) (x : Srcs) (pm : Mask) : ReplayEntry :=
  match c.rp with
  | some r => { r.entry with pmask := pm, state := 1 }
  | none =>
    { pc := c.pc, word := c.word, lit := c.lit, state := 1, mode := c.mode, pmask := pm, ops := c.ops t tick x pm,
      bad := c.badOps t x pm }

/-! ### Checks at issue (R78) -/

/-- Vector registers that a source names. -/
def Src.vregs : Src → List Nat
  | .v r w => if w then [r, r + 1] else [r]
  | .vv r => [r, r + 1]
  | .vs r n => (List.range n).map fun i => r + i
  | _ => []

/-- FREED_READ of R58: the lanes whose entry is freed, and INFO. `exch` lists the positions from which live lanes read
operand a through an exchange; its LMASK names the reading lanes (R394). -/
def Team.freedRead (t : Team) (live : Mask) (x : Srcs) (exch : Option (List (Nat × Nat))) : Option (Mask × Nat) :=
  let fields : List (Nat × Nat) := [0, 1, 2].flatMap fun k => (x.get k).vregs.map fun r => (k + 1, r)
  let freed (p r : Nat) : Bool := (t.thread (t.home p)).freed.getLsbD r
  let hit : List (Nat × Nat × Mask) := fields.filterMap fun (k, r) =>
    let m := match exch with
      | some prs => if k = 1 then maskOf ((prs.filter fun y => freed y.2 r).map Prod.fst) else filterMask live fun p => freed p r
      | none => filterMask live fun p => freed p r
    if m = 0 then none else some (k, r, m)
  match hit with
  | [] => none
  | (k, r, _) :: _ => some (hit.foldl (fun m x => m ||| x.2.2) 0, r + 64 * k)

/-- The instruction reads this register in a live lane, through an exchange, or as its guard. -/
def Ctx.reads (c : Ctx) (t : Team) (live : Mask) (guarded : Bool) (x : Srcs) (exch : Option (List (Nat × Nat))) (r : RegRef) : Bool :=
  let inLive (h : Nat) : Bool := maskHas live (t.thread h).pos
  let one (at_ : Nat → Bool) (y : Src) : Bool := match y, r with
    | .v q w, .v h i => at_ h && (i.toNat == q || (w && i.toNat == q + 1))
    | .vv q, .v h i => at_ h && (i.toNat == q || i.toNat == q + 1)
    | .vs q n, .v h i => at_ h && q ≤ i.toNat && i.toNat < q + n
    | .s q w, .s i => i.toNat == q || (w && i.toNat == q + 1)
    | .p q, .p h i => at_ h && i.toNat == q
    | _, _ => false
  let atA (h : Nat) : Bool := match exch with
    | some prs => prs.any fun y => y.2 == (t.thread h).pos
    | none => inLive h
  one atA x.a || one inLive x.b || one inLive x.d ||
    (guarded && (match r with | .p h i => i.toNat == modeGuard c.mode && i != 0 && maskHas (c.lanes t) (t.thread h).pos | _ => false))

/-- What an instruction checks at issue beyond its encoding. -/
structure Check where
  priv : Bool
  illegal : Bool
  /-- INFO of UNSUPPORTED_TYPE -/
  unsupported : Option Nat
  /-- (reading position, position read) of an exchange's live lanes -/
  exch : Option (List (Nat × Nat)) := none
  /-- FREED_READ is for the live lanes' own entries, though they read others (R351) -/
  ownFreed : Bool := false
  /-- the cause that bytes read at issue raise, before FREED_READ and STALL_CHECK (R78) -/
  extra : Option TrapInfo := none
  /-- registers that it reads beside its operand fields (R415) -/
  also : List RegRef := []
  /-- the positions whose operands are read, where these are not all (R302) -/
  only : Option Mask := none
  /-- it reads its lanes' flag bytes -/
  flags : Bool := false
  deriving DecidableEq, Repr

def Check.none : Check := { priv := false, illegal := false, unsupported := Option.none }

def Check.operand (ok : Bool) : Check := { priv := false, illegal := !ok, unsupported := Option.none }

/-- In a save or restore handler context a guard above p3 names a register that is not there (R213). -/
def Ctx.badGuard (c : Ctx) (t : Team) (guarded : Bool) : Bool := guarded && t.aside.isSome && modeGuard c.mode > 3

/-- The lanes of a cause that bytes read at issue raise: against the instruction the running mask, and at its access those that pass
the guard, where one does (R423). -/
def Ctx.extraLanes (c : Ctx) (t : Team) (live : Mask) (ti : TrapInfo) : Mask :=
  if (ti.cause == 0x0A || ti.cause == 0x0C) && live != 0 then live else c.lanes t

/-- The first cause at issue, in the order of R78, with its lanes (R423). -/
def Ctx.issueTrap (c : Ctx) (t : Team) (live : Mask) (guarded : Bool) (x : Srcs) (k : Check) :
    Option (TrapInfo × Mask) :=
  if k.priv then some (privilege, c.lanes t)
  else if k.illegal || !x.ok t || c.badGuard t guarded then some (illegalOperand, c.lanes t)
  else
    match k.unsupported with
    | some i => some ({ trapOf 0x03 with info := BitVec.ofNat 64 i }, c.lanes t)
    | none =>
      match k.extra with
      | some ti => some (ti, c.extraLanes t live ti)
      | none =>
      if modeChk c.mode && c.rp.isNone then
        let seen := live &&& k.only.getD live
        match t.freedRead seen x (if k.ownFreed then none else k.exch) with
        | some (m, i) => some ({ trapOf 0x09 with info := BitVec.ofNat 64 i }, m)
        | none =>
          match t.hazard (fun r => c.reads t seen guarded x k.exch r || k.also.contains r) with
          | some pc => some ({ trapOf 0x08 with info := pc &&& 0xFFFFFFFF#64 }, c.lanes t)
          | none => none
      else none

/-- Raises a cause at issue: every live lane is still to be performed. -/
def State.trapAtIssue (s : State) (c : Ctx) (t : Team) (x : Srcs) (live : Mask) (ti : TrapInfo) (lanes : Mask) : State :=
  s.takeTrap c ti lanes (some (c.capture t s.tick x live)) c.next

/-- Scalar registers that a source names. -/
def Src.sregs : Src → List Nat
  | .s r w => if w then [r, r + 1] else [r]
  | _ => []

/-- Lines that the instruction reads and that are not in the register cache (R53); a replay reads no register (R206). -/
def Ctx.missingLines (c : Ctx) (t : Team) (live : Mask) (guarded : Bool) (x : Srcs) (flags : Bool) (also : List RegRef) : List RegLine :=
  if t.aside.isSome || c.rp.isSome || (t.absent == 0 && t.auxAbsent == 0 && t.fAbsent == 0) then []
  else
    let srcs := [x.a, x.b, x.d]
    let rows := maskRows live
    let ofV := (srcs.flatMap Src.vregs).flatMap fun r => RegLine.freed r :: rows.map fun g => RegLine.vector (32 * r + g)
    let ofS := (srcs.flatMap Src.sregs).map fun r => RegLine.aux (r / 32)
    let ofP := srcs.filterMap fun y => match y with | .p r => if r = 0 then none else some (RegLine.aux (2 + r)) | _ => none
    let guard := if guarded && modeGuard c.mode != 0 then [RegLine.aux (2 + modeGuard c.mode)] else []
    let ofF := if flags then rows.map fun g => RegLine.aux (18 + g / 4) else []
    let others := also.filterMap fun r => match r with | .s i => some (RegLine.aux (i.toNat / 32)) | _ => none
    ((ofV ++ ofS ++ ofP ++ guard ++ ofF ++ others).filter t.isAbsent).eraseDups

/-- The instruction reads one of the n registers from d, of either file, or predicate d, its guard included. -/
def Ctx.readsFrom (c : Ctx) (guarded : Bool) (x : Srcs) (d n : Nat) : Bool :=
  ([x.a, x.b, x.d].any fun y =>
    (y.vregs ++ y.sregs).any (fun r => d ≤ r && r < d + n) || (match y with | .p r => r == d | _ => false)) ||
    (guarded && modeGuard c.mode == d && d != 0)

/-- An instruction that issues behind an unfinished one takes the lowest free entry, with what it captures at issue (R203). -/
def Team.probed (t : Team) (e : ReplayEntry) : Team :=
  match t.freeEntry with
  | some k => { t with rq := vput t.rq k e, run := .ready }
  | none => { t with run := .ready }

/-- Runs f unless a line that the instruction reads is absent, or a cause at issue applies; f is given the live lanes. A team whose
next instruction is probed captures it and performs nothing. -/
def checked (guarded : Bool) (x : Srcs) (k : Check) (f : Ctx → Team → Mask → State → State) : Ctx → Team → State → State :=
  fun c t s =>
    let live := if guarded then c.live t s.tick else c.lanes t
    let gone := c.missingLines t (live &&& k.only.getD live) guarded x k.flags k.also
    if !gone.isEmpty then s.modTeam c.uid fun u => { u with run := .missing gone }
    else
    match c.issueTrap t live guarded x k with
    | some (ti, lanes) => s.trapAtIssue c t x live ti lanes
    | none =>
      match t.run with
      | .probing d n =>
        if c.readsFrom guarded x d n then s else s.modTeam c.uid fun u => u.probed (c.capture t s.tick x live)
      | _ => f c t live s

/-! ### Last use (R57) -/

/-- Registers whose entries an executing lane frees. -/
def freesOf (m : Mods) (x : Srcs) : List Nat :=
  (if m.lua then x.a.vregs else []) ++ (if m.lub then x.b.vregs else [])

def Thread.freeAll (th : Thread) (l : List Nat) : Thread := l.foldl (fun th r => th.free r) th

/-- Marks the freed-map lines of freed registers dirty (R62). -/
def Team.markFreed (t : Team) (l : List Nat) : Team :=
  if t.aside.isSome then t
  else
    { t with fDirty := l.foldl (fun d r => d ||| (1#64 <<< r)) t.fDirty, fAbsent := l.foldl (fun d r => d &&& ~~~(1#64 <<< r)) t.fAbsent }

/-- The lanes of m free their entries of marked sources. -/
def Team.freeLanes (t : Team) (m : Mask) (l : List Nat) : Team :=
  match l with
  | [] => t
  | _ => if m = 0 then t else (t.modLanes m fun th => th.freeAll l).markFreed l

/-! ### Destinations -/

/-- Writes a scalar register and ends its older windows. -/
def Team.putS (t : Team) (i : Nat) (x : Word) : Team :=
  let t1 := t.writeS i x
  match t1.recent with
  | [] => t1
  | rs => { t1 with recent := dropRefs rs (refS i) }

def Team.putSP (t : Team) (i : Nat) (x : Double) : Team := (t.putS i (x.setWidth 32)).putS (i + 1) (x.extractLsb' 32 32)

/-- Older windows of registers that a later instruction has written end (R91). -/
def Team.closeWindows (t : Team) (l : List RegRef) : Team :=
  match t.recent with
  | [] => t
  | rs => { t with recent := l.foldl dropRefs rs }

/-- Where a per-lane result goes. -/
inductive Dst where
  | none
  | v (r : Nat) (w : Bool)
  | p (r : Nat)
  deriving DecidableEq, Repr

def Dst.ok (t : Team) : Dst → Bool
  | .none => true
  | .v r w => if w then t.hasVP r else t.hasV r
  | .p r => t.hasP r

/-- The 32-bit registers a destination names in home lane h. -/
def Dst.refs (d : Dst) (h : Nat) : List RegRef :=
  match d with
  | .none => []
  | .v r w => if w then [refV h r, refV h (r + 1)] else [refV h r]
  | .p r => if r = 0 then [] else [refP h r]

def Thread.writeDst (th : Thread) (d : Dst) (x : Double) : Thread :=
  match d with
  | .none => th
  | .v r w =>
    let th := th.writeV r (x.setWidth 32)
    if w then th.writeV (r + 1) (x.extractLsb' 32 32) else th
  | .p r => th.writeP r (x.getLsbD 0)

/-- Dirty bits of a destination in row g (R62). -/
def Team.markDst (t : Team) (d : Dst) (g : Nat) : Team :=
  match d with
  | .none => t
  | .v r w => let t := t.markV r g; if w then t.markV (r + 1) g else t
  | .p r => t.markP r

/-- The pattern a destination takes in a lane that is poisoned (R113). -/
def Dst.poison (d : Dst) (fmt : Nat) : Double :=
  match d with
  | .none => 0
  | .v _ w => Machine.poison fmt w
  | .p _ => 0

/-! ### Consumption of uncorrectable registers (R209) -/

/-- Operand k of the thread at position p is uncorrectable: in a replay, as it was captured, unless a handler has rewritten it
(R206, R211). -/
def Ctx.badOperand (c : Ctx) (t : Team) (x : Srcs) (k p : Nat) : Bool :=
  match c.rp with
  | some r => r.entry.bad.contains (1024 * k + p)
  | none => (x.get k).badAt c.soft t p

/-- Live lanes that read an uncorrectable register word: their own, through an exchange that of another position, operand a, or their
guard. -/
def Ctx.badLanes (c : Ctx) (t : Team) (live : Mask) (x : Srcs) (exch : Option (List (Nat × Nat))) : Mask :=
  if c.soft.isEmpty && c.rp.all (fun r => r.entry.bad.isEmpty) then 0
  else
    filterMask live fun p =>
      (match exch with
        | none => c.badOperand t x 0 p
        | some prs => prs.any fun y => y.1 == p && c.badOperand t x 0 y.2) ||
      c.badOperand t x 1 p || c.badOperand t x 2 p ||
      (c.rp.isNone && modeGuard c.mode != 0 && Src.badAt c.soft t (.p (modeGuard c.mode)) p)

/-- PAGE_FAULT of a consumption under the strict policy, at an address where the instruction forms one (R200, R211). -/
def consumedTrap (va : Double) : TrapInfo := { trapOf 0x0B with vaddr := va, info := 0x10000#64 }

def State.isStrict (s : State) (t : Team) : Bool := (s.gridOf t).any Grid.strict

/-- Adds n consumptions to the device counter. -/
def State.countConsumed (s : State) (n : Nat) : State := (List.range n).foldl (fun s _ => s.count 2) s

/-- What an instruction reads of a log region: byte offsets, from CVCAP and the lane's choice-vector state (R238). -/
abbrev LogReads := Nat → ChoiceState → List Nat

/-- The thread reads an uncorrectable sector of its log region (R238). -/
def State.badLog (s : State) (p : Process) (cvcap : Nat) (reads : LogReads) (th : Thread) : Bool :=
  (reads cvcap th.cv).any fun o => match s.engineAddr p .load (th.cv.loga.toNat + o) with
    | .ok pa => s.badSector pa
    | .error _ => false

def State.badLogs (s : State) (t : Team) (reads : LogReads) (m : Mask) : Mask :=
  if s.poison.isEmpty then 0
  else
    match s.procOf t, s.gridOf t with
    | some p, some g => filterMask m fun q => s.badLog p g.cvcap reads (t.thread (t.home q))
    | _, _ => 0

/-- Lanes `bad` of a pass consume: they die and their destination is poisoned (R209), or the instruction raises
PAGE_FAULT with INFO [16] under the strict policy (R211). It answers the lanes that go on, or none after a trap; `rest` are the
lanes of later passes, and `va` is the address that a lane's access forms. -/
def State.consumeMask (s : State) (c : Ctx) (t : Team) (live : Mask) (x : Srcs) (d : Dst) (rest bad : Mask)
    (va : Nat → Double := fun _ => 0) : State × Option (Team × Mask) :=
    if bad = 0 then (s, some (t, live))
    else
      if s.isStrict t then
        (s.takeTrap c (consumedTrap (va ((lowestLane bad).getD 0))) bad (some (c.capture t s.tick x (live ||| rest))) c.next, none)
      else
        let s := s.countConsumed (maskLanes bad).length
        let w := (maskRows bad).foldl (fun (u : Team) g => u.markDst d g)
          (t.modLanes bad fun th => th.writeDst d (d.poison (modeType c.mode)))
        let s := (s.setTeam w).retire c.uid bad .dead
        (s, some ((s.team? c.uid).getD w, maskMinus live bad))

/-- Lanes that read an uncorrectable register consume it. -/
def State.consumeRegs (s : State) (c : Ctx) (t : Team) (live : Mask) (x : Srcs) (d : Dst) (rest : Mask := 0)
    (va : Nat → Double := fun _ => 0) : State × Option (Team × Mask) :=
  s.consumeMask c t live x d rest (c.badLanes t live x none) va

end Sys2Proof.Machine
end

