-- ==== Sys2Proof/Machine/Flags.lean ====
section
/-! DEFINITION. Per-lane results with their flags (spec/05 R101 to R120), and the passes of an instruction of classes 1 to 4:
helper lanes (R38), ARITH_TRAP (R117), last use, write-back and the windows of fixed latency (R24, R91, R316). -/

namespace Sys2Proof.Machine

open Sys2Proof

/-- What a lane's execution gives: its result, the flags it would set, and its choice vector after any draws. -/
structure LaneOut where
  val : Double
  flags : Byte
  cv : Option ChoiceState
  /-- flags it clears (FXC) -/
  clear : Byte := 0
  deriving DecidableEq, Repr

def LaneOut.of (v : Double) : LaneOut := { val := v, flags := 0, cv := none }
def LaneOut.word (v : Word) : LaneOut := { val := v.setWidth 64, flags := 0, cv := none }
def LaneOut.nat (v : Nat) : LaneOut := { val := BitVec.ofNat 64 v, flags := 0, cv := none }
def LaneOut.bool (b : Bool) : LaneOut := { val := if b then 1 else 0, flags := 0, cv := none }
def LaneOut.res (r : FRes) : LaneOut := { val := BitVec.ofNat 64 r.bits, flags := r.flags, cv := none }

/-- What a pass gives each of its lanes to compute from. -/
structure PassIn where
  c : Ctx
  t : Team
  row : Nat
  /-- live lanes of the row -/
  live : Mask
  /-- live lanes and helper lanes of the row -/
  exec : Mask
  /-- operand k at position p -/
  rd : Nat → Nat → Double

/-- The thread at position p. -/
def PassIn.th (x : PassIn) (p : Nat) : Thread := x.t.thread (x.t.home p)

def PassIn.helper (x : PassIn) (p : Nat) : Bool := !maskHas x.live p

/-- An instruction of classes 1 to 4, whatever its lanes compute. -/
structure Alu where
  m : Mods
  x : Srcs
  dst : Dst
  /-- its latency when it is fixed (R90) -/
  lat : Option Nat
  check : Check
  /-- the format whose poison pattern a trapping helper lane writes (R113) -/
  fmt : Nat
  f : PassIn → Nat → LaneOut
  /-- positions whose lane receives the destination -/
  writes : Nat → Bool := fun _ => true
  /-- executing lanes whose destination keeps its value all the same -/
  keeps : PassIn → Nat → Bool := fun _ _ => false
  /-- whether helper lanes execute it (R38) -/
  helps : Bool := true
  /-- what it reads of the lane's log region (R238) -/
  logReads : Option LogReads := none
  /-- the poison pattern of the destination in the lane at a position (R113) -/
  pois : Nat → Double := fun _ => dst.poison fmt

/-- Rows of a mask in which a pass issues. -/
def passRows (m : Mask) : List Nat := maskRows m

/-- Write-back of one pass. -/
def Team.writePass (t : Team) (al : Alu) (row : Nat) (live exec : Mask) (out : Nat → LaneOut) (keeps : Nat → Bool) (traps : Byte) : Team :=
  let frees := freesOf al.m al.x
  let ths := t.threads.map fun th =>
    if maskHas exec th.pos then
      let o := out th.pos
      let th1 := th.freeAll frees
      if maskHas live th.pos then
        let th2 := if al.writes th.pos && !keeps th.pos then th1.writeDst al.dst o.val else th1
        { th2 with flags := (th2.flags &&& ~~~o.clear) ||| o.flags, cv := o.cv.getD th2.cv }
      else if al.writes th.pos && !keeps th.pos then
        th1.writeDst al.dst (if o.flags &&& traps = 0 then o.val else al.pois th.pos)
      else th1
    else th
  let anyFlag := (rowLanes live row).any fun p => (out p).flags != 0 || (out p).clear != 0
  let t1 := { t with threads := ths }
  if exec = 0 then t1
  else
    let t2 := (t1.markFreed frees).markDst al.dst row
    if anyFlag then t2.markF row else t2

/-- Lanes of a pass that raise an enabled flag, and the OR of those flags (R117). -/
def trapLanes (live : Mask) (row : Nat) (out : Nat → LaneOut) (traps : Byte) : Mask × Byte :=
  (rowLanes live row).foldl (fun (m, b) p =>
    let f := (out p).flags &&& traps
    if f = 0 then (m, b) else (m ||| maskOne p, b ||| f)) (0, 0)

/-- A finished list of results of a pass, so that each lane is computed once. -/
def passTable (lanes : List Nat) (f : Nat → LaneOut) : List (Nat × LaneOut) := lanes.map fun p => (p, f p)

def passGet (l : List (Nat × LaneOut)) (p : Nat) : LaneOut :=
  match l with
  | [] => LaneOut.of 0
  | (q, o) :: rest => if q = p then o else passGet rest p

/-- What the passes find uncorrectable beside register words: lanes whose log regions are; and whether the policy is strict (R209,
R211). -/
structure Consume where
  logs : Mask
  strict : Bool

/-- Lanes of a pass die as they consume: their destinations take the poison pattern (R40, R209). -/
def Team.killPass (t : Team) (al : Alu) (row : Nat) (bad : Mask) : Team :=
  if bad = 0 then t
  else
    ((t.modLanes bad fun th =>
        { (if al.writes th.pos then th.writeDst al.dst (al.pois th.pos) else th) with life := .dead }).markDst al.dst row).dropLanes bad

/-- A trap that stops the passes: its cause, its lanes, and the lanes still to be performed. -/
abbrev PassTrap := TrapInfo × Mask × Mask

/-- Runs the passes in ascending row order. It answers the team, and the trap that struck: a consumption under the strict policy, or
ARITH_TRAP (R117). -/
def Team.runPasses (al : Alu) (c : Ctx) (tick : Nat) (k : Consume) (live helpers : Mask) : List Nat → Team → Team × Option PassTrap
  | [], t => (t, none)
  | g :: rest, t =>
    let lv0 := onlyRow live g
    let bad := c.badLanes t lv0 al.x al.check.exch ||| (k.logs &&& lv0)
    let t1 := t.passed 1
    if k.strict && bad != 0 then (t1, some (consumedTrap 0, bad, rest.foldl (fun k r => k ||| onlyRow live r) lv0))
    else
    let t := t.killPass al g bad
    let lv := maskMinus lv0 bad
    let ex := lv ||| onlyRow helpers g
    let pin : PassIn := { c := c, t := t, row := g, live := lv, exec := ex, rd := fun k p => c.read t tick al.x k p }
    let table := passTable (rowLanes ex g) (al.f pin)
    let out := passGet table
    let traps := modeTraps c.mode
    let (m, b) := trapLanes lv g out traps
    let t1 := t.passed 1
    if m = 0 then Team.runPasses al c tick k live helpers rest (t1.writePass al g lv ex out (al.keeps pin) traps)
    else (t1, some ({ trapOf 0x06 with info := b.setWidth 64 }, m, rest.foldl (fun k r => k ||| onlyRow live r) lv))

/-- The window that a fixed-latency instruction leaves open (R91). -/
def Team.openWindow (t0 t : Team) (al : Alu) (c : Ctx) (exec : Mask) : Team :=
  let lanes := (maskLanes exec).filter al.writes
  let t1 := match t.recent with
    | [] => t
    | rs => { t with recent := lanes.foldl (fun rs p => (al.dst.refs (t.home p)).foldl dropRefs rs) rs }
  match al.lat with
  | none => t1
  | some l =>
    if c.rp.isSome || l ≤ 1 + stallOf c.word then t1
    else
      let olds := lanes.flatMap fun p => (al.dst.refs (t.home p)).map fun r => (r, t0.readRef r)
      if olds.isEmpty then t1 else { t1 with recent := { dist := 0, lat := l, pc := c.pc, olds := olds } :: t1.recent }

/-- What the deaths of lanes between t0 and t1 do beyond the team: each is counted, and a proposal's lanes are settled (R209, R253). -/
def State.noteDeaths (s : State) (c : Ctx) (t0 t1 : Team) : State :=
  if s.soft.isEmpty && s.poison.isEmpty && c.rp.all (fun r => r.entry.bad.isEmpty) then s
  else
    let gone := (List.range t0.threads.length).filter fun h => (t1.thread h).life == .dead && (t0.thread h).life != .dead
    if gone.isEmpty then s
    else
      let s := s.countConsumed gone.length
      if t0.aside.isSome then s else s.settleLanes t0 gone false

/-- The body of an instruction of classes 1 to 4 once its checks at issue have passed. -/
def Alu.body (al : Alu) (c : Ctx) (t0 : Team) (live0 : Mask) (s0 : State) : State :=
  let helpers := if c.rp.isSome || !al.helps then 0 else filterMask t0.helpers (c.guard t0 s0.tick)
  let rows := passRows (c.lanes t0 ||| live0)
  let (t1, trap) := Team.runPasses al c s0.tick { logs := (al.logReads.map fun r => s0.badLogs t0 r live0).getD 0, strict := s0.isStrict t0 } live0 helpers rows t0
  let s := s0.noteDeaths c t0 t1
  match trap with
  | none => ((s.setTeam (t0.openWindow t1 al c (live0 ||| helpers))).scrubRegs t1
      (((maskLanes live0).filter al.writes).flatMap fun p => al.dst.refs (t1.home p))).finish c c.next
  | some (ti, lanes, todo) => (s.setTeam t1).takeTrap c ti lanes (some (c.capture t1 s0.tick al.x todo)) c.next

/-- Executes an instruction of classes 1 to 4; `mk` gives its form for the team and mode that issue it. -/
def execAlu (i : Instr) (s : State) (mk : Ctx → Team → Nat → Alu) : Out :=
  issue i s fun c t s =>
    let al := mk c t s.tick
    checked true al.x { al.check with illegal := al.check.illegal || !al.dst.ok t } (fun c t live s => al.body c t live s) c t s

/-! ### Typed results (R101 to R105, R118) -/

/-- The rounding environment of a typed instruction; STO reads as RNE everywhere but in CVT, QNT and MACR (R111). -/
def envOf (mode : Word) : FEnv := { rnd := Rnd.ofMode (modeRnd mode), nfz := modeNfz mode }

/-- Signed integer types. -/
def signedType (ty : Nat) : Bool := ty == 0 || ty == 2

/-- The integer that a pattern of an integer type denotes. -/
def intOf (ty : Nat) (x : Double) : Int :=
  match ty with
  | 0 => (x.setWidth 32 : Word).toInt
  | 1 => ((x.setWidth 32 : Word).toNat : Int)
  | 2 => x.toInt
  | _ => (x.toNat : Int)

/-- The range of an integer type. -/
def intRange (ty : Nat) : Int × Int :=
  match ty with
  | 0 => (-(2 ^ 31), 2 ^ 31 - 1)
  | 1 => (0, 2 ^ 32 - 1)
  | 2 => (-(2 ^ 63), 2 ^ 63 - 1)
  | _ => (0, 2 ^ 64 - 1)

/-- The exact result v in an integer type: its low bits, or under SAT the nearest bound with the SAT flag (R101). -/
def intResult (ty : Nat) (sat : Bool) (v : Int) : LaneOut :=
  let (lo, hi) := intRange ty
  let w := widthOf ty
  if sat && v < lo then { val := BitVec.ofNat 64 (lowBits lo w), flags := SATF, cv := none }
  else if sat && v > hi then { val := BitVec.ofNat 64 (lowBits hi w), flags := SATF, cv := none }
  else LaneOut.nat (lowBits v w)

/-- The format of a floating-point type's elements. -/
def fmtOf (ty : Nat) : Fmt :=
  match ty with
  | 5 => f64
  | 6 => f16
  | 7 => bf16
  | _ => f32

/-- Both elements of a packed type, or the one element of the others (R104). -/
def elemwise (ty : Nat) (a b d : Double) (f : Nat → Nat → Nat → FRes) : LaneOut :=
  if ty = 6 || ty = 7 then
    let e (x : Double) (k : Nat) : Nat := x.toNat / 2 ^ (16 * k) % 2 ^ 16
    let r0 := f (e a 0) (e b 0) (e d 0)
    let r1 := f (e a 1) (e b 1) (e d 1)
    { val := BitVec.ofNat 64 (r0.bits % 2 ^ 16 + r1.bits % 2 ^ 16 * 2 ^ 16), flags := r0.flags ||| r1.flags, cv := none }
  else LaneOut.res (f a.toNat b.toNat d.toNat)

def floatType (ty : Nat) : Bool := 4 ≤ ty

/-- ADD of TYPE (R319). -/
def typedAdd (mode : Word) (a b : Double) : LaneOut :=
  let ty := modeType mode
  if floatType ty then elemwise ty a b 0 fun x y _ => fadd (fmtOf ty) (envOf mode) x y
  else intResult ty (modeSat mode) (intOf ty a + intOf ty b)

/-- SUB of TYPE (R414). -/
def typedSub (mode : Word) (a b : Double) : LaneOut :=
  let ty := modeType mode
  if floatType ty then elemwise ty a b 0 fun x y _ => fsub (fmtOf ty) (envOf mode) x y
  else intResult ty (modeSat mode) (intOf ty a - intOf ty b)

/-- A typed instruction's pairs: W = 64 (R79). -/
def typeWide (mode : Word) : Bool := wide (modeType mode)

/-- UNSUPPORTED_TYPE with INFO TYPE when the test fails (R118, R200). -/
def needType (mode : Word) (ok : Nat → Bool) : Check :=
  { priv := false, illegal := false, unsupported := if ok (modeType mode) then none else some (modeType mode) }

/-- Latency 4, or 6 with a 64-bit side (R90). -/
def lat46 (w : Bool) : Option Nat := some (if w then 6 else 4)

end Sys2Proof.Machine
end

