-- ==== Sys2Proof/Machine/Access.lean ====
section
/-! DEFINITION. The passes of memory instructions (spec/06 R126, R127, R140, R141, R144, R156; spec/09 R208 to R211): addresses,
checks in their order, translation, uncorrectable data, deferral, and the outward results of sampled blocks (R179). -/

namespace Sys2Proof.Machine

open Sys2Proof

/-- The accesses of a memory instruction. -/
structure Access where
  space : Space
  x : Srcs
  /-- ALIGNMENT is checked (R126) -/
  aligned : Bool
  /-- the spill stack of its own team may be reached (R129) -/
  spill : Bool
  kind : AccKind
  /-- vector registers whose entries a completing lane frees (R57) -/
  frees : List Nat
  /-- address and size of each access of the lane at a position -/
  chunks : Team → Nat → List (Double × Nat)

/-- The address of R126: the base operand plus the offset, 64 bits in device memory and 32 bits elsewhere. -/
def Ctx.address (c : Ctx) (tick : Nat) (x : Srcs) (space : Space) (off : Double) (t : Team) (p : Nat) : Double :=
  let ea := c.read t tick x 0 p + off
  match space with
  | .device => ea
  | _ => (ea.setWidth 32).setWidth 64

/-- Address of the lane's first access, as VADDR names it. -/
def Access.ea (a : Access) (t : Team) (p : Nat) : Double := ((a.chunks t p).headD (0, 1)).1

/-- ACCESS of R142. -/
def AccKind.access (k : AccKind) : Nat := k.code

def AccKind.need : AccKind → Need
  | .load => .load
  | _ => .store

/-- How a chunk's address stands against its space. -/
def State.resolveChunk (s : State) (t : Team) (a : Access) (ch : Double × Nat) : Resolved :=
  let own : Option Resolved :=
    if a.spill then
      match (s.gridOf t).bind fun g => s.findImage g.pid ch.1.toNat with
      | some (.spill u, off) => if u = t.uid then some (.at (.image (.spill u) off)) else none
      | _ => none
    else none
  own.getD (s.resolve t a.space ch.1 (if a.aligned then ch.2 else 1) (a.kind != .load))

def Resolved.misses : Resolved → Bool
  | .misaligned => true
  | _ => false

def Resolved.denies : Resolved → Bool
  | .denied _ => true
  | _ => false

/-- INFO of PROTECTION for a lane. -/
def deniedCode (rs : List Resolved) : Nat :=
  match rs.find? Resolved.denies with
  | some (.denied sp) => spaceCode sp
  | _ => 0

/-- ALIGNMENT and then PROTECTION over the lanes of a pass (R127): the cause with its lanes. -/
def State.passCheck (s : State) (t : Team) (a : Access) (lanes : List Nat) : Option (TrapInfo × Mask) :=
  let rs := lanes.map fun p => (p, (a.chunks t p).map (s.resolveChunk t a))
  let mis := rs.filter fun r => r.2.any Resolved.misses
  let den := rs.filter fun r => r.2.any Resolved.denies
  match mis, den with
  | r :: _, _ => some ({ trapOf 0x0A with vaddr := a.ea t r.1 }, maskOf (mis.map Prod.fst))
  | [], r :: _ => some ({ trapOf 0x0C with vaddr := a.ea t r.1, info := BitVec.ofNat 64 (deniedCode r.2) }, maskOf (den.map Prod.fst))
  | [], [] => none

/-- Where an access stands once translated: each chunk's target, address and size. -/
abbrev Placed := List (Target × Double × Nat)

/-- Translates a lane's chunks, or answers the fault with its address (R140). -/
def State.place (s : State) (t : Team) (p : Process) (a : Access) : List (Double × Nat) → Except (Double × Nat × Nat) Placed × State
  | [] => (.ok [], s)
  | ch :: rest =>
    match s.resolveChunk t a ch with
    | .at tg =>
      match State.place s t p a rest with
      | (.ok l, s) => (.ok ((tg, ch) :: l), s)
      | e => e
    | .virt va =>
      match s.translate t.core p a.kind.need va with
      | (.error (cause, level), s) => (.error (ch.1, cause, level), s)
      | (.ok pa, s) =>
        match State.place s t p a rest with
        | (.ok l, s) => (.ok ((Target.phys pa, ch) :: l), s)
        | e => e
    | _ => (.ok [], s)

/-- Translates every lane of a pass: the lanes placed, and the lanes that fault. -/
def State.placeLanes (s : State) (t : Team) (a : Access) (lanes : List Nat) :
    List (Nat × Placed) × List (Nat × Double × Nat × Nat) × State :=
  match s.procOf t with
  | none => ([], [], s)
  | some pr =>
    lanes.foldl (fun (ok, bad, s) p =>
      match s.place t pr a (a.chunks t p) with
      | (.ok l, s) => (ok ++ [(p, l)], bad, s)
      | (.error (va, cause, level), s) => (ok, bad ++ [(p, va, cause, level)], s)) ([], [], s)

/-- A placed lane's data is uncorrectable. -/
def State.badLane (s : State) (core : Nat) (l : Placed) : Bool := l.any fun ch => s.uncorrectableAt core ch.1 ch.2.2

/-- Lanes that consume uncorrectable memory die: each is counted, and its destination takes the poison pattern of TYPE
(R209, R113). -/
def State.killLanes (s : State) (c : Ctx) (bad : List (Nat × Placed)) (d : Dst) : State :=
  match bad with
  | [] => s
  | _ =>
    let m := maskOf (bad.map Prod.fst)
    let s := bad.foldl (fun s x => (x.2.headD (.phys 0, 0, 0)).1 |> s.consumed) s
    let s := s.modTeam c.uid fun t => (maskRows m).foldl (fun (u : Team) g => u.markDst d g)
      (t.modLanes m fun th => th.writeDst d (d.poison (modeType c.mode)))
    s.retire c.uid m .dead

/-- How a pass ends: the instruction goes on with the next row, or the state already says what follows. -/
inductive PassEnd where
  | go (s : State) (mine : Option Nat)
  | stop (s : State)

/-- What one pass is given: the team as it stands, its row, its live lanes, those of later rows, the replay-queue slot
that keeps lanes of this issue, and the sectors of memory from which its lanes take bytes. -/
structure PassArgs where
  c : Ctx
  t : Team
  row : Nat
  live : Mask
  rest : Mask
  mine : Option Nat
  taken : List Nat := []

/-- Runs the passes of a memory instruction in ascending rows; each consumes its own registers (R209, R211). -/
def runPasses (c : Ctx) (live : Mask) (x : Srcs) (d : Dst) (va : Team → Nat → Double) (f : PassArgs → State → PassEnd) :
    List Nat → Option Nat → State → PassEnd
  | [], mine, s => .go s mine
  | g :: rows, mine, s =>
    let s := s.modTeam c.uid fun t => t.passed 1
    match s.team? c.uid with
    | none => .stop s
    | some t =>
      let rest := rows.foldl (fun m r => m ||| onlyRow live r) 0
      match s.consumeRegs c t (onlyRow live g) x d rest (va t) with
      | (s, none) => .stop s
      | (s, some (t, lv)) =>
        if lv = 0 then runPasses c live x d va f rows mine s
        else
          match f { c := c, t := t, row := g, live := lv, rest := rest, mine := mine } s with
          | .go s mine => runPasses c live x d va f rows mine s
          | .stop s => .stop s

/-- What the instruction still has to perform when a pass stops it. -/
def PassArgs.keep (pa : PassArgs) (s : State) (a : Access) (extra : Mask) : ReplayEntry :=
  pa.c.capture pa.t s.tick a.x (extra ||| pa.rest)

/-- Sectors of memory that placed lanes reach. -/
def State.sectorsOf (s : State) (l : List (Nat × Placed)) : List Nat :=
  l.flatMap fun x => x.2.filterMap fun ch => (s.cachePa ch.1).map (· / 32)

/-- The pass of a load or atomic up to its performing (R127, R209 to R211): checks, translation, deaths, deferral. `perform`
is given the lanes that complete. -/
def Access.pass (a : Access) (d : Dst) (consumes : Bool) (tick : Nat) (perform : PassArgs → List (Nat × Placed) → State → State)
    (pa : PassArgs) (s : State) : PassEnd :=
  let c := pa.c
  let lanes := rowLanes pa.live pa.row
  let keepAll := c.capture pa.t tick a.x (pa.live ||| pa.rest)
  match s.passCheck pa.t a lanes with
  | some (ti, m) => .stop (s.takeTrap c ti m (some keepAll) c.next)
  | none =>
    let (ok, faults, s) := s.placeLanes pa.t a lanes
    let bad := if consumes then ok.filter fun x => s.badLane pa.t.core x.2 else []
    let good := ok.filter fun x => !bad.any fun y => y.1 == x.1
    if !bad.isEmpty && s.isStrict pa.t then
      .stop (s.takeTrap c { trapOf 0x0B with vaddr := a.ea pa.t (bad.headD (0, [])).1, info := 0x10000#64 }
        (maskOf (bad.map Prod.fst)) (some keepAll) c.next)
    else
      let s := s.killLanes c bad d
      let stay := maskMinus pa.live (maskOf (bad.map Prod.fst))
      let perform (s : State) : State :=
        (s.modTeam c.uid fun t => t.freeLanes (maskOf (good.map Prod.fst)) a.frees) |> perform { pa with taken := s.sectorsOf ok } good |>
          State.ticked
      match faults with
      | [] => .go (perform s) pa.mine
      | _ =>
        match s.defer c pa.row a.kind.access (groupPages faults) (c.capture pa.t tick a.x stay) pa.mine with
        | (.full, s) => .stop (s.waitQueue c (c.capture pa.t tick a.x (stay ||| pa.rest)))
        | (.split k, s) => .go (perform s) (some k)
        | (.whole tags, s) =>
          .stop ((perform s).waitWhole c tags
            (c.capture pa.t tick a.x (maskOf (faults.map Prod.fst) ||| pa.rest)))

/-- The denied entry of a replay whose lanes raise PAGE_FAULT: its lanes and index (R143). -/
def Ctx.deniedLanes (c : Ctx) (live : Mask) : Option (Mask × BitVec 12) :=
  match c.rp with
  | none => none
  | some r =>
    (r.denied.filter fun d => (d.1 &&& live) != 0).foldl (fun (best : Option (Mask × BitVec 12)) d =>
      match best with
      | none => some (d.1 &&& live, d.2)
      | some b => if (lowestLane (d.1 &&& live)).getD 1024 < (lowestLane b.1).getD 1024 then some (d.1 &&& live, d.2) else some b) none

/-- Raises PAGE_FAULT at a replay whose fault was denied (R143, R200), or goes on. -/
def State.denied (s : State) (c : Ctx) (t : Team) (x : Srcs) (live : Mask) (va : Nat → Double) (f : State → State) : State :=
  match c.deniedLanes live with
  | some (m, ix) =>
    s.takeTrap c { trapOf 0x0B with vaddr := va ((lowestLane m).getD 0), info := ix.setWidth 64 } m
      (some (c.capture t s.tick x live)) c.next
  | none => f s

/-- The body of a memory instruction with lanes: denied lanes, passes, and its completion as the instruction `done`. -/
def Access.bodyAs (a : Access) (d : Dst) (c done : Ctx) (pass : Nat → PassArgs → State → PassEnd) (t : Team)
    (live : Mask) (s : State) : State :=
  s.denied c t a.x live (a.ea t) fun s =>
    match runPasses c live a.x d a.ea (pass s.tick) (maskRows (c.lanes t ||| live)) none s with
    | .stop s => s
    | .go s _ => s.finish done c.next

def Access.body (a : Access) (d : Dst) (c : Ctx) (pass : Nat → PassArgs → State → PassEnd) (t : Team)
    (live : Mask) (s : State) : State :=
  a.bodyAs d c c pass t live s

/-- What a hit on a watchpoint would record of a lane's access (R224). -/
def Ctx.hitBy (c : Ctx) (t : Team) (p : Nat) : HitBy :=
  { team := c.uid, pc := c.pc, word := c.word, lit := c.lit, homes := maskOne (t.home p), after := t.insn + 1 }

/-- The registers that a destination's value goes to. -/
def Dst.writes (d : Dst) (h : Nat) (v : Double) : List (RegRef × Word) :=
  match d with
  | .none => []
  | .v r w => if w then [(refV h r, v.setWidth 32), (refV h (r + 1), v.extractLsb' 32 32)] else [(refV h r, v.setWidth 32)]
  | .p r => [(refP h r, v.setWidth 32)]

/-! ### Sampled blocks (R178, R179) -/

/-- The team of the original that a shadow's team matches. -/
def State.originalOf (s : State) (t : Team) : Option Team :=
  (s.blockOf t).bind fun b => b.shadowOf.bind fun o => s.teams.find? fun u => u.blk == o && u.isGrid && u.tix == t.tix

/-- The results that the original's matching instruction returned to each lane, once all are known. -/
def State.outward (s : State) (t : Team) (lanes : List Nat) : Option (List (Nat × List Word)) :=
  match s.originalOf t with
  | none => none
  | some o =>
    lanes.foldr (fun p l =>
      let h := t.home p
      match (o.thread h).outLog[(t.thread h).outLog.length]?, l with
      | some ws, some l => some ((p, ws) :: l)
      | _, _ => none) (some [])

def Thread.logged (rs : List (Nat × List Word)) (th : Thread) : Thread :=
  match rs.lookup th.pos with
  | some ws => { th with outLog := th.outLog ++ [ws] }
  | none => th

/-- Records an outward result in each lane of a sampled block or a shadow. -/
def State.logOut (s : State) (uid : Nat) (rs : List (Nat × List Word)) : State :=
  match s.team? uid with
  | none => s
  | some t =>
    match s.blockOf t with
    | none => s
    | some b =>
      if b.sampled || b.shadowOf.isSome then
        s.modTeam uid fun t => { t with threads := t.threads.map (Thread.logged rs) }
      else s

/-- The same for a team that may be in a handler context, of its own instructions. -/
def State.logReal (s : State) (uid : Nat) (rs : List (Nat × List Word)) : State :=
  if ((s.team? uid).bind s.blockOf).any fun b => b.sampled || b.shadowOf.isSome then
    s.modTeam uid fun t => t.putReal { t.real with threads := t.real.threads.map (Thread.logged rs) }
  else s

/-- A word that a sampled block's instruction of class B writes: its bytes enter the digest, and are noted for the shadow's instruction,
which writes none (R179, R180). -/
def State.digestWord (s : State) (t : Team) (live : Mask) (va : Double) (v : Nat) : State :=
  if (s.blockOf t).any fun b => b.sampled then
    let h := t.home ((lowestLane live).getD 0)
    let bs := leBytes 8 v
    (s.digestBytes t va bs).modTeam t.uid fun u => { u with outSums := (h, (t.thread h).outLog.length, hashBytes va bs) :: u.outSums }
  else s

/-- What the original's matching instructions of a shadow's lanes have added to the digest in words. -/
def State.outSum (s : State) (t : Team) (lanes : List Nat) : BitVec 128 :=
  match s.originalOf t with
  | none => 0
  | some o => (lanes.map t.home).foldl (fun d h =>
      (o.outSums.filter fun x => x.1 == h && x.2.1 == (t.thread h).outLog.length).foldl (fun d x => d + x.2.2) d) 0

/-- A result that a shadow's lanes wait for will never come: the original's team has ended, or its thread has, without the matching
instruction. -/
def State.neverKnown (s : State) (t : Team) (lanes : List Nat) : Bool :=
  match s.originalOf t with
  | none => true
  | some o => o.cause != 0 || lanes.any fun p =>
      let h := t.home p
      (o.thread h).outLog.length ≤ (t.thread h).outLog.length && (o.thread h).life != .live

/-- A shadow's outward instruction takes the original's results; while they are not known it does not issue: the step leaves
s0, the state before it. Where they will never be known the two runs differ, and the shadow's team ends, which counts as a mismatch
(log 70). -/
def State.inShadow (s s0 : State) (t : Team) (live : Mask) (f : List (Nat × List Word) → State → State) : State :=
  match s.outward t (maskLanes live) with
  | none => if s.neverKnown t (maskLanes live) then s0.endTeam t.uid causeFATAL else s0
  | some rs => f rs ((s.logOut t.uid rs).modBlock t.blk fun b => { b with digest := b.digest + s.outSum t (maskLanes live) })

end Sys2Proof.Machine
end

