-- ==== Sys2Proof/Machine/LoadStore.lean ====
section
/-! DEFINITION. Class 5, loads and stores (spec/04 R83, R87; R371 to R373, R392, R408, R411, R412; spec/06 R125 to R132, R155,
R156; spec/07 R163 to R165). -/

namespace Sys2Proof

open Sys2Proof.Machine

/-! ### The LS literal (R87) -/

/-- Bytes that SIZE selects. -/
def LS.bytes (l : LS) : Nat :=
  match l.size.toNat with
  | 0 => 1
  | 1 => 1
  | 2 => 2
  | 3 => 2
  | 4 => 4
  | _ => 8

def LS.pair (l : LS) : Bool := l.size == 5

/-- The fields that any class 5 instruction refuses; HINT is ignored outside device memory. -/
def LS.ok (l : LS) (space : Space := .device) : Bool :=
  l.scope.toNat ≤ 5 && (l.ord || l.scope == 0) && (space != .device || l.hint != 3) && l.size.toNat ≤ 5

/-- A store has no SB or SH. -/
def LS.storeOk (l : LS) (space : Space := .device) : Bool := l.ok space && l.size != 1 && l.size != 3

def LS.off (l : LS) : Double := l.offset.signExtend 64

/-- What SIZE makes of the bytes loaded (R371). -/
def LS.extend (l : LS) (bs : List Byte) : Double :=
  let x := leNat bs
  match l.size.toNat with
  | 1 => (BitVec.ofNat 32 (lowBits (sextInt x 8) 32)).setWidth 64
  | 3 => (BitVec.ofNat 32 (lowBits (sextInt x 16) 32)).setWidth 64
  | _ => BitVec.ofNat 64 x

/-- A scope wider than the space accessed acts as the widest that the space has (R159). -/
def narrowScope (space : Space) (scope : BitVec 3) : Nat :=
  match space with
  | .scratch => min scope.toNat 1
  | .commons => min scope.toNat 3
  | _ => scope.toNat

/-- An acquire load at die scope or wider reads at the home and discards the core's L1 (R165). -/
def LS.atHome (l : LS) (space : Space) : Bool := l.ord && narrowScope space l.scope ≥ 3

/-- A store with ORD is a release: at device scope or wider. -/
def LS.publishes (l : LS) (space : Space) : Bool := l.ord && narrowScope space l.scope ≥ 4

/-- An offset that R129 accepts, and the fields that R87 and R408 refuse. -/
def LS.spillOk (l : LS) : Bool :=
  l.ok && !l.ord && l.scope == 0 && l.offset.toInt ≥ 0 && l.offset.toNat + l.bytes ≤ 1024 && l.offset.toNat % l.bytes == 0

end Sys2Proof

namespace Sys2Proof.Machine

open Sys2Proof

/-! ### Loads -/

/-- Reads the bytes of a placed lane in the order of its chunks. -/
def readPlaced (t : Team) (home stream : Bool) (taken : List Nat) (l : Placed) (s : State) : List Byte × State :=
  l.foldl (fun (bs, s) ch =>
    let (b, s) := s.loadBytes t ch.1 ch.2.2 ch.2.1.toNat home stream taken
    (bs ++ b, s)) ([], s)

/-- Records the watchpoint hits of a lane's access (R224). -/
def State.watchPlaced (s : State) (c : Ctx) (t : Team) (p : Nat) (l : Placed) (k : AccKind) : State :=
  l.foldl (fun s ch => s.checkWatch (c.hitBy t p) ch.1 ch.2.1.toNat ch.2.2 k) s

/-- The chunks of a load that are performed at their homes (R224). -/
def State.homeChunks (s : State) (core : Nat) (home : Bool) (l : Placed) : Placed :=
  l.filter fun ch => s.atHomeSide core ch.1 ch.2.2 home

/-- Performs the load of each lane that completes; the results land later (R90, R371). -/
def performLoad (l : LS) (space : Space) (d : Dst) (pa : PassArgs) (ok : List (Nat × Placed)) (s0 : State) : State :=
  let home := l.atHome space
  let (ws, s) := ok.foldl (fun ((ws, s) : List (RegRef × Word) × State) x =>
    let (bs, s) := readPlaced pa.t home (l.hint == 1) pa.taken x.2 s
    (ws ++ d.writes (pa.t.home x.1) (l.extend bs), s.watchPlaced pa.c pa.t x.1 (s0.homeChunks pa.t.core home x.2) .load)) ([], s0)
  let s := if home && !ok.isEmpty then s.discardL1 pa.t.core else s.trimL1 pa.t.core
  match ws with
  | [] => s
  | _ => s.modTeam pa.c.uid fun t => { t with inflight := t.inflight ++ [{ atomic := false, pc := pa.c.pc, writes := ws }] }

/-- A load of a space with lanes: LD, LDS, LDX. -/
def execLoadLanes (i : Instr) (m : Mods) (d : Reg) (a : Src) (space : Space) (l : LS) (s : State) : Out :=
  issue i s fun c t s =>
    let x : Srcs := { a := a, b := .none, d := .none }
    let dst : Dst := .v d.toNat l.pair
    checked true x (Check.operand (l.ok space && dst.ok t)) (fun c t live s =>
      let tick := s.tick
      let acc : Access :=
        { space := space, x := x, aligned := true, spill := false, kind := .load, frees := freesOf m x,
          chunks := fun t p => [(c.address tick x space l.off t p, l.bytes)] }
      acc.body dst c (fun tick => acc.pass dst true tick (performLoad l space dst)) t live s) c t s

/-- LD with a vector base (R371). -/
def execLdVectorBase (m : Mods) (d a : Reg) (l : LS) (s : State) : Out :=
  execLoadLanes (.ldVectorBase m d a l) m d (.v a.toNat true) .device l s

/-- LD with a scalar base (R371). -/
def execLdScalarBase (m : Mods) (d a : Reg) (l : LS) (s : State) : Out :=
  execLoadLanes (.ldScalarBase m d a l) m d (.s a.toNat true) .device l s

/-- LDS with a vector base (R371). -/
def execLdsVectorBase (m : Mods) (d a : Reg) (l : LS) (s : State) : Out :=
  execLoadLanes (.ldsVectorBase m d a l) m d (.v a.toNat false) .scratch l s

/-- LDS with a scalar base (R371). -/
def execLdsScalarBase (m : Mods) (d a : Reg) (l : LS) (s : State) : Out :=
  execLoadLanes (.ldsScalarBase m d a l) m d (.s a.toNat false) .scratch l s

/-- LDX with a vector base (R371). -/
def execLdxVectorBase (m : Mods) (d a : Reg) (l : LS) (s : State) : Out :=
  execLoadLanes (.ldxVectorBase m d a l) m d (.v a.toNat false) .commons l s

/-- LDX with a scalar base (R371). -/
def execLdxScalarBase (m : Mods) (d a : Reg) (l : LS) (s : State) : Out :=
  execLoadLanes (.ldxScalarBase m d a l) m d (.s a.toNat false) .commons l s

/-! ### One access for the team (R373, R423) -/

/-- How an access made once for the team stands. -/
inductive OnceEnd where
  | done (l : Placed) (s : State)
  | stop (s : State)

/-- Checks and translates one access made once for the team, at the lowest lane of `live`: a trap names those lanes, a fault
defers the whole running path, a denied replay raises PAGE_FAULT (R264, R373, R423). -/
def State.once (s : State) (c : Ctx) (t : Team) (a : Access) (live : Mask) : OnceEnd :=
  let p := (lowestLane live).getD 0
  let keep := c.capture t s.tick a.x live
  match c.deniedLanes (c.lanes t) with
  | some (m, ix) =>
    .stop (s.takeTrap c { trapOf 0x0B with vaddr := a.ea t p, info := ix.setWidth 64 } m (some keep) c.next)
  | none =>
    match s.passCheck t a [p] with
    | some (ti, _) => .stop (s.takeTrap c ti live (some keep) c.next)
    | none =>
      match s.placeLanes t a [p] with
      | (x :: _, _, s) => .done x.2 s
      | ([], f :: _, s) =>
        .stop (s.deferPath c a.kind.access f.2.1 f.2.2.1 f.2.2.2 (some keep))
      | ([], [], s) => .stop s

/-- LDK (R373). -/
def execLdk (m : Mods) (d a : Reg) (l : LS) (s : State) : Out :=
  issue (.ldk m d a l) s fun c t s =>
    let x : Srcs := { a := .s a.toNat true, b := .none, d := .none }
    checked true x (Check.operand (l.ok && (if l.pair then t.hasSP d.toNat else t.hasS d.toNat))) (fun c t live s =>
      if live = 0 then s.finishTeam c id c.next
      else
        let tick := s.tick
        let acc : Access :=
          { space := .device, x := x, aligned := true, spill := false, kind := .load, frees := freesOf m x,
            chunks := fun t p => [(c.address tick x .device l.off t p, l.bytes)] }
        match s.once c t acc live with
        | .stop s => s
        | .done pl s =>
          let land (s : State) (v : Double) : State :=
            s.modTeam c.uid fun t => { t with inflight := t.inflight ++
              [{ atomic := false, pc := c.pc,
                 writes := if l.pair then [(refS d.toNat, v.setWidth 32), (refS (d.toNat + 1), v.extractLsb' 32 32)]
                           else [(refS d.toNat, v.setWidth 32)] }] }
          if s.badLane t.core pl then
            if s.isStrict t then
              s.takeTrap c { trapOf 0x0B with vaddr := acc.ea t ((lowestLane live).getD 0), info := 0x10000#64 } live
                (some (c.capture t tick x live)) c.next
            else (land (s.consumed (pl.headD (.phys 0, 0, 0)).1) (poison 1 l.pair)).finishTeam c id c.next
          else
            let home := l.atHome .device
            let hits := s.homeChunks t.core home pl
            let (bs, s) := readPlaced t home (l.hint == 1) (s.sectorsOf [(0, pl)]) pl s
            let s := s.watchPlaced c t ((lowestLane live).getD 0) hits .load
            let s := if home then s.discardL1 t.core else s.trimL1 t.core
            (land s.ticked (l.extend bs)).finishTeam c id c.next) c t s

/-! ### Bound registers (R155, R156) -/

/-- A value of FORMAT's size against the bounds: in bounds, below LO or NaN, or above HI. -/
inductive InBound where
  | ok
  | low
  | high

def Bound.width (b : Bound) : Nat := if b.format = 3 then 8 else 4

/-- Where a value stands. One that violates both limits, or that meets a limit that is NaN, counts as below LO (DESIGN CHOICE,
log 73). -/
def Bound.judge (b : Bound) (v : Nat) : InBound :=
  let int (signed : Bool) : InBound :=
    let x (w : Nat) : Int := if signed then sextInt w 32 else ((w % 2 ^ 32 : Nat) : Int)
    if x v < x b.lo.toNat then .low else if x v > x b.hi.toNat then .high else .ok
  let flt (k : Fmt) (lo hi : Nat) : InBound :=
    let u := unpack k false v
    let l := unpack k false lo
    let h := unpack k false hi
    if u.isNan || u.lt l then .low else if h.lt u then .high
    else if l.isNan || h.isNan then .low else .ok
  match b.format.toNat with
  | 0 => int true
  | 1 => int false
  | 2 => flt f32 b.lo.toNat b.hi.toNat
  | _ => flt f64 (widenF32 b.lo.toNat) (widenF32 b.hi.toNat)

/-- The bound as clamp stores it. -/
def Bound.limit (b : Bound) (hi : Bool) : Nat :=
  let x := (if hi then b.hi else b.lo).toNat
  if b.format = 3 then widenF32 x else x

def Bound.overlaps (b : Bound) (space : Space) (addr size : Nat) : Bool :=
  b.space.toNat == spaceCode space && addr < b.base.toNat + b.size.toNat && b.base.toNat < addr + size

/-- The value after every register, whether BND is set, and the first register of the trap policy that it violates. -/
structure Bounded where
  val : Nat
  bnd : Bool
  trap : Option Nat
  deriving DecidableEq, Repr

def checkBounds (bs : List Bound) (space : Space) (addr size val : Nat) : Bounded :=
  bs.zipIdx.foldl (fun (r : Bounded) (b, i) =>
    if b.size = 0 || b.policy = 0 || !b.overlaps space addr size then r
    else
      let out : Option (Option Nat) :=
        if b.width != size then some none
        else match b.judge r.val with
          | .ok => none
          | .low => some (some (b.limit false))
          | .high => some (some (b.limit true))
      match out with
      | none => r
      | some lim =>
        if b.policy = 1 then { r with bnd := true }
        else if b.policy = 2 then { r with bnd := true, val := lim.getD r.val }
        else { r with trap := r.trap.orElse fun _ => some i }) { val := val, bnd := false, trap := none }

/-- The value of bound register i that a store of a team is checked against: its present one, or one that another team has
replaced and not yet released, since the team's own last write of it (R157). -/
def Grid.boundFor (g : Grid) (uid tick i : Nat) (b : Bound) : Bound :=
  let olds := (g.oldBounds.takeWhile fun o => !(o.reg == i && o.writer == uid)).filter fun o => o.reg == i
  let l := b :: olds.map OldBound.old
  (l[Config.staleBound tick i % l.length]?).getD b

/-- The bound registers of the team's grid, as its store at this point meets them. -/
def State.boundsOf (s : State) (t : Team) : List Bound :=
  ((s.gridOf t).map fun g =>
    if g.oldBounds.isEmpty then g.bounds.toList
    else g.bounds.toList.zipIdx.map fun (b, i) => g.boundFor t.uid s.tick i b).getD []

/-! ### Stores -/

/-- A shadow's write goes to its private buffer (R179). -/
def Block.hold (b : Block) (tg : Target) (bs : List Byte) : Block :=
  let put (t : Table 9) (k : Nat) : Table 9 := bs.zipIdx.foldl (fun t x => Table.set t (k + x.2) (0x100#9 + x.1.setWidth 9)) t
  match tg with
  | .phys pa => { b with privDevice := put b.privDevice pa }
  | .commons c off => { b with privCommons := put b.privCommons (c * 2 ^ 19 + off) }
  | _ => b

/-- One chunk of a lane's store: an image takes it at once, a shadow holds it, and every other store, one to a spill stack among them,
enters the team's queue (R56, R129, R163, R179, R180). What goes to images and spill stacks enters no digest (DESIGN CHOICE, log 70). -/
def State.storeChunk (s : State) (c : Ctx) (t : Team) (publishes : Bool) (p : Nat) (tg : Target) (ea : Double) (bs : List Byte) :
    State :=
  let queue (s : State) : State :=
    s.modTeam c.uid fun t => { t with storeQ := t.storeQ ++
      [{ space := tg.space, addr := ea, key := tg.key, bytes := bs, pc := c.pc, row := p / 32, pos := p % 32, lane := t.home p,
         core := t.core, word := c.word, lit := c.lit, after := t.insn + 1, publishes := publishes }] }
  match tg with
  | .image (.spill _) _ => queue s
  | .image _ _ => (s.writeHome tg bs false).checkWatch (c.hitBy t p) tg ea.toNat bs.length .store
  | .scratch _ _ => queue s
  | _ =>
    let s := s.digestBytes t ea bs
    if s.isShadow t then s.modBlock t.blk fun b => b.hold tg bs else queue s

/-- The bytes of a lane's data in its chunks. -/
def splitChunks : Placed → List Byte → List (Target × Double × List Byte)
  | [], _ => []
  | ch :: rest, bs => (ch.1, ch.2.1, bs.take ch.2.2) :: splitChunks rest (bs.drop ch.2.2)

/-- Enters the store of each lane in ascending position, with BND where a bound register says so. -/
def performStore (size : Nat) (publishes : Bool) (val : Nat → Bounded) (pa : PassArgs) (ok : List (Nat × Placed)) (s : State) : State :=
  ok.foldl (fun s x =>
    let r := val x.1
    let s := (splitChunks x.2 (leBytes size r.val)).foldl (fun s ch => s.storeChunk pa.c pa.t publishes x.1 ch.1 ch.2.1 ch.2.2) s
    if r.bnd then s.modTeam pa.c.uid fun t => (t.modLanes (maskOne x.1) fun th => { th with flags := th.flags ||| BND }).markF (x.1 / 32)
    else s) s

/-- The pass of a store: BOUND_VIOLATION comes between PROTECTION and translation (R127, R156). -/
def storePass (a : Access) (l : LS) (bounded : Bool) (tick : Nat) (pa : PassArgs) (s : State) : PassEnd :=
  let data (p : Nat) : Nat := (pa.c.read pa.t tick a.x 1 p).toNat % 2 ^ (8 * l.bytes)
  let bs := if bounded then s.boundsOf pa.t else []
  let val (p : Nat) : Bounded := checkBounds bs a.space (a.ea pa.t p).toNat l.bytes (data p)
  let lanes := rowLanes pa.live pa.row
  let viol := if bs.any (fun b => b.policy == 3 && b.size != 0) then lanes.filter fun p => (val p).trap.isSome else []
  match viol with
  | [] => a.pass .none false tick (performStore l.bytes (l.publishes a.space) val) pa s
  | p :: _ =>
    let keep := pa.c.capture pa.t tick a.x (pa.live ||| pa.rest)
    match s.passCheck pa.t a lanes with
    | some (ti, m) => .stop (s.takeTrap pa.c ti m (some keep) pa.c.next)
    | none =>
      .stop (s.takeTrap pa.c { trapOf 0x0D with vaddr := a.ea pa.t p, info := BitVec.ofNat 64 ((val p).trap.getD 0) } (maskOf viol)
        (some keep) pa.c.next)

/-- A store of a space: ST, STS, STX. A release's own store enters the queue behind every older one (R163, R165). -/
def execStoreLanes (i : Instr) (m : Mods) (a data : Src) (space : Space) (l : LS) (s : State) : Out :=
  issue i s fun c t s =>
    let x : Srcs := { a := a, b := data, d := .none }
    checked true x (Check.operand (l.storeOk space)) (fun c t live s =>
      let tick := s.tick
      let acc : Access :=
        { space := space, x := x, aligned := true, spill := false, kind := .store, frees := freesOf m x,
          chunks := fun t p => [(c.address tick x space l.off t p, l.bytes)] }
      acc.body .none c (fun tick => storePass acc l true tick) t live s) c t s

/-- Data of a vector-base form. -/
def dataV (b : Reg) (l : LS) : Src := .v b.toNat l.pair

/-- Data of a scalar-base form: bit 3 of the word selects a scalar register (R412). -/
def dataS (m : Mods) (b : Reg) (l : LS) : Src := if m.lua then .s b.toNat l.pair else .v b.toNat l.pair

/-- ST with a vector base (R411). -/
def execStVectorBase (m : Mods) (a b : Reg) (l : LS) (s : State) : Out :=
  execStoreLanes (.stVectorBase m a b l) m (.v a.toNat true) (dataV b l) .device l s

/-- ST with a scalar base (R411, R412). -/
def execStScalarBase (m : Mods) (a b : Reg) (l : LS) (s : State) : Out :=
  execStoreLanes (.stScalarBase m a b l) m (.s a.toNat true) (dataS m b l) .device l s

/-- STS with a vector base (R411). -/
def execStsVectorBase (m : Mods) (a b : Reg) (l : LS) (s : State) : Out :=
  execStoreLanes (.stsVectorBase m a b l) m (.v a.toNat false) (dataV b l) .scratch l s

/-- STS with a scalar base (R411, R412). -/
def execStsScalarBase (m : Mods) (a b : Reg) (l : LS) (s : State) : Out :=
  execStoreLanes (.stsScalarBase m a b l) m (.s a.toNat false) (dataS m b l) .scratch l s

/-- STX with a vector base (R411). -/
def execStxVectorBase (m : Mods) (a b : Reg) (l : LS) (s : State) : Out :=
  execStoreLanes (.stxVectorBase m a b l) m (.v a.toNat false) (dataV b l) .commons l s

/-- STX with a scalar base (R411, R412). -/
def execStxScalarBase (m : Mods) (a b : Reg) (l : LS) (s : State) : Out :=
  execStoreLanes (.stxScalarBase m a b l) m (.s a.toNat false) (dataS m b l) .commons l s

/-! ### The spill stack (R128, R129, R408) -/

/-- The accesses of a spill offset: two words for SIZE D (R126). -/
def spillChunks (l : LS) (t : Team) (p : Nat) : List (Double × Nat) :=
  let o := l.offset.toNat
  let word (k : Nat) : Double := t.ssp + BitVec.ofNat 64 (4 * (32 * t.ngrp * k + t.home p))
  if l.pair then [(word (o / 4), 4), (word (o / 4 + 1), 4)] else [(word (o / 4) + BitVec.ofNat 64 (o % 4), l.bytes)]

def spillAccess (m : Mods) (l : LS) (x : Srcs) (kind : AccKind) : Access :=
  { space := .device, x := x, aligned := false, spill := true, kind := kind, frees := freesOf m x, chunks := spillChunks l }

/-- SPLD (R408). -/
def execSpld (m : Mods) (d : Reg) (l : LS) (s : State) : Out :=
  issue (.spld m d l) s fun c t s =>
    let dst : Dst := .v d.toNat l.pair
    checked true Srcs.none (Check.operand (l.spillOk && dst.ok t)) (fun c t live s =>
      let acc := spillAccess m l Srcs.none .load
      acc.body dst c (fun tick => acc.pass dst true tick (performLoad l .device dst)) t live s) c t s

/-- SPST (R408). -/
def execSpst (m : Mods) (b : Reg) (l : LS) (s : State) : Out :=
  issue (.spst m b l) s fun c t s =>
    let x : Srcs := { a := .none, b := .v b.toNat l.pair, d := .none }
    checked true x (Check.operand (l.spillOk && l.storeOk)) (fun c t live s =>
      let acc := spillAccess m l x .store
      acc.body .none c (fun tick => storePass acc l false tick) t live s) c t s

/-! ### Prefetch (R392) -/

/-- Brings the line of a lane that translates into L2, and into L1 unless HINT is 1; every other lane is dropped. -/
def State.prefetch (s : State) (t : Team) (ea : Double) (stream : Bool) : State :=
  match s.resolve t .device ea 1 false, s.procOf t with
  | .virt va, some p =>
    match s.translate t.core p .load va with
    | (.ok pa, s) =>
      if stream then
        (if (s.coreAt t.core).l1.any fun l => l.line == pa / 128 then s else (s.fillL2 pa (s.hintAt t va)).latentFill pa [])
      else (s.loadBytes t (.phys (pa / 128 * 128)) 1 va false false []).2
    | (.error _, s) => s
  | _, _ => s

/-- PREF: nothing of the team changes (R392). -/
def execPrefLanes (i : Instr) (m : Mods) (a : Src) (l : LS) (s : State) : Out :=
  issue i s fun c t s =>
    let x : Srcs := { a := a, b := .none, d := .none }
    checked true x (Check.operand (l.ok && l.size == 0 && !l.ord)) (fun c t live s =>
      let pass (pa : PassArgs) (s : State) : PassEnd :=
        let s := (maskLanes pa.live).foldl (fun s p => s.prefetch pa.t (c.address s.tick x .device l.off pa.t p) (l.hint == 1)) s
        .go (((s.trimL1 pa.t.core).ticked).modTeam c.uid fun u => u.freeLanes pa.live (freesOf m x)) pa.mine
      match runPasses c live x .none (fun t p => c.address s.tick x .device l.off t p) pass (maskRows (c.lanes t ||| live)) none s with
      | .stop s => s
      | .go s _ => s.finish c c.next) c t s

/-- PREF with a vector base (R392). -/
def execPrefVectorBase (m : Mods) (a : Reg) (l : LS) (s : State) : Out :=
  execPrefLanes (.prefVectorBase m a l) m (.v a.toNat true) l s

/-- PREF with a scalar base (R392). -/
def execPrefScalarBase (m : Mods) (a : Reg) (l : LS) (s : State) : Out :=
  execPrefLanes (.prefScalarBase m a l) m (.s a.toNat true) l s

end Sys2Proof.Machine
end

