-- ==== Sys2Proof/Machine/Atomic.lean ====
section
/-! DEFINITION. Class 6, atomics and fences (spec/04 R84, R88; R322 to R324, R361; spec/07 R165, R167, R170, R175, R176). -/

namespace Sys2Proof

open Sys2Proof.Machine

/-! ### The LA literal (R88) -/

def LA.bytes (l : LA) : Nat := if l.width then 8 else 4
def LA.off (l : LA) : Double := l.offset.signExtend 64
def LA.isCas (l : LA) : Bool := l.op == 10
def LA.ok (l : LA) : Bool := l.scope.toNat ≤ 5 && l.op.toNat ≤ 10
/-- What ATOMR accepts. -/
def LA.addOk (l : LA) : Bool := l.scope.toNat ≤ 5 && l.op == 0 && l.ret

/-- The new value of a read-modify-write (R322): x is the operand and d the compare value, of w bits. -/
def LA.apply (l : LA) (old x d : Nat) : Nat :=
  let w := 8 * l.bytes
  match l.op.toNat with
  | 0 => (old + x) % 2 ^ w
  | 1 => (fadd (if l.width then f64 else f32) { rnd := .rne, nfz := false } old x).bits
  | 2 => if sextInt old w ≤ sextInt x w then old else x
  | 3 => if sextInt x w ≤ sextInt old w then old else x
  | 4 => if old ≤ x then old else x
  | 5 => if x ≤ old then old else x
  | 6 => Nat.land old x
  | 7 => Nat.lor old x
  | 8 => Nat.xor old x
  | 9 => x
  | _ => if old = d then x else old

end Sys2Proof

namespace Sys2Proof.Machine

open Sys2Proof

/-- A value of 32 or 64 bits as the words an outward result records. -/
def wordsOf (wide : Bool) (v : Nat) : List Word :=
  if wide then [BitVec.ofNat 32 v, BitVec.ofNat 32 (v / 2 ^ 32)] else [BitVec.ofNat 32 v]

/-- The value recorded. -/
def ofWords (ws : List Word) : Double :=
  match ws with
  | [] => 0
  | [lo] => lo.setWidth 64
  | lo :: hi :: _ => hi ++ lo

/-- One lane's read-modify-write, performed at once at its home: the old value (R158, R170). -/
def State.rmw (s : State) (c : Ctx) (t : Team) (p : Nat) (tg : Target) (ea : Double) (l : LA) (x d : Nat) : Nat × State :=
  let old := leNat (s.homeBytes tg l.bytes)
  let bs := leBytes l.bytes (l.apply old x d)
  let s := s.writeHome tg bs false
  let s := match tg with
    | .phys pa => s.modCore t.core fun k => k.patchLine pa bs
    | _ => s
  (old, s.checkWatch (c.hitBy t p) tg ea.toNat l.bytes .atomic)

/-- Digest of an atomic of a sampled run (R180): device memory and the commons alone. -/
def State.digestAtom (s : State) (t : Team) (space : Space) (ea : Double) (l : LA) (x : Nat) : State :=
  match space with
  | .scratch => s
  | _ => s.digestAtomic t ea l.op.toNat (leBytes l.bytes x)

/-- An operand of an atomic, of its width. -/
def Ctx.atomOperand (c : Ctx) (t : Team) (tick : Nat) (x : Srcs) (l : LA) (k p : Nat) : Nat :=
  (c.read t tick x k p).toNat % 2 ^ (8 * l.bytes)

/-- Writes replies that land later (R214). -/
def State.reply (s : State) (c : Ctx) (ws : List (RegRef × Word)) : State :=
  match ws with
  | [] => s
  | _ => s.modTeam c.uid fun t => { t with inflight := t.inflight ++ [{ atomic := true, pc := c.pc, writes := ws }] }

/-- What an atomic's ORDER does before it is performed: a release performs the team's queued stores (R165). -/
def State.atomRelease (s : State) (uid : Nat) (space : Space) (l : LA) : State :=
  if l.order.toNat ≥ 2 then s.releaseAt uid (narrowScope space l.scope) else s

/-- What it does afterwards: an acquire at die scope or wider discards L1 (R165). -/
def State.atomAcquire (s : State) (core : Nat) (space : Space) (l : LA) : State :=
  if l.order.toNat % 2 = 1 then s.acquire core (narrowScope space l.scope) else s

/-- An outward result of a sampled block; an atomic of the scratchpad does not leave the block (R179; log 70). -/
def State.logAtom (s : State) (uid : Nat) (space : Space) (p : Nat) (ws : List Word) : State :=
  if space = .scratch then s else s.logOut uid [(p, ws)]

/-- Performs the atomic of each lane that completes, in ascending position: after the team's own queued stores to its location, and
after all of them when it is a release (R163, R165, R170), with a reply when RET is 1. -/
def performAtomic (a : Access) (l : LA) (d : Dst) (ret : Bool) (tick : Nat) (pa : PassArgs) (ok : List (Nat × Placed)) (s : State) :
    State :=
  let s := s.atomRelease pa.c.uid a.space l
  let (ws, s) := ok.foldl (fun ((ws, s) : List (RegRef × Word) × State) q =>
    let p := q.1
    let ch := q.2.headD (.phys 0, 0, 1)
    let x := pa.c.atomOperand pa.t tick a.x l 1 p
    let s := (s.digestAtom pa.t a.space ch.2.1 l x).drainFor pa.c.uid ch.1 l.bytes
    let (old, s) := s.rmw pa.c pa.t p ch.1 ch.2.1 l x (pa.c.atomOperand pa.t tick a.x l 2 p)
    let s := s.logAtom pa.c.uid a.space p (if ret then wordsOf l.width old else [])
    (if ret then ws ++ d.writes (pa.t.home p) (BitVec.ofNat 64 old) else ws, s)) ([], s)
  let s := s.reply pa.c ws
  if ok.isEmpty then s else s.atomAcquire pa.t.core a.space l

/-- An atomic of a shadow: it adds to the shadow's digest, performs nothing and takes the original's replies (R179). -/
def State.shadowAtomic (s s0 : State) (c : Ctx) (t : Team) (a : Access) (l : LA) (d : Dst) (ret : Bool) (live : Mask) : State :=
  match s.passCheck t a (maskLanes live) with
  | some (ti, m) => s.takeTrap c ti m none c.next
  | none =>
    s.inShadow s0 t live fun rs s =>
      let s := rs.foldl (fun s r => s.digestAtom t a.space (a.ea t r.1) l (c.atomOperand t s.tick a.x l 1 r.1)) s
      let ws := if ret then rs.flatMap fun r => d.writes (t.home r.1) (ofWords r.2) else []
      ((s.reply c ws).modTeam c.uid fun u => (u.passed (maskRows (c.lanes t ||| live)).length).freeLanes live a.frees).finish c c.next

/-- The accesses of an atomic. -/
def atomAccess (m : Mods) (c : Ctx) (tick : Nat) (x : Srcs) (space : Space) (l : LA) : Access :=
  { space := space, x := x, aligned := true, spill := false, kind := .atomic, frees := freesOf m x,
    chunks := fun t p => [(c.address tick x space l.off t p, l.bytes)] }

/-- ATOM and ATOMS: one read-modify-write per live lane (R322, R324). -/
def execAtomLanes (i : Instr) (m : Mods) (d : Reg) (a : Src) (b : Reg) (space : Space) (l : LA) (ok ret : Bool) (s0 : State) : Out :=
  issue i s0 fun c t s =>
    let x : Srcs := { a := a, b := .v b.toNat l.width, d := if l.isCas then .v d.toNat l.width else .none }
    let dst : Dst := if ret then .v d.toNat l.width else .none
    checked true x (Check.operand (ok && dst.ok t)) (fun c t live s =>
      let acc := atomAccess m c s.tick x space l
      if s.isShadow t && space != .scratch then s.shadowAtomic s0 c t acc l dst ret live
      else acc.body dst c (fun tick => acc.pass dst true tick (performAtomic acc l dst ret tick)) t live s) c t s

/-- ATOM with a vector base (R322). -/
def execAtomVectorBase (m : Mods) (d a b : Reg) (l : LA) (s : State) : Out :=
  execAtomLanes (.atomVectorBase m d a b l) m d (.v a.toNat true) b .device l l.ok l.ret s

/-- ATOM with a scalar base (R322). -/
def execAtomScalarBase (m : Mods) (d a b : Reg) (l : LA) (s : State) : Out :=
  execAtomLanes (.atomScalarBase m d a b l) m d (.s a.toNat true) b .device l l.ok l.ret s

/-- ATOMS in the scratchpad with a vector base (R324). -/
def execAtomsScratchVectorBase (m : Mods) (d a b : Reg) (l : LA) (s : State) : Out :=
  execAtomLanes (.atomsScratchVectorBase m d a b l) m d (.v a.toNat false) b .scratch l l.ok l.ret s

/-- ATOMS in the scratchpad with a scalar base (R324). -/
def execAtomsScratchScalarBase (m : Mods) (d a b : Reg) (l : LA) (s : State) : Out :=
  execAtomLanes (.atomsScratchScalarBase m d a b l) m d (.s a.toNat false) b .scratch l l.ok l.ret s

/-- ATOMS in the commons with a vector base (R324). -/
def execAtomsCommonsVectorBase (m : Mods) (d a b : Reg) (l : LA) (s : State) : Out :=
  execAtomLanes (.atomsCommonsVectorBase m d a b l) m d (.v a.toNat false) b .commons l l.ok l.ret s

/-- ATOMS in the commons with a scalar base (R324). -/
def execAtomsCommonsScalarBase (m : Mods) (d a b : Reg) (l : LA) (s : State) : Out :=
  execAtomLanes (.atomsCommonsScalarBase m d a b l) m d (.s a.toNat false) b .commons l l.ok l.ret s

/-! ### ATOMR (R175, R176, R323) -/

/-- The ordinals that the live lanes take in order, the counter after them, and the lanes that go beyond C. -/
structure Reservation where
  first : List (Nat × Nat)
  after : Nat
  beyond : Mask
  deriving DecidableEq, Repr

def reserve (lanes : List Nat) (operand : Nat → Nat) (n C : Nat) : Reservation :=
  lanes.foldl (fun (r : Reservation) p =>
    let x := operand p
    { first := r.first ++ [(p, r.after)], after := r.after + x,
      beyond := if r.after + x > C then r.beyond ||| maskOne p else r.beyond }) { first := [], after := n, beyond := 0 }

/-- Offset base of the team: (b × T + t) × C. -/
def State.atomrBase (s : State) (t : Team) : Nat :=
  match s.gridOf t, s.blockOf t with
  | some g, some b => (b.index * g.teams + t.tix) * g.atomr
  | _, _ => 0

/-- Where an entry's operands say, beyond OPS, that its lanes have their offsets: a replay performs the ADD alone (R175, R208). -/
def reservedKey : Nat := 1024 * 60

def ReplayEntry.reserved (e : ReplayEntry) : Bool := Table.get e.ops reservedKey != 0

/-- ATOMR of an ordered launch at issue, or at the replay of one that trapped there: every lane gets its offset, and then performs its
ADD with the captured operands. -/
def State.atomrOrdered (s : State) (m : Mods) (c : Ctx) (t0 : Team) (live0 : Mask) (x : Srcs) (l : LA) (d : Dst) (space : Space) : State :=
  match s.consumeRegs c t0 live0 x d 0 ((atomAccess m c s.tick x space l).ea t0) with
  | (s, none) => s
  | (s, some (t, live)) =>
    let C := ((s.gridOf t).map Grid.atomr).getD 0
    let r := reserve (maskLanes live) (c.atomOperand t s.tick x l 1) t.atomrN C
    if r.after > C then
      s.takeTrap c { trapOf 0x10 with info := BitVec.ofNat 64 C } r.beyond (some (c.capture t s.tick x live)) c.next
    else
      let e := c.capture t s.tick x live
      let offs := r.first.map fun f => (f.1, (s.atomrBase t + f.2) % 2 ^ (8 * l.bytes))
      let t1 := offs.foldl (fun (t : Team) o =>
        (t.modLanes (maskOne o.1) fun th => th.writeDst d (BitVec.ofNat 64 o.2)).markDst d (o.1 / 32))
        { t.freeLanes live (freesOf m x) with atomrN := r.after }
      let idle := (maskRows (c.lanes t)).filter fun g => onlyRow live g = 0
      let t1 := t1.closeWindows (offs.flatMap fun o => d.refs (t.home o.1))
      let s := (s.setTeam (t1.passed idle.length)).logOut c.uid (offs.map fun o => (o.1, wordsOf l.width o.2))
      let e := { e with ops := Table.set e.ops reservedKey 1 }
      let c' : Ctx :=
        { c with rp := some { (c.rp.getD { slot := none, entry := e, denied := [], rte := false, again := false }) with entry := e } }
      let acc := { atomAccess m c' s.tick x space l with frees := [] }
      acc.bodyAs d c' c (fun tick => acc.pass d true tick (performAtomicAdd acc l tick)) ((s.team? c.uid).getD t1) live s
where
  /-- The ADDs, whose outward results have been recorded with the offsets. -/
  performAtomicAdd (a : Access) (l : LA) (tick : Nat) (pa : PassArgs) (ok : List (Nat × Placed)) (s : State) : State :=
    let s := ok.foldl (fun s q =>
      let ch := q.2.headD (.phys 0, 0, 1)
      let x := pa.c.atomOperand pa.t tick a.x l 1 q.1
      (((s.digestAtom pa.t a.space ch.2.1 l x).drainFor pa.c.uid ch.1 l.bytes).rmw pa.c pa.t q.1 ch.1 ch.2.1 l x 0).2)
      (s.atomRelease pa.c.uid a.space l)
    if ok.isEmpty then s else s.atomAcquire pa.t.core a.space l

/-- ATOMR (R323): in an ordered launch the offsets of R175, at a replay the ADD alone, and otherwise ATOM with OP ADD. -/
def execAtomrLanes (i : Instr) (m : Mods) (d : Reg) (a : Src) (b : Reg) (l : LA) (s0 : State) : Out :=
  match (s0.team? s0.turn).bind s0.gridOf with
  | none => execAtomLanes i m d a b .device l l.addOk true s0
  | some g =>
    if !g.ordered then execAtomLanes i m d a b .device l l.addOk true s0
    else
      issue i s0 fun c t s =>
        let x : Srcs := { a := a, b := .v b.toNat l.width, d := .none }
        let dst : Dst := .v d.toNat l.width
        checked true x (Check.operand (l.addOk && dst.ok t)) (fun c t live s =>
          let acc := atomAccess m c s.tick x .device l
          if s.isShadow t then s.shadowAtomic s0 c t acc l dst true live
          else if c.rp.any fun r => r.entry.reserved then
            let acc := { acc with frees := [] }
            acc.body dst c (fun tick => acc.pass dst true tick (State.atomrOrdered.performAtomicAdd acc l tick)) t live s
          else s.atomrOrdered m c t live x l dst .device) c t s

/-- ATOMR with a vector base (R323). -/
def execAtomrVectorBase (m : Mods) (d a b : Reg) (l : LA) (s : State) : Out :=
  execAtomrLanes (.atomrVectorBase m d a b l) m d (.v a.toNat true) b l s

/-- ATOMR with a scalar base (R323). -/
def execAtomrScalarBase (m : Mods) (d a b : Reg) (l : LA) (s : State) : Out :=
  execAtomrLanes (.atomrScalarBase m d a b l) m d (.s a.toNat true) b l s

/-! ### FENCE (R167, R361) -/

/-- FENCE: a release performs the team's queued stores, an acquire at die scope or wider discards the core's L1. -/
def execFence (m : Mods) (l : LFence) (s : State) : Out :=
  issue (.fence m l) s fun c t s =>
    checked false Srcs.none (Check.operand (l.kind != 0 && l.scope.toNat ≤ 5)) (fun c t _ s =>
      let s := if l.kind.toNat ≥ 2 then s.releaseAt c.uid l.scope.toNat else s
      let s := if l.kind.toNat % 2 = 1 then s.acquire t.core l.scope.toNat else s
      s.finishTeam c id c.next) c t s

end Sys2Proof.Machine
end

