-- ==== Sys2Proof/Machine/Sync.lean ====
section
/-! DEFINITION. Class 7, barriers, block events and coalescing nodes (spec/04 R84; R327, R353, R354, R356, R366; spec/06 R151;
spec/07 R171 to R174; spec/08 R192, R193). -/

namespace Sys2Proof.Machine

open Sys2Proof

/-! ### Barrier objects (R151) -/

/-- The object's 16 bytes. -/
def Block.obj (b : Block) (off : Nat) : Nat := Memory.readNat b.scratch off 16

def objPhase (x : Nat) : Bool := x.testBit 127

/-- count_down of R151: the object after it, and whether it completed at least once. -/
def countDown (x n : Nat) : Nat × Bool :=
  let init := bitsOf x 103 64
  if init = 0 then (Nat.lor x (2 ^ 126), false)
  else
    let c0 : Int := (bitsOf x 39 0 : Int) - n
    -- the flips needed are ⌊−c0 / INIT⌋ + 1 when c0 ≤ 0
    let k : Nat := if c0 ≤ 0 then ((-c0) / (init : Int)).toNat + 1 else 0
    let c := c0 + k * (init : Int)
    let ph := if k % 2 = 1 then !objPhase x else objPhase x
    (x % 2 ^ 127 / 2 ^ 40 * 2 ^ 40 + c.toNat % 2 ^ 40 + (if ph then 2 ^ 127 else 0), k != 0)

/-- Stores the object. -/
def State.putObj (s : State) (blk off x : Nat) : State := s.writeHome (.scratch blk off) (leBytes 16 x) true

/-- Counts an object down, an atomic access of its bytes (R151, R152, R224). -/
def State.countDownAt (s : State) (by_ : HitBy) (blk off n : Nat) : State × Bool :=
  match s.block? blk with
  | none => (s, false)
  | some b =>
    let (x, flipped) := countDown (b.obj off) n
    ((s.putObj blk off x).checkWatch by_ (.scratch blk off) off 16 .atomic, flipped)

/-- What a hit records of an access that an instruction makes once for its team (R224). -/
def Ctx.hitTeam (c : Ctx) (t : Team) (lanes : Mask) : HitBy :=
  { c.hitBy t 0 with homes := t.homesOf lanes }

/-- A read of n scratch bytes that an instruction makes once for its team meets the watchpoints (R224). -/
def State.watchScratch (s : State) (c : Ctx) (t : Team) (lanes : Mask) (off n : Nat) (k : AccKind := .load) : State :=
  s.checkWatch (c.hitTeam t lanes) (.scratch t.blk off) off n k

def State.phaseAt (s : State) (blk off : Nat) : Bool := (s.block? blk).any fun b => objPhase (b.obj off)

/-- The phase as the team sees it, past its own queued stores (R161, R163). -/
def State.phaseSeen (s : State) (t : Team) (off : Nat) : Bool :=
  (s.block? t.blk).any fun b => objPhase (leNat (overlayQueue t.storeQ (.scratch t.blk off) (Memory.readBytes b.scratch off 16)))

/-- The check of an object at issue: ALIGNMENT, then PROTECTION (R327). -/
def State.objCheck (s : State) (t : Team) (v low off : Nat) : Option TrapInfo :=
  if low != 0 then some { trapOf 0x0A with vaddr := BitVec.ofNat 64 v }
  else if (s.blockOf t).any (fun b => off + 16 ≤ b.scrsz) then none
  else some { trapOf 0x0C with vaddr := BitVec.ofNat 64 v, info := 1 }

/-- A team instruction at an arrival point: runs f once `arrive` lets it execute. -/
def State.arriving (s : State) (c : Ctx) (f : Team → State → State) : State :=
  match s.arrive c with
  | (s, false) => s
  | (s, true) =>
    match s.team? c.uid with
    | none => s
    | some t => f t s

/-- A trap of an instruction that acts once for the team and ignores the guard (R423). -/
def State.onceTrap (s : State) (c : Ctx) (t : Team) (x : Srcs) (ti : TrapInfo) : State :=
  s.trapAtIssue c t x (c.lanes t) ti (c.lanes t)

/-- Sources a and b as scalars. -/
def scalars (a b : Option Reg) : Srcs :=
  { a := (a.map fun r => Src.s r.toNat false).getD .none, b := (b.map fun r => Src.s r.toNat false).getD .none, d := .none }

/-- BARI (R327): one store of the object, behind the team's older stores, laid to the team's lowest running lane (log 30). -/
def execBari (m : Mods) (a b : Reg) (s : State) : Out :=
  issue (.bari m a b) s fun c t s =>
    let x := scalars (some a) (some b)
    checked false x Check.none (fun c t _ s =>
      let o := (c.readTeam t s.tick x 0).toNat
      match s.objCheck t o (o % 16) o with
      | some ti => s.onceTrap c t x ti
      | none =>
        let n := (c.readTeam t s.tick x 1).toNat
        let v := n * 2 ^ 64 + n
        let p := (lowestLane (c.lanes t)).getD 0
        (s.modTeam c.uid fun u => { u with storeQ := u.storeQ ++
          [{ space := .scratch, addr := BitVec.ofNat 64 o, key := (Target.scratch t.blk o).key, bytes := leBytes 16 v, pc := c.pc,
             row := p / 32, pos := p % 32, lane := t.home p, core := t.core, word := c.word, lit := c.lit, after := t.insn + 1, publishes := false }] }).finishTeam c id c.next) c t s

/-- A wait entry that records a phase or generation in operand slot 2, row 0, position 0 (R317, R366). -/
def withRecorded (e : ReplayEntry) (v : Nat) : ReplayEntry := { e with ops := Table.set e.ops 2048 (BitVec.ofNat 64 v) }

/-- What a re-executed waiting instruction recorded, when this is one. -/
def Ctx.recorded (c : Ctx) : Option Nat :=
  match c.rp with
  | some r => if r.again then some ((Table.get r.entry.ops 2048).toNat % 2 ^ 32) else none
  | none => none

/-- Waits at a barrier object for its phase to leave `ph`, or leaves at once. -/
def State.waitPhase (s : State) (c : Ctx) (t : Team) (x : Srcs) (off : Nat) (ph : Bool) (w : Wait) (ops : Nat) : State :=
  if s.phaseSeen t off != ph then s.finishTeam c id c.next
  else s.wait c w (withRecorded (c.capture t s.tick x (c.lanes t)) ops)

/-- BAR (R327). -/
def execBar (m : Mods) (a : Reg) (s : State) : Out :=
  issue (.bar m a) s fun c t s =>
    let x := scalars (some a) none
    checked false x Check.none (fun c _ _ s => s.arriving c fun t s =>
      let o := (c.readTeam t s.tick x 0).toNat
      match s.objCheck t o (o % 16) o with
      | some ti => s.onceTrap c t x ti
      | none =>
        match c.recorded with
        | some ph => s.waitPhase c t x o (ph % 2 == 1) (.bar o (ph % 2 == 1)) (ph % 2)
        | none =>
          let n := 32 * t.ngrp - (maskLanes t.waitingMask).length
          let s := s.release c.uid
          let ph := s.phaseAt t.blk o
          let (s, flipped) := s.countDownAt (c.hitTeam t (c.lanes t)) t.blk o n
          if flipped then s.finishTeam c id c.next
          else s.wait c (.bar o ph) (withRecorded (c.capture t s.tick x (c.lanes t)) (if ph then 1 else 0))) c t s

/-- BARA (R327). -/
def execBara (m : Mods) (a b : Reg) (s : State) : Out :=
  issue (.bara m a b) s fun c t s =>
    let x := scalars (some a) (some b)
    checked false x Check.none (fun c t _ s =>
      let o := (c.readTeam t s.tick x 0).toNat
      match s.objCheck t o (o % 16) o with
      | some ti => s.onceTrap c t x ti
      | none =>
        let s := s.release c.uid
        (s.countDownAt (c.hitTeam t (c.lanes t)) t.blk o (c.readTeam t s.tick x 1).toNat).1.finishTeam c id c.next) c t s

/-- BARW (R327). -/
def execBarw (m : Mods) (a : Reg) (s : State) : Out :=
  issue (.barw m a) s fun c t s =>
    let x := scalars (some a) none
    checked false x Check.none (fun c _ _ s => s.arriving c fun t s =>
      let v := (c.readTeam t s.tick x 0).toNat
      let o := v / 16 * 16
      match s.objCheck t v (v % 16 / 2) o with
      | some ti => s.onceTrap c t x ti
      | none => s.waitPhase c t x o (v % 2 == 1) (.barw o (v % 2 == 1)) 0) c t s

/-! ### GBAR (R366) -/

/-- Every team of the grid's GRID blocks has arrived at generation k or has ended: every block is admitted, and no live team
of one lags. -/
def State.gbarDone (s : State) (gid k : Nat) : Bool :=
  (s.grid? gid).any (fun g => g.admitted == g.count) &&
  s.teams.all fun u => u.gid != gid || !u.isGrid || s.isShadow u || u.cause != 0 || k ≤ u.gbarGen

/-- Leaving GBAR: acquire at device scope. -/
def State.leaveGbar (s : State) (uid : Nat) (lanes : Mask) : State :=
  match s.team? uid with
  | none => s
  | some t => (s.acquire t.core 4).logOut uid ((maskLanes lanes).map fun p => (p, []))

/-- GBAR (R366); a shadow leaves when the original's has completed (R179). A team that reaches it past a FOCUS entry has
not arrived: the threads of that entry have not (R236). -/
def execGbar (m : Mods) (s0 : State) : Out :=
  issue (.gbar m) s0 fun c t s =>
    checked false Srcs.none (Check.operand t.isGrid) (fun c _ _ s => s.arriving c fun t s =>
      if s.isShadow t then
        s.inShadow s0 t (c.lanes t) fun _ s =>
          (s.acquire t.core 4).finishTeam c (fun u => { u with gbarGen := u.gbarGen + 1 }) c.next
      else
        let again := c.recorded
        let k := again.getD (t.gbarGen + 1)
        let s := if again.isSome then s
          else (s.releaseAt c.uid 4).modTeam c.uid fun u => if t.stack.any (fun e => e.kind == 2) then u else { u with gbarGen := k }
        if s.gbarDone t.gid k then (s.leaveGbar c.uid (c.lanes t)).finishTeam c id c.next
        else s.wait c (.gbar k) (withRecorded (c.capture t s.tick Srcs.none (c.lanes t)) k)) c t s

/-! ### Block events (R173, R174, R356) -/

/-- The event value of a block, once published. -/
def Grid.event? (g : Grid) (i : Nat) : Option Word := g.events.lookup i

/-- The same outward result for each of an instruction's lanes. -/
def State.logTeam (s : State) (c : Ctx) (t : Team) (ws : List Word) : State :=
  s.logOut c.uid ((maskLanes (c.lanes t)).map fun p => (p, ws))

/-- The same outward result for each lane of a mask. -/
def State.logLive (s : State) (c : Ctx) (live : Mask) (ws : List Word) : State :=
  s.logOut c.uid ((maskLanes live).map fun p => (p, ws))

/-- The result that a shadow's instruction, made once for the team, takes. -/
def firstResult (rs : List (Nat × List Word)) : List Word := (rs.head?.map Prod.snd).getD []

def orderViolation (kind : Nat) : TrapInfo := { trapOf 0x0F with detail := BitVec.ofNat 8 kind }

/-- EVPUB (R356). -/
def execEvpub (m : Mods) (a : Reg) (s0 : State) : Out :=
  issue (.evpub m a) s0 fun c t s =>
    let x := scalars (some a) none
    checked false x (Check.operand t.isGrid) (fun c t _ s =>
      if s.isShadow t then s.inShadow s0 t (c.lanes t) fun _ s => s.finishTeam c id c.next
      else
        match s.blockOf t with
        | none => s
        | some b =>
          if b.published then s.onceTrap c t x (orderViolation 2)
          else
            let s := s.releaseAt c.uid 4
            ((s.publish b ((c.readTeam t s.tick x 0).setWidth 32)).logTeam c t []).finishTeam c id c.next) c t s

/-- The checks of EVWAIT and EVPEEK on a block index (R174). -/
def State.eventCheck (s : State) (t : Team) (i : Nat) : Option TrapInfo :=
  match s.gridOf t, s.blockOf t with
  | some g, some b =>
    if i ≥ g.count then some illegalOperand
    else if g.ordered && t.isGrid && i ≥ b.index then some (orderViolation 1)
    else none
  | _, _ => some illegalOperand

def State.eventOf (s : State) (t : Team) (i : Nat) : Option Word := (s.gridOf t).bind fun g => g.event? i

/-- EVWAIT (R356). -/
def execEvwait (m : Mods) (d a : Reg) (s0 : State) : Out :=
  issue (.evwait m d a) s0 fun c t s =>
    let x := scalars (some a) none
    checked false x (Check.operand (t.hasS d.toNat)) (fun c t _ s =>
      let i := (c.readTeam t s.tick x 0).toNat
      match s.eventCheck t i with
      | some ti => s.onceTrap c t x ti
      | none =>
        if s.isShadow t then
          s.inShadow s0 t (c.lanes t) fun rs s =>
            (s.acquire t.core 4).finishTeam c (fun u => u.putS d.toNat ((firstResult rs).headD 0)) c.next
        else
          match s.eventOf t i with
          | some v => ((s.acquire t.core 4).logTeam c t [v]).finishTeam c (fun u => u.putS d.toNat v) c.next
          | none => s.wait c (.evwait d i) (c.capture t s.tick x (c.lanes t))) c t s

/-- Writes one predicate in every lane of a mask. -/
def Team.putP (t : Team) (m : Mask) (i : Nat) (v : Bool) : Team :=
  if i = 0 then t
  else
    let t1 := (t.modLanes m fun th => th.writeP i v).markP i
    match t1.recent with
    | [] => t1
    | rs => { t1 with recent := (maskLanes m).foldl (fun rs p => dropRefs rs (refP (t1.home p) i)) rs }

/-- EVPEEK (R356). -/
def execEvpeek (m : Mods) (d a : Reg) (s0 : State) : Out :=
  issue (.evpeek m d a) s0 fun c t s =>
    let x := scalars (some a) none
    checked false x (Check.operand (t.hasP d.toNat)) (fun c t _ s =>
      let i := (c.readTeam t s.tick x 0).toNat
      let give (v : Bool) (s : State) : State :=
        (if v then s.acquire t.core 4 else s).finishTeam c (fun u => (u.passed (extraPasses (c.lanes t))).putP (c.lanes u) d.toNat v) c.next
      match s.eventCheck t i with
      | some ti => s.onceTrap c t x ti
      | none =>
        if s.isShadow t then s.inShadow s0 t (c.lanes t) fun rs s => give ((firstResult rs).headD 0 != 0) s
        else
          let v := (s.eventOf t i).isSome
          give v (s.logTeam c t [if v then 1 else 0])) c t s

/-! ### Coalescing nodes (R192, R193, R353, R354) -/

/-- The open slot, with its record count and the time of its first record. -/
def Node.openSlot (n : Node) : Option (Nat × Nat × Nat) :=
  n.slots.zipIdx.findSome? fun (x, i) =>
    match x with
    | .filling c o => some (i, c, o)
    | _ => none

def Node.freeSlots (n : Node) : Nat := (n.slots.filter fun x => x == .free).length

/-- Records that the node can take. -/
def Node.room (n : Node) : Nat :=
  (match n.openSlot with
    | some (_, c, _) => n.thresh - c
    | none => 0) + n.thresh * n.freeSlots

/-- The next free slot in ring order from openIx. -/
def Node.nextFree (n : Node) : Option Nat :=
  ((List.range n.nslot).map fun i => (n.openIx + i) % n.nslot).find? fun i => n.slots[i]? == some .free

/-- Places one record: its slot and number in the slot, and the node after it; a full slot closes. -/
def Node.place (n : Node) (now : Nat) : Option (Nat × Nat × Node) :=
  let fill (n : Node) (i c o : Nat) : Node :=
    if c + 1 ≥ n.thresh then { n with slots := modifyAt n.slots i fun _ => .closed (c + 1) false o n.batches, batches := n.batches + 1 }
    else { n with slots := modifyAt n.slots i fun _ => .filling (c + 1) o }
  match n.openSlot with
  | some (i, c, o) => some (i, c, fill n i c o)
  | none =>
    match n.nextFree with
    | some i => some (i, 0, { fill n i 0 now with openIx := (i + 1) % n.nslot })
    | none => none

/-- Closes the open slot, if it holds a record. -/
def Node.close (n : Node) (byAge : Bool) : Node :=
  match n.openSlot with
  | some (i, c, o) => { n with slots := modifyAt n.slots i fun _ => .closed c byAge o n.batches, batches := n.batches + 1 }
  | none => n

def State.nodeOf (s : State) (t : Team) (k : Nat) : Option Node := (s.gridOf t).bind fun g => g.nodes[k]?

/-- Address of record i of slot k. -/
def Node.recordAt (n : Node) (k i : Nat) : Nat := n.buf.toNat + k * (n.thresh * 4 * n.recw) + 4 * n.recw * i

/-- Appends records, in order, to node k of a grid. -/
def State.appendRecords (s : State) (gid k : Nat) (rs : List (List Word)) : State :=
  rs.foldl (fun s r =>
    match (s.grid? gid).bind fun g => g.nodes[k]? with
    | none => s
    | some n =>
      match n.place s.clock with
      | none => s
      | some (slot, i, n') =>
        let s1 := { (s.modGrid gid fun g => { g with nodes := modifyAt g.nodes k fun _ => n' }) with clock := s.clock + 1 }
        match (s.grid? gid).bind fun g => s.proc? g.pid with
        | some p => s1.writeVirt p (n.recordAt slot i) (r.flatMap fun w => leBytes 4 w.toNat)
        | none => s1) s

/-- ENQ (R353). -/
def execEnq (m : Mods) (a b : Reg) (l : LNode) (s0 : State) : Out :=
  issue (.enq m a b l) s0 fun c t s =>
    let n := b.toNat
    let k := l.node.toNat
    let x : Srcs := { a := .vs a.toNat n, b := .none, d := .none }
    let lanes := maskLanes (c.lanes t)
    let ok := n ≥ 1 && n ≤ 8 && (s.nodeOf t k).any (fun nd => nd.recw == n && lanes.length ≤ nd.thresh * nd.nslot)
    checked false x (Check.operand ok) (fun c t _ s =>
      let rows := (maskRows (c.lanes t)).length
      let records := lanes.map fun p => c.readWords t s.tick x 0 a.toNat n p
      let done (s : State) : State :=
        (s.modTeam c.uid fun u => ((u.passed rows).freeLanes (c.lanes t) (freesOf m x))).finish c c.next
      if s.isShadow t then s.inShadow s0 t (c.lanes t) fun _ s => done s
      else if (s.nodeOf t k).any (fun nd => lanes.length ≤ nd.room) then
        done (((s.releaseAt c.uid 4).appendRecords t.gid k records).logTeam c t [])
      else
        (s.modTeam c.uid fun u => u.passed (rows - 1)).wait c (.enq k records (freesOf m x))
          (c.capture t s.tick x (c.lanes t))) c t s

/-- ENQF (R354). -/
def execEnqf (m : Mods) (l : LNode) (s0 : State) : Out :=
  issue (.enqf m l) s0 fun c t s =>
    let k := l.node.toNat
    checked false Srcs.none (Check.operand (s.nodeOf t k).isSome) (fun c t _ s =>
      if s.isShadow t then s.inShadow s0 t (c.lanes t) fun _ s => s.finishTeam c id c.next
      else
        ((s.modGrid t.gid fun g => { g with nodes := modifyAt g.nodes k fun n => n.close true }).logTeam c t []).finishTeam c id c.next) c t s

end Sys2Proof.Machine
end

