-- ==== Sys2Proof/Machine/Copy.lean ====
section
/-! DEFINITION. Class 8, copies and batches (spec/04 R84; R338, R343, R344, R348; spec/06 R148 to R154). What the Courier does
afterwards stands in Engines.lean. -/

namespace Sys2Proof.Machine

open Sys2Proof

/-! ### Requests (R148, R154) -/

/-- Copy status codes (R154). -/
def copyBadKind : Byte := 1
def copyBadShape : Byte := 2
def copyScratchRange : Byte := 3
def copyCommonsRange : Byte := 4
def copyBadBarrier : Byte := 5
def copyDenied : Byte := 6
def copyUncorrectable : Byte := 7
def copyPeer : Byte := 8
def copyReserved : Byte := 9
def copyAddress : Byte := 10

/-- The space of a side of a copy; a peer's side lies outside the part. -/
inductive CopySide where
  | device
  | scratch
  | commons
  | peer
  deriving DecidableEq, Repr

def sourceSide (kind : Nat) : CopySide :=
  match kind with
  | 1 => .scratch
  | 3 => .scratch
  | 5 => .peer
  | _ => .device

def destSide (kind : Nat) : CopySide :=
  match kind with
  | 0 => .scratch
  | 3 => .commons
  | 4 => .peer
  | _ => .device

/-- A request taken apart (R148). -/
def CopyReq.parse (x : Nat) (id blk gid : Nat) (by_ : HitBy) : CopyReq :=
  { id := id, team := by_.team, blk := blk, gid := gid, pc := by_.pc, word := by_.word, homes := by_.homes, after := by_.after, inHandler := false, isHeir := false, kind := BitVec.ofNat 3 x, dst := BitVec.ofNat 64 (bitsOf x 255 192),
    src := BitVec.ofNat 64 (bitsOf x 191 128), dstride := BitVec.ofNat 32 (bitsOf x 127 96), sstride := BitVec.ofNat 32 (bitsOf x 95 64),
    len := bitsOf x 63 40, rows := bitsOf x 39 24, bar := 16 * bitsOf x 23 7, peer := bitsOf x 5 3, moved := [], counted := 0,
    status := 0, paused := none }

/-- Address of byte k of row r on a side, as an integer. -/
def copyAt (base : Double) (stride : Word) (r k : Nat) : Int := (base.toNat : Int) + (r : Int) * stride.toInt + k

/-- The same as a 64-bit address. -/
def copyAddr (base : Double) (stride : Word) (r k : Nat) : Double := BitVec.ofInt 64 (copyAt base stride r k)

/-- Bytes that a request counts down in all (R152). -/
def CopyReq.total (q : CopyReq) : Nat := q.len * q.rows

/-- Pieces of a commons range that lie in one half of one contribution each. -/
def commonsPieces (a len : Nat) : List (Nat × Nat) :=
  if len = 0 then []
  else
    (List.range ((a + len - 1) / 2 ^ 18 - a / 2 ^ 18 + 1)).map fun i =>
      let lo := if i = 0 then a else (a / 2 ^ 18 + i) * 2 ^ 18
      let hi := (a / 2 ^ 18 + i + 1) * 2 ^ 18
      (lo, (if hi ≤ a + len then hi else a + len) - lo)

/-- Every byte of a commons range lies in a contribution of the process's window, and no destination byte in the cache region
(R131, R132, R290). -/
def State.commonsRange (s : State) (die : Nat) (p : Process) (a : Int) (len : Nat) (write : Bool) : Bool :=
  decide (0 ≤ a) && decide (a + len ≤ 2 ^ 32) &&
  (commonsPieces a.toNat len).all fun x =>
    match s.commonsAt die x.1 x.2 with
    | some (c, off) => p.hasCore c && !(write && s.inCache c off x.2)
    | none => false

/-- The rejection status of one side, if it lies out of range. -/
def State.sideStatus (s : State) (b : Block) (p : Process) (side : CopySide) (base : Double) (stride : Word) (q : CopyReq) (write : Bool) :
    List Byte :=
  let rows := List.range q.rows
  match side with
  | .scratch =>
    if rows.all (fun r => decide (0 ≤ copyAt base stride r 0) && decide (copyAt base stride r q.len ≤ b.scrsz)) then []
    else [copyScratchRange]
  | .commons =>
    if rows.all (fun r => s.commonsRange b.die p (copyAt base stride r 0) q.len write) then [] else [copyCommonsRange]
  | .device =>
    if rows.all (fun r => canonical (copyAddr base stride r 0) && canonical (copyAddr base stride r (q.len - 1))) then []
    else [copyAddress]
  | .peer =>
    if rows.all (fun r => canonical (copyAddr base stride r 0) && canonical (copyAddr base stride r (q.len - 1))) then []
    else [copyAddress]

/-- The barrier object lies in scratch and has an INIT. -/
def Block.barOk (b : Block) (off : Nat) : Bool := off + 16 ≤ b.scrsz && bitsOf (b.obj off) 103 64 != 0

/-- Every status that a request deserves (R148). -/
def State.copyFaults (s : State) (b : Block) (p : Process) (x : Nat) (q : CopyReq) : List Byte :=
  let kind := q.kind.toNat
    let peer := kind = 4 || kind = 5
    (if kind ≥ 6 then [copyBadKind] else []) ++
    (if x.testBit 6 || (!peer && q.peer != 0) then [copyReserved] else []) ++
    (if q.len = 0 || q.rows = 0 then [copyBadShape]
     else if kind ≥ 6 then []
     else s.sideStatus b p (destSide kind) q.dst q.dstride q true ++ s.sideStatus b p (sourceSide kind) q.src q.sstride q false) ++
    (if b.barOk q.bar then [] else [copyBadBarrier]) ++
    (if peer && (p.peers[q.peer]?).join.isNone then [copyPeer] else [])

/-- Sets ERR of a barrier object (R152). -/
def State.setErr (s : State) (blk off : Nat) : State :=
  match s.block? blk with
  | none => s
  | some b => s.putObj blk off (Nat.lor (b.obj off) (2 ^ 126))

/-- Records an item in the team's open batch. -/
def State.batchItem (s : State) (uid : Nat) (i : BatchItem) : State :=
  s.modTeam uid fun t => { t with openBatch := t.openBatch ++ [i] }

/-- A copy of KIND 4 or 5 of a sampled block or a shadow is listed (R179). -/
def State.listPeer (s : State) (b : Block) (q : CopyReq) (st : Option Byte) : State :=
  if (b.sampled || b.shadowOf.isSome) && (q.kind == 4 || q.kind == 5) then
    s.modTeam q.team fun t => { t with peerCopies := t.peerCopies ++ [{ req := q.id, status := st, sum := 0 }] }
  else s

/-- Hands the request at a scratch offset to the core's Courier, or rejects it (R148, R149). A shadow's peer copy changes
nothing and waits at its Courier for the status of the original's (R179). -/
def State.postCopy (s : State) (t : Team) (by_ : HitBy) (off : Nat) : State :=
  match s.blockOf t, s.procOf t with
  | some b, some p =>
    let x := Memory.readNat b.scratch off 32
    let s := s.checkWatch by_ (.scratch b.uid off) off 32 .load
    let q := { CopyReq.parse x s.nextUid t.blk t.gid by_ with inHandler := t.inHandler, isHeir := t.isHeir }
    let faults := s.copyFaults b p x q
    let s := { s with nextUid := s.nextUid + 1 }
    let accept (s : State) : State :=
      ((s.listPeer b q none).batchItem t.uid { req := q.id, status := 0, done := false }).modCore t.core fun c => { c with courier := c.courier ++ [q] }
    if b.shadowOf.isSome && (q.kind == 4 || q.kind == 5) then accept s
    else
    match faults with
    | f0 :: _ =>
      let st := (faults[Config.copyStatus s.tick % faults.length]?).getD f0
      let s := (s.ticked.listPeer b q (some st)).batchItem t.uid { req := q.id, status := st, done := true }
      if b.barOk q.bar then (s.countDownAt by_ t.blk q.bar q.total).1.setErr t.blk q.bar else s
    | [] => accept s
  | _, _ => s

/-- The Courier of the core is full (R149). -/
def State.courierFull (s : State) (core : Nat) : Bool := decide ((s.coreAt core).courier.length ≥ 256)

/-! ### Instructions made once for the team under the guard -/

/-- A guarded instruction that acts once when a running lane passes the guard, and not at all otherwise. -/
def onceGuarded (x : Srcs) (k : Check) (f : Ctx → Team → Mask → State → State) : Ctx → Team → State → State :=
  checked true x k fun c t live s => if live = 0 then s.finishTeam c id c.next else f c t live s

/-- CPOST (R343). -/
def execCpost (m : Mods) (a : Reg) (s : State) : Out :=
  issue (.cpost m a) s fun c t s =>
    let x := scalars (some a) none
    onceGuarded x Check.none (fun c t live s =>
      let off := (c.readTeam t s.tick x 0).toNat
      let keep := c.capture t s.tick x live
      if off % 32 != 0 then s.takeTrap c { trapOf 0x0A with vaddr := BitVec.ofNat 64 off } live (some keep) c.next
      else if !(s.blockOf t).any (fun b => off + 32 ≤ b.scrsz) then
        s.takeTrap c { trapOf 0x0C with vaddr := BitVec.ofNat 64 off, info := 1 } live (some keep) c.next
      else if s.courierFull t.core then s.wait c (.cpost off) keep
      else
        let s := s.release c.uid
        (s.postCopy t (c.hitTeam t live) off).finishTeam c id c.next) c t s

/-! ### Batches (R153) -/

/-- Number of the k-th batch of a team: 1, 2, …, 2^32 − 1, 1, 2, …. -/
def batchNumber (k : Nat) : Word := BitVec.ofNat 32 ((k - 1) % (2 ^ 32 - 1) + 1)

/-- The latest batch of a closed number among the team's last 2^31, by its place in the sequence (R153). -/
def Team.batchOf (t : Team) (n : Word) : Option Nat :=
  if n = 0 || t.batchCount = 0 then none
  else
    let dist := ((batchNumber t.batchCount).toNat + (2 ^ 32 - 1) - n.toNat) % (2 ^ 32 - 1)
    if dist < 2 ^ 31 && dist < t.batchCount then some (t.batchCount - dist) else none

def itemsDone (l : List BatchItem) : Bool := l.all BatchItem.done

/-- Closes the open batch: the 64 most recent are kept, and every one that is not complete. -/
def Team.closeBatch (t : Team) : Team :=
  let k := t.batchCount + 1
  { t with batchCount := k, openBatch := [],
           batches := ((k, t.openBatch) :: t.batches).filter fun b => decide (k < b.1 + 64) || !itemsDone b.2 }

/-- CBATCH (R338). -/
def execCbatch (m : Mods) (d : Reg) (s : State) : Out :=
  issue (.cbatch m d) s fun c t s =>
    onceGuarded Srcs.none (Check.operand (t.hasS d.toNat)) (fun c _ _ s =>
      s.finishTeam c (fun t => let t := t.closeBatch; t.putS d.toNat (batchNumber t.batchCount)) c.next) c t s

/-- Batch k and every earlier one are complete. -/
def Team.batchesDone (t : Team) (k : Nat) : Bool := t.batches.all fun b => decide (k < b.1) || itemsDone b.2

/-- CWAIT (R348). -/
def execCwait (m : Mods) (a : Reg) (s : State) : Out :=
  issue (.cwait m a) s fun c t s =>
    let x := scalars (some a) none
    onceGuarded x Check.none (fun c t live s =>
      let n : Word := (c.readTeam t s.tick x 0).setWidth 32
      if n = 0 then s.finishTeam c id c.next
      else
        match t.batchOf n with
        | none => s.trapAtIssue c t x live illegalOperand (c.lanes t)
        | some k => if t.batchesDone k then s.finishTeam c id c.next else s.wait c (.cwait n) (c.capture t s.tick x live)) c t s

/-- The status word of a closed batch (R153). -/
def Team.batchStatus (t : Team) (n : Word) : Word :=
  if n = 0 then 0x200
  else
    match t.batchOf n with
    | none => 0
    | some k =>
      if k + 64 ≤ t.batchCount then 0x3FF
      else
        match t.batches.lookup k with
        | none => 0x3FF
        | some l =>
          let bad := (l.map BatchItem.status).find? fun x => x != 0
          (if itemsDone l then 0x200#32 else 0) ||| (if bad.isSome then 0x100#32 else 0) ||| (bad.getD 0).setWidth 32

/-- CSTAT (R344). -/
def execCstat (m : Mods) (d a : Reg) (s : State) : Out :=
  issue (.cstat m d a) s fun c t s =>
    let x := scalars (some a) none
    onceGuarded x (Check.operand (t.hasS d.toNat)) (fun c t _ s =>
      let n : Word := (c.readTeam t s.tick x 0).setWidth 32
      s.finishTeam c (fun t => t.putS d.toNat (t.batchStatus n)) c.next) c t s

end Sys2Proof.Machine
end

