-- ==== Sys2Proof/Machine/Holdings.lean ====
section
/-! DEFINITION. The estate table (spec/15 R261 to R263): entering and releasing holdings. -/

namespace Sys2Proof.Machine

open Sys2Proof

/-- Kinds of holding (R261). -/
def kindLock : BitVec 3 := 1
def kindPromise : BitVec 3 := 2
def kindMatrix : BitVec 3 := 3
def kindTickets : BitVec 3 := 4

/-- The estate table of a team. -/
abbrev Estate := Vector EstateSlot 32

def Estate.slot (e : Estate) (k : Nat) : EstateSlot := vget e k (.free 1)

/-- The lowest-numbered free slot. -/
def Estate.freeSlot (e : Estate) : Option Nat := e.toList.findIdx? fun x => x.kind == 0

def Estate.freeCount (e : Estate) : Nat := (e.toList.filter fun x => x.kind == 0).length

/-- The slot of a holding. -/
def Estate.find (e : Estate) (kind : BitVec 3) (addr : Double) : Option Nat :=
  e.toList.findIdx? fun x => x.kind == kind && x.addr == addr

/-- The largest SEQ of an occupied slot, 0 when none is occupied. -/
def Estate.topSeq (e : Estate) : Nat := e.toList.foldl (fun m x => if x.kind != 0 && m < x.seq.toNat then x.seq.toNat else m) 0

/-- Renumbers the occupied slots 1 to n in their existing order. -/
def Estate.renumber (e : Estate) : Estate :=
  let l := e.toList
  e.mapIdx fun i x =>
    if x.kind = 0 then x
    else
      let before := (l.zipIdx.filter fun (y, j) => y.kind != 0 && (y.seq < x.seq || (y.seq == x.seq && j < i))).length
      { x with seq := BitVec.ofNat 32 (before + 1) }

/-- Enters a holding; the slot keeps its heir fields (R262). None when no slot is free. -/
def Estate.enter (e : Estate) (kind : BitVec 3) (addr : Double) (count : Nat) (brv : Bool) : Option (Nat × Estate) :=
  match e.freeSlot with
  | none => none
  | some k =>
    let e := if e.topSeq + 1 < 2 ^ 32 then e else e.renumber
    let x := e.slot k
    some (k, vput e k { x with kind := kind, addr := addr, count := BitVec.ofNat 32 count, seq := BitVec.ofNat 32 (e.topSeq + 1), brv := brv })

/-- A released slot returns to its reset values (R262). -/
def Estate.release (e : Estate) (k : Nat) (hkind : BitVec 2) : Estate := vput e k (.free hkind)

/-- The default heir kind of a team's grid (R261). -/
def State.heirKind (s : State) (t : Team) : BitVec 2 := if (s.gridOf t).any Grid.heirDef then 2 else 1

/-- Enters a holding in a team's table. -/
def State.enterHolding (s : State) (t : Team) (kind : BitVec 3) (addr : Double) (count : Nat) : State :=
  match Estate.enter t.estate kind addr count false with
  | none => s
  | some (_, e) => s.modTeam t.uid fun u => { u with estate := e }

/-- Frees the team's slot of a holding, if there is one. -/
def State.freeHolding (s : State) (t : Team) (kind : BitVec 3) (addr : Double) : State :=
  match Estate.find t.estate kind addr with
  | none => s
  | some k => s.modTeam t.uid fun u => { u with estate := Estate.release u.estate k (s.heirKind t) }

end Sys2Proof.Machine
end

