-- ==== Sys2Proof/Machine/Estate.lean ====
section
/-! DEFINITION. Class B, holdings (spec/15 R261 to R268; R325, R355, R363, R368, R375, R393, R417, R424): estate slots, lock and
promise words. -/

namespace Sys2Proof.Machine

open Sys2Proof

/-! ### Lock and promise words (R265, R266) -/

def lockOwner (w : Nat) : Nat := w / 2 ^ 32 % 2 ^ 32
def lockPoisoned (w : Nat) : Bool := w.testBit 31
def lockBereaved (w : Nat) : Bool := w.testBit 30
def lockWaiters (w : Nat) : Nat := w % 2 ^ 16

/-- A lock word; the reserved field is written 0. -/
def mkLock (owner : Nat) (poisoned bereaved : Bool) (waiters : Nat) : Nat :=
  owner * 2 ^ 32 + (if poisoned then 2 ^ 31 else 0) + (if bereaved then 2 ^ 30 else 0) + waiters % 2 ^ 16

/-- WAITERS + 1; 0xFFFF sticks. -/
def moreWaiters (n : Nat) : Nat := if n = 0xFFFF then n else n + 1

/-- WAITERS − 1; 0xFFFF sticks. -/
def fewerWaiters (tick n : Nat) : Nat :=
  if n = 0xFFFF then n else if n = 0 then (Config.waitersBelow tick).toNat else n - 1

def lockWithWaiters (w n : Nat) : Nat := mkLock (lockOwner w) (lockPoisoned w) (lockBereaved w) n

def promiseState (w : Nat) : Nat := w % 4
def promiseBereaved (w : Nat) : Bool := w.testBit 3

/-- A promise word; the reserved fields are written 0. -/
def mkPromise (value state : Nat) (bereaved : Bool) : Nat := value % 2 ^ 32 * 2 ^ 32 + (if bereaved then 8 else 0) + state % 4

/-- What AWAIT writes of a word that is not empty: STATE 3 reads as broken. -/
def awaitStatus (w : Nat) : Word :=
  BitVec.ofNat 32 ((if promiseState w = 1 then 0 else 1) + if promiseBereaved w then 0x100 else 0)

/-- The word at its home. -/
def State.wordAt (s : State) (tg : Target) : Nat := leNat (s.homeBytes tg 8)

/-- Writes the word at its home, and in the L1 of the core that does. -/
def State.putWord (s : State) (core : Nat) (tg : Target) (v : Nat) : State :=
  let bs := leBytes 8 v
  let s := s.writeHome tg bs false
  match tg with
  | .phys pa => s.modCore core fun k => k.patchLine pa bs
  | _ => s

/-- The team writes the word itself (R180). -/
def State.putOwn (s : State) (t : Team) (live : Mask) (tg : Target) (va : Double) (v : Nat) : State :=
  (s.putWord t.core tg v).digestWord t live va v

/-! ### One access to a word (R264, R423, R424) -/

def wordAccess (x : Srcs) (kind : AccKind) (c : Ctx) (tick : Nat) : Access :=
  { space := .device, x := x, aligned := true, spill := false, kind := kind, frees := [], chunks := fun t p => [(c.address tick x .device 0 t p, 8)] }

/-- How an instruction of class B finds its word. -/
inductive WordEnd where
  /-- the word's place and its address, the team's older stores that the instruction orders performed -/
  | ok (tg : Target) (va : Double) (s : State)
  /-- it is uncorrectable under the best-effort policy, and counted -/
  | bad (va : Double) (s : State)
  | stop (s : State)

/-- Reaches the word at the pair a; `own` adds a check between alignment and the access. A release performs all the team's older
stores (R165); the others perform those to the word alone, as they order no other location before them (R170, R171). -/
def State.reachWord (s : State) (c : Ctx) (t : Team) (x : Srcs) (live : Mask) (kind : AccKind) (releases : Bool) (own : Double → Bool) : WordEnd :=
  let va := c.readTeam t s.tick x 0
  let keep := c.capture t s.tick x live
  if va.toNat % 8 != 0 then .stop (s.takeTrap c { trapOf 0x0A with vaddr := va } live (some keep) c.next)
  else if !own va then .stop (s.takeTrap c { trapOf 0x0C with vaddr := va } live (some keep) c.next)
  else
    match s.once c t (wordAccess x kind c s.tick) live with
    | .stop s => .stop s
    | .done pl s =>
      let tg := (pl.headD (.phys 0, 0, 8)).1
      if s.badLane t.core pl then
        if s.isStrict t then .stop ((s.consumed tg).takeTrap c { trapOf 0x0B with vaddr := va, info := 0x10000#64 } live (some keep) c.next)
        else .bad va (s.consumed tg)
      else
        let s := if releases then s.releaseAt c.uid 4 else s.drainFor c.uid tg 8
        .ok tg va (s.checkWatch (c.hitBy t ((lowestLane live).getD 0)) tg va.toNat 8 kind)

/-- The pair that holds a word's address, and a second scalar. -/
def wordSrcs (a : Reg) (b : Option Reg) : Srcs :=
  { a := .s a.toNat true, b := (b.map fun r => Src.s r.toNat false).getD .none, d := .none }

/-- An instruction of class B that has no effect in a shadow (R179). -/
def noShadow (s0 : State) (c : Ctx) (t : Team) (live : Mask) (s : State) (f : State → State) : State :=
  if s.isShadow t then s.inShadow s0 t live fun _ s => s.finishTeam c id c.next else f s

/-! ### HEIR and ESTQ -/

/-- Sets the heir fields of a slot. -/
def Estate.setHeir (e : Estate) (l : LHeir) (tag : Word) : Estate :=
  let x := Estate.slot e l.slot.toNat
  vput e l.slot.toNat { x with hkind := l.kind, quiet := l.quiet, htag := if l.kind = 0 then tag else x.htag }

/-- HEIR (R368). -/
def execHeir (m : Mods) (a : Reg) (l : LHeir) (s : State) : Out :=
  issue (.heir m a l) s fun c t s =>
    let x : Srcs := if l.kind = 0 then scalars (some a) none else Srcs.none
    onceGuarded x (Check.operand (l.kind != 3)) (fun c t _ s =>
      let tag : Word := (c.readTeam t s.tick x 0).setWidth 32
      s.finishTeam c (fun u =>
        { u with estate := Estate.setHeir u.estate l tag }) c.next) c t s

/-- The item of ESTQ (R264). -/
def Team.estateItem (t : Team) (i : Nat) : Word :=
  let slot (k : Nat) : EstateSlot := Estate.slot t.estate k
  if i < 32 then BitVec.ofNat 32 ((slot i).pack % 256)
  else if i < 64 then (slot (i - 32)).addr.setWidth 32
  else if i < 96 then (slot (i - 64)).addr.extractLsb' 32 32
  else if i < 128 then (slot (i - 96)).count
  else if i = 128 then (List.range 32).foldl (fun w k => if (slot k).brv then w ||| (1#32 <<< k) else w) 0
  else if i = 129 then BitVec.ofNat 32 (Estate.freeCount t.estate)
  else t.tag

/-- ESTQ (R355); a set bit of item 128 is an acquire at device scope (R268). -/
def execEstq (m : Mods) (d a : Reg) (s0 : State) : Out :=
  issue (.estq m d a) s0 fun c t s =>
    let x := scalars (some a) none
    onceGuarded x (Check.operand (t.hasS d.toNat)) (fun c t live s =>
      let i := (c.readTeam t s.tick x 0).toNat
      if i ≥ 131 then s.trapAtIssue c t x live illegalOperand (c.lanes t)
      else if s.isShadow t then
        s.inShadow s0 t live fun rs s => s.finishTeam c (fun u => u.putS d.toNat ((firstResult rs).headD 0)) c.next
      else
        let v := t.estateItem i
        let s := if i = 128 then
            (if v = 0 then s else s.acquire t.core 4).modTeam c.uid fun u => { u with estate := u.estate.map fun e => { e with brv := false } }
          else s
        (s.logLive c live [v]).finishTeam c (fun u => u.putS d.toNat v) c.next) c t s

/-! ### Locks (R375, R417) -/

def lockPoisonedAt (va info : Double) : TrapInfo := { trapOf 0x15 with vaddr := va, info := info }

/-- The team acquires: OWNER, the holding, and the acquire at device scope. -/
def State.acquireLock (s : State) (t : Team) (live : Mask) (tg : Target) (va : Double) (waiters : Nat) : State :=
  ((s.putOwn t live tg va (mkLock t.tag.toNat false false waiters)).enterHolding t kindLock va 0).acquire t.core 4

/-- LOCK (R375). -/
def execLock (m : Mods) (d a : Reg) (s0 : State) : Out :=
  issue (.lock m d a) s0 fun c t s =>
    let x := wordSrcs a none
    onceGuarded x (Check.operand (t.hasP d.toNat)) (fun c t live s =>
      if s.isShadow t then
        s.inShadow s0 t live fun rs s =>
          (s.acquire t.core 4).finishTeam c (fun u => (u.passed (extraPasses (c.lanes t))).putP (c.lanes u) d.toNat ((firstResult rs).headD 0 != 0)) c.next
      else
        let keep := c.capture t s.tick x live
        match s.reachWord c t x live .atomic false fun _ => true with
        | .stop s => s
        | .bad va s => s.takeTrap c (lockPoisonedAt va 0x10000#64) live (some keep) c.next
        | .ok tg va s =>
          let w := s.wordAt tg
          if lockPoisoned w then s.takeTrap c (lockPoisonedAt va 0) live (some keep) c.next
          else if lockOwner w = 0 && (Estate.freeSlot t.estate).isSome then
            let found := lockBereaved w
            ((s.acquireLock t live tg va (lockWaiters w)).logLive c live [if found then 1 else 0]).finishTeam c
              (fun u => (u.passed (extraPasses (c.lanes t))).putP (c.lanes u) d.toNat found) c.next
          else
            (s.putOwn t live tg va (lockWithWaiters w (moreWaiters (lockWaiters w)))).wait c (.lock (d.setWidth 4) va (c.lanes t)) keep) c t s

/-- UNLOCK (R417). -/
def execUnlock (m : Mods) (a : Reg) (s0 : State) : Out :=
  issue (.unlock m a) s0 fun c t s =>
    let x := wordSrcs a none
    onceGuarded x Check.none (fun c t live s =>
      noShadow s0 c t live s fun s =>
        match s.reachWord c t x live .atomic true fun va => (Estate.find t.estate kindLock va).isSome with
        | .stop s => s
        | .bad va s => ((s.freeHolding t kindLock va).logLive c live []).finishTeam c id c.next
        | .ok tg va s =>
          let w := s.wordAt tg
          (((s.putOwn t live tg va (mkLock 0 (lockPoisoned w) (lockBereaved w) (lockWaiters w))).freeHolding t kindLock va).logLive c live []).finishTeam c id c.next) c t s

/-! ### Promises (R325, R363, R393) -/

/-- PROM (R393). -/
def execProm (m : Mods) (a : Reg) (s0 : State) : Out :=
  issue (.prom m a) s0 fun c t s =>
    let x := wordSrcs a none
    onceGuarded x Check.none (fun c t live s =>
      noShadow s0 c t live s fun s =>
        let enter (va : Double) (s : State) : State :=
          if (Estate.find t.estate kindPromise va).isSome then s else s.enterHolding t kindPromise va 0
        match s.reachWord c t x live .atomic false fun _ => true with
        | .stop s => s
        | .bad va s => ((enter va s).logLive c live []).finishTeam c id c.next
        | .ok tg va s =>
          let held := (Estate.find t.estate kindPromise va).isSome || (Estate.freeSlot t.estate).isSome
          ((enter va (s.putOwn t live tg va (mkPromise 0 (if held then 0 else 2) false))).logLive c live []).finishTeam c id c.next) c t s

/-- FULFIL (R363). -/
def execFulfil (m : Mods) (a b : Reg) (s0 : State) : Out :=
  issue (.fulfil m a b) s0 fun c t s =>
    let x := wordSrcs a (some b)
    onceGuarded x Check.none (fun c t live s =>
      noShadow s0 c t live s fun s =>
        match s.reachWord c t x live .atomic true fun va => (Estate.find t.estate kindPromise va).isSome with
        | .stop s => s
        | .bad va s => ((s.freeHolding t kindPromise va).logLive c live []).finishTeam c id c.next
        | .ok tg va s =>
          let v := (c.readTeam t s.tick x 1).toNat
          (((s.putOwn t live tg va (mkPromise v 1 (promiseBereaved (s.wordAt tg)))).freeHolding t kindPromise va).logLive c live []).finishTeam c
            id c.next) c t s

/-- AWAIT (R325). -/
def execAwait (m : Mods) (d a : Reg) (s0 : State) : Out :=
  issue (.await m d a) s0 fun c t s =>
    let x := wordSrcs a none
    onceGuarded x (Check.operand (t.hasS d.toNat)) (fun c t live s =>
      if s.isShadow t then
        s.inShadow s0 t live fun rs s =>
          (s.acquire t.core 4).finishTeam c (fun u => u.putS d.toNat ((firstResult rs).headD 0)) c.next
      else
        let give (v : Word) (s : State) : State :=
          ((s.acquire t.core 4).logLive c live [v]).finishTeam c (fun u => u.putS d.toNat v) c.next
        match s.reachWord c t x live .load false fun _ => true with
        | .stop s => s
        | .bad _ s => give 0xDEADDEAD s
        | .ok tg va s =>
          let w := s.wordAt tg
          if promiseState w = 0 then s.wait c (.await d va) (c.capture t s.tick x live) else give (awaitStatus w) s) c t s

end Sys2Proof.Machine
end

