-- ==== Sys2Proof/Machine/Contexts.lean ====
section
/-! DEFINITION. Save and restore handler contexts (spec/09 R212, R213; spec/03 R54, R63, R73, R75; R283, R317): entering and leaving
one, and what the part does once every team of a block has left its own. The events that begin pre-emption and resumption
stand in Preempt.lean. -/

namespace Sys2Proof.Machine

open Sys2Proof

/-! ### Entering and leaving -/

/-- The private registers of a context at its entry (R213). -/
def contextScalars (b : Block) (g : Grid) (tix : Nat) : Vector Word 64 :=
  let lo (x : Double) : Word := x.setWidth 32
  let hi (x : Double) : Word := x.extractLsb' 32 32
  [(0, lo b.saveBase), (1, hi b.saveBase), (2, lo b.bimga), (3, hi b.bimga), (4, BitVec.ofNat 32 tix), (5, BitVec.ofNat 32 g.teams)].foldl
    (fun v x => vput v x.1 x.2) (Vector.replicate 64 0)

/-- The thread that stands for home lane h in a context. -/
def contextThread (h : Nat) (th : Thread) : Thread :=
  let x := Thread.entry h
  { x with pos := th.pos, v := vput x.v 0 (BitVec.ofNat 32 h) }

/-- The team enters its save or restore handler. -/
def Team.enterContext (t : Team) (b : Block) (g : Grid) (restore : Bool) (entry : Double) : Team :=
  let a : SetAside :=
    { restore := restore, threads := t.threads, s := t.s, mode := t.mode, mask := t.mask, pc := t.pc, nvec := t.nvec, nscal := t.nscal,
      run := t.run, active := t.frame.active, stack := t.stack, replay := t.replay, resumed := t.resumed, inflight := t.inflight }
  { t with
    threads := t.threads.zipIdx.map fun (th, h) => contextThread h th, s := contextScalars b g t.tix, mode := 0, mask := fullMask t.ngrp,
    pc := entry, nvec := 8, nscal := 8, run := .ready, stack := [], replay := [], resumed := false, inflight := [], recent := [],
    frame := { t.frame with active := if restore then 3 else 2 }, aside := some a }

/-- The context's private registers are discarded, and ACTIVE takes the value it had (R403). -/
def Team.leaveContext (t : Team) : Team :=
  match t.aside with
  | none => t
  | some a =>
    { t with
      threads := a.threads, s := a.s, mode := a.mode, mask := a.mask, pc := a.pc, nvec := a.nvec, nscal := a.nscal, run := a.run,
      stack := a.stack, replay := a.replay, resumed := a.resumed, inflight := a.inflight, recent := [],
      frame := { t.frame with active := a.active }, aside := none }

/-! ### Waiting instructions at pre-emption (R283, R317) -/

/-- The waiting instruction keeps its replay-queue entry with STATE 1 and is to be re-executed. An EXIT that waits for digests has
not been performed, and issues again. -/
def Team.parkWait (t : Team) : Team :=
  match t.run with
  | .waiting .digest => { t with run := .ready, waitEntry := .free }
  | .waiting _ =>
    let slot := t.waitRte.orElse fun _ => t.freeEntry
    let e := { t.waitEntry with state := 1 }
    { t with run := .ready, waitEntry := .free, waitRte := none,
             rq := match slot with | some k => vput t.rq k e | none => t.rq,
             replay := { slot := slot, entry := e, denied := [], rte := t.waitRte.isSome, again := true } :: t.replay }
  | _ => t

/-- Where a lock or promise word of a process stands, by a fresh walk (R425). -/
def State.wordPlace (s : State) (p : Process) (va : Double) : Except (Nat × Nat) Target :=
  match s.engineAddr p .store va.toNat with
  | .ok pa => .ok (.phys pa)
  | .error e => .error e

/-- WAITERS − 1 of a lock word, unless the word cannot be reached or is uncorrectable. -/
def State.leaveLock (s : State) (t : Team) (va : Double) : State :=
  match (s.procOf t).map fun p => s.wordPlace p va with
  | some (.ok tg) =>
    if s.uncorrectableAt t.core tg 8 then s
    else
      let w := s.wordAt tg
      (s.putWord t.core tg (lockWithWaiters w (fewerWaiters s.tick (lockWaiters w)))).ticked
  | _ => s

/-- The team has issued an instruction of which a pass waits, for the faults of its lanes or for room in the die's fault queue: it
finishes before pre-emption goes on. The count is of the replays that the team owes, that instruction's the first (R212). -/
def Team.unfinished (t : Team) : Option Nat :=
  let owed := match t.replay.head? with
    | some r => if r.entry.word != 0 && !r.again then some t.replay.length else none
    | none => none
  match t.run with
  | .wholePath _ => owed
  | .queueFull => owed
  | _ => t.mustFinish.filter fun n => n ≤ t.replay.length

/-- A team stops issue for pre-emption: its loads have finished and its stores are performed, atomic replies are not awaited,
and a waiting LOCK withdraws from WAITERS (R212). -/
def State.quiesce (s : State) (uid : Nat) : State :=
  let s := (s.drainAll uid).settleBounds uid
  match s.team? uid with
  | none => s
  | some t =>
    let t1 := { { t with inflight := t.inflight.filter fun f => !f.atomic }.deliver with inflight := t.inflight.filter fun f => f.atomic }
    let s := s.setTeam { t1.parkWait with recent := [], mustFinish := t1.unfinished }
    match t.run with
    | .waiting (.lock _ va _) => s.leaveLock t va
    | _ => s

/-! ### The end of pre-emption (R212, R75, R54) -/

def State.hasCopies (s : State) (b : Block) : Bool := (s.coreAt b.core).courier.any fun q => q.blk == b.uid

/-- No live team of the block is in a handler context. -/
def State.contextsDone (s : State) (b : Block) : Bool := (s.teamsOf b.uid).all fun t => t.aside.isNone || t.cause != 0

/-- A core's unit is held by a team of the block that lives; a dead team's holding is conveyed (R267, R280). -/
def State.holdsUnit (s : State) (b : Block) : Option Nat :=
  (s.coreAt b.core).reservation.filter fun u => (s.teamsOf b.uid).any fun t => t.uid == u && t.cause == 0

/-- Once every save handler has ended and no copy of the block is left, its image takes the tiles, accumulators, TFULL and MFLAGS, and
the block is off its core (R75, R212). The unit that one of its teams holds serves the core's other teams until the block resumes. -/
def State.finishPreempt (s : State) (blk : Nat) : State :=
  match s.block? blk with
  | none => s
  | some b =>
    if !(b.preempting && b.saving && s.contextsDone b && !s.hasCopies b) then s
    else
      let s := (s.teamsOf blk).foldl (fun s t => (s.drainAll t.uid).modTeam t.uid fun t => { t with preempted := true, tokenWait := none }) s
      let s := if (s.holdsUnit b).isSome then s.modCore b.core fun c => { c with reservation := none } else s
      s.modBlock blk fun b => { b.saveImage with preempting := false, saving := false, resident := false }

/-! ### The end of resumption (R73, R162, R212, R237, R261) -/

/-- A header byte as resumption reads it. -/
def Team.headerByte (t : Team) (off : Nat) : Nat := ((t.header.lookup off).getD (byteOf t.headerLow off)).toNat

def ChoiceState.outOfRange (c : ChoiceState) (cvcap : Nat) : Bool :=
  c.cap.toNat < 16 || cvcap < c.cap.toNat || c.cap.toNat % 16 != 0 || c.cap < c.n || c.cap < c.sn || c.cap < c.rn ||
    (c.sta >>> 6) != 0 || (c.accset >>> 1) != 0

def EstateSlot.outOfRange (e : EstateSlot) : Bool := e.resv != 0 || e.resv3 || e.hkind == 3 || e.kind.toNat ≥ 5

/-- MODE as resumption reads it (R66, R73). -/
def Team.headerMode (t : Team) : Word := BitVec.ofNat 32 (leNat ((List.range 4).map fun i => BitVec.ofNat 8 (t.headerByte (8 + i))))

/-- A mode value that the mode register cannot hold: a reserved bit set, or a reserved RND (R66, R73). -/
def badMode (m : Word) : Bool := m >>> 19 != 0 || modeRnd m ≥ 6

/-- A value read from the image lies outside its range: the team is killed. -/
def Team.badImage (t : Team) (cvcap : Nat) : Bool :=
  let depth := t.headerByte 0x012 + 256 * t.headerByte 0x013
  let count (n : Nat) : Bool := n < 8 || n > 64 || n % 8 != 0
  badMode t.headerMode || t.headerByte 0x00D > 4 || count (t.headerByte 0x00E) || count (t.headerByte 0x00F) || t.headerByte 0x010 = 0 || t.headerByte 0x010 > 32 ||
    t.headerByte 0x011 > 8 || depth > max 256 t.stack.length || t.frame.active.toNat > 3 || t.threads.any (fun th => th.flags.getLsbD 7) ||
    t.estate.toList.any EstateSlot.outOfRange || t.threads.any fun th => th.cv.outOfRange cvcap

/-- The stack of the depth that the header gives: entries beyond the top are dropped, and new ones hold no thread. -/
def Team.resizeStack (t : Team) : List PathEntry :=
  let depth := t.headerByte 0x012 + 256 * t.headerByte 0x013
  if depth ≤ t.stack.length then t.stack.drop (t.stack.length - depth)
  else List.replicate (depth - t.stack.length) (pathEntry 0 0) ++ t.stack

/-- Re-executions take their entries as the replay queue then holds them; one that is no longer in STATE 1 is dropped. -/
def Team.refreshReplays (t : Team) : List PendingReplay :=
  t.replay.filterMap fun r =>
    match r.slot with
    | some k =>
      if r.again then
        let e := vget t.rq k .free
        if e.state = 1 then some { r with entry := { e with pmask := e.pmask &&& fullMask t.ngrp } } else none
      else some r
    | none => some r

/-- The team is ready again: MODE and the spill-stack pointer are those of its image (R73, R128). -/
def Team.afterResume (t : Team) : Team :=
  let t1 := { t with stack := t.resizeStack, preempted := false, mode := t.headerMode, ssp := t.sspImage }
  { { t1 with replay := t1.refreshReplays, header := [] }.deliver with recent := [] }

/-- The instruction of a replay-queue entry is MLOOP or MTLD. -/
def ReplayEntry.isMatrix (e : ReplayEntry) : Bool := e.word >>> 22 == 0x240 || e.word >>> 22 == 0x241

/-- A matrix instruction of the team that nothing will re-execute any more is no longer unfinished (R279, R283). -/
def State.dropStaleJobs (s : State) (uid : Nat) : State :=
  match s.team? uid with
  | none => s
  | some t =>
    if t.replay.any fun r => r.entry.isMatrix then s
    else s.modBlock t.blk fun b => { b with jobs := b.jobs.filter fun j => j.team != uid }

/-- One team of a resumed block goes on, or ends because its image holds a value that is out of range, or an ended cause. -/
def State.resumeTeam (s : State) (t : Team) : State :=
  let cvcap := ((s.gridOf t).map Grid.cvcap).getD 16
  if t.cause != 0 then s
  else if t.badImage cvcap then s.endTeam t.uid causeFATAL
  else if t.headerByte 0x00D != 0 then s.endTeam t.uid (BitVec.ofNat 8 (t.headerByte 0x00D))
  else ((s.modTeam t.uid Team.afterResume).dropStaleJobs t.uid).acquire t.core 4

/-- Once every restore handler has ended, the scratch dirty bits are cleared and each team becomes ready. -/
def State.finishResume (s : State) (blk : Nat) : State :=
  match s.block? blk with
  | none => s
  | some b =>
    if !(b.resuming && s.contextsDone b) then s
    else
      let s := s.modBlock blk fun b => { b with resuming := false, sdirty := [] }
      (s.teamsOf blk).foldl (fun s t => s.resumeTeam ((s.team? t.uid).getD t)) s

/-- RTE of a save or restore handler context (R403): pre-emption or resumption then continues. -/
def State.endContext (s : State) (uid blk : Nat) : State :=
  ((s.drainAll uid).modTeam uid Team.leaveContext) |> fun s => (s.finishPreempt blk).finishResume blk

end Sys2Proof.Machine
end

