-- ==== Sys2Proof/Machine/Fetch.lean ====
section
/-! DEFINITION. Issue (spec/08 R191): which team may issue, fetching its instruction (spec/04 R77, spec/06 R140, R141),
instruction breakpoints (spec/11 R222), the schedule's inputs (log 1), and where a first instruction is placed (log 3). -/

namespace Sys2Proof.Machine

open Sys2Proof

/-- The team's block is being pre-empted, and it has still to finish an instruction that it had issued (R212). -/
def Team.finishing (t : Team) : Bool := t.cause == 0 && t.mustFinish.any fun n => n ≤ t.replay.length

/-- The team may issue: it is live, ready, resident and not held by the debugger, by pre-emption, or by a dump of its grid. -/
def State.mayIssue (s : State) (t : Team) : Bool :=
  t.cause == 0 && t.run == .ready && (t.stop.isNone || t.grant) &&
  (match s.block? t.blk with
    | some b =>
      if b.preempting && !b.saving then t.finishing
      else if b.preempting || b.resuming then t.aside.isSome
      else b.resident
    | none => false) &&
  !s.dumpStops t.gid

/-- The word that the core's instruction cache gives at a physical address, and the state after the read: a line that differs from
its home may still serve, and an absent line is filled (log 71). -/
def State.readCode (s : State) (core pa : Nat) : Word × State :=
  let fresh : Word := BitVec.ofNat 32 (Memory.readNat s.mem pa 4)
  let fill (s : State) : State := (s.latentFill pa []).modCore core fun c =>
    { c with icache := ({ line := pa / 128, data := BitVec.ofNat 1024 (Memory.readNat s.mem (pa / 128 * 128) 128) } ::
        c.icache.filter fun l => l.line != pa / 128).take 512 }
  match (s.coreAt core).icache.find? fun l => l.line == pa / 128 with
  | none => (fresh, fill s)
  | some l =>
    let kept := l.data.extractLsb' (8 * (pa % 128)) 32
    if kept = fresh then (fresh, s)
    else if Config.icacheKeeps s.tick l.line then (kept, s.ticked)
    else (fresh, fill s.ticked)

/-- Reads an instruction word at a virtual address. A fetch takes no bytes as data: an uncorrectable sector is a latent read (R146). -/
def State.fetchWord (s : State) (t : Team) (p : Process) (va : Nat) : Except (Nat × Nat) Word × State :=
  match s.translate t.core p .fetch va with
  | (.error e, s) => (.error e, s)
  | (.ok pa, s) =>
    let (w, s) := s.readCode t.core pa
    (.ok w, s)

/-- The context of a word that names no instruction. -/
def rawCtx (t : Team) (word lit : Word) : Ctx :=
  { i := .unassignedOpcode word, word := word, lit := lit, len := if takesLiteral (fieldsOf word).op then 8 else 4,
    pc := match t.replay.head? with | some r => r.entry.pc | none => t.pc,
    uid := t.uid, mode := match t.replay.head? with | some r => r.entry.mode | none => t.mode, rp := t.replay.head? }

/-- The replay-queue entry that an instruction of the team takes at issue: its operands, and the lanes that pass its guard (R202, R205).
Without one that it would take, the word alone and the running lanes. -/
def State.probeEntry (run : Instr → State → Out) (s : State) (t : Team) (c : Ctx) (i : Instr) : ReplayEntry :=
  let plain := c.capture t s.tick Srcs.none (c.lanes t)
  let probe := s.setTeam { t with run := .probing 0 0, absent := 0, auxAbsent := 0, fAbsent := 0 }
  match c.rp, t.freeEntry, run i { probe with turn := t.uid } with
  | none, some k, .next sp =>
    let e := ((sp.team? t.uid).map fun u => vget u.rq k .free).getD .free
    if e.state = 1 then { e with word := c.word, lit := c.lit } else plain
  | _, _, _ => plain

/-- Raises a cause against a word as a whole (R423). What it captures is what the word reads: with a literal that is refused, what it reads
with the literal 0. -/
def State.rawTrap (run : Instr → State → Out) (s : State) (t : Team) (word lit : Word) (ti : TrapInfo) : State :=
  let c := rawCtx t word lit
  let t1 := t.begin c
  let keep := match decodeWord word 0 with
    | .ok (.unassignedOpcode _) => c.capture t1 s.tick Srcs.none (c.lanes t1)
    | .ok i => s.probeEntry run t1 c i
    | .error _ => c.capture t1 s.tick Srcs.none (c.lanes t1)
  (s.setTeam t1).takeTrap c ti (c.lanes t1) (some keep) c.next

/-- Runs the instruction of a word, or raises what its decoding refuses (R76, R78). -/
def State.runWord (run : Instr → State → Out) (s : State) (t : Team) (word lit : Word) : Out :=
  match decodeWord word (if takesLiteral (fieldsOf word).op then lit else 0#32) with
  | .ok i => run i s
  | .error .unassignedIndex => .next (s.rawTrap run t word lit illegalOperand)
  | .error _ => .next (s.rawTrap run t word lit illegalEncoding)

/-- The breakpoint of the team's core that stands at its next instruction (R222). -/
def State.breakAt (s : State) (t : Team) : Option (Nat × Breakpoint) :=
  if t.passBreak = some t.pc then none
  else
    (s.coreAt t.core).breaks.toList.zipIdx.findSome? fun (b, i) =>
      match b with
      | some b => if b.addr = t.pc && b.gid = t.gid then some (i, b) else none
      | none => none

/-- BREAKPOINT (R200, R201, R222, R234): a debugged grid's team stops; otherwise the trap handler is entered. -/
def State.breakpoint (s : State) (c : Ctx) (info : Nat) (bcast : BitVec 2) (keep : Option ReplayEntry) (rpc : Double) : State :=
  match s.team? c.uid with
  | none => s
  | some t =>
    let ti : TrapInfo := { trapOf 0x13 with info := BitVec.ofNat 64 info }
    if (s.gridOf t).any Grid.debugged then
      (s.setTeam (t.stopFor c ti (c.lanes t) rpc 0 true)).sendNotices t.gid t.core t.core bcast
    else s.takeTrap c ti (c.lanes t) keep rpc

/-- The instruction has issued, and its path has not been parked before it (R29): it committed, or issued a pass, or raised a cause. -/
def Team.hasIssued (t0 t : Team) : Bool := t.insn != t0.insn || t.passes != t0.passes || t.frame != t0.frame

/-- What the debugger keeps of an issue: a granted step is used up, and a debugged grid's team adds to its
history the rows that the instruction issued passes for (R226, R228). -/
def Team.noteIssue (t : Team) (debugged : Bool) (rows : Word) (passes : Double) : Team :=
  let t := { t with grant := false }
  if debugged && t.passes != passes then { t with history := (rows :: t.history).take 64, issuedN := t.issuedN + 1 } else t

/-- The team waits at a barrier. -/
def Team.atBarrier (t : Team) : Bool :=
  match t.run with
  | .waiting (.bar _ _) => true
  | .waiting (.barw _ _) => true
  | .waiting (.gbar _) => true
  | _ => false

/-- After team `t0` has issued an instruction. A step into a barrier is reported (R228). -/
def State.noteIssue (s : State) (t0 : Team) : State :=
  let debugged := (s.gridOf t0).any Grid.debugged
  if debugged || t0.grant || t0.passBreak.isSome then
    let lanes := match t0.replay.head? with
      | some r => r.entry.pmask
      | none => t0.running
    let s1 := s.modTeam t0.uid fun t =>
      { t.noteIssue debugged (presenceOf lanes) t0.passes with
        passBreak := if t0.passBreak == some t0.pc && Team.hasIssued t0 t then none else t.passBreak }
    if t0.grant && (s1.team? t0.uid).any Team.atBarrier then s1.say "waiting at barrier: partner frozen" [t0.uid] else s1
  else s

def Out.afterIssue (o : Out) (t : Team) : Out :=
  match o with
  | .next s => .next (s.noteIssue t)
  | o => o

/-- Issues the fetched word at the team's pc. -/
def State.issueAt (run : Instr → State → Out) (s : State) (t : Team) (p : Process) : Out :=
  if !canonical t.pc then
    .next (s.rawTrap run t 0 0 { trapOf 0x0C with vaddr := t.pc })
  else
    match s.fetchWord t p t.pc.toNat with
    | (.error (cause, level), s) => .next (s.deferPath (rawCtx t 0 0) 3 t.pc cause level none)
    | (.ok word, s) =>
      let (litr, s) := if takesLiteral (fieldsOf word).op then s.fetchWord t p (t.pc + 4).toNat else (.ok 0#32, s)
      match litr with
      | .error (cause, level) => .next (s.deferPath (rawCtx t word 0) 3 t.pc cause level none)
      | .ok lit =>
        match s.breakAt t with
        | some (i, b) =>
          let c := rawCtx t word lit
          let keep := match decodeWord word lit with
            | .ok i => s.probeEntry run t c i
            | .error _ => c.capture t s.tick Srcs.none (c.lanes t)
          .next (s.breakpoint c i b.bcast (some keep)
            (if (s.gridOf t).any Grid.debugged then c.pc else c.next))
        | none => (s.runWord run t word lit).afterIssue t

/-- Issues one instruction, or one owed replay, of a team; an unready team issues nothing. -/
def State.issueTeam (run : Instr → State → Out) (uid : Nat) (s0 : State) : Out :=
  let s := { s0 with turn := uid }
  match s.team? uid with
  | none => .next s
  | some t =>
    if !s.mayIssue t then .next s
    else
      match t.replay with
      | r :: _ =>
        if r.entry.word = 0 && r.slot.isNone then
          -- a denied fetch: nothing was issued, and execution would go on at the same address
          let c := rawCtx t 0 0
          let t1 := t.begin c
          .next ((s.setTeam t1).takeTrap c
            { trapOf 0x0B with vaddr := c.pc, info := ((r.denied.head?.map Prod.snd).getD 0#12).setWidth 64 } (c.lanes t1) none c.pc)
        else (s.runWord run t r.entry.word r.entry.lit).afterIssue t
      | [] =>
        match s.procOf t with
        | none => .next s
        | some p => s.issueAt run t p

/-- Team u goes before team t in the choice of R191: the higher PRIO, then the most issue slots since it last issued, then the lowest
team slot. -/
def State.outranks (s : State) (u t : Team) : Bool :=
  let prio (x : Team) : Nat := ((s.gridOf x).map Grid.prio).getD 0
  prio t < prio u || (prio u == prio t && (t.since < u.since || (u.since == t.since && u.slot < t.slot)))

/-- The word that the team would issue next. -/
def State.nextWord (s : State) (t : Team) : Option Word :=
  match t.replay.head? with
  | some r => some r.entry.word
  | none =>
    match (s.procOf t).map fun p => s.engineAddr p .fetch t.pc.toNat with
    | some (.ok pa) => some (BitVec.ofNat 32 (Memory.readNat s.mem pa 4))
    | _ => none

/-- The class and function of an instruction word (R79 to R84). -/
def wordClass (w : Word) : Nat := (fieldsOf w).op.toNat / 64
def wordFn (w : Word) : Nat := (fieldsOf w).op.toNat % 64

/-- An instruction whose register results are of variable latency (R90). -/
def variableLatency (w : Word) : Bool :=
  match wordClass w with
  | 0 => wordFn w == 0x10
  | 1 => wordFn w == 0x0A || wordFn w == 0x0B
  | 2 => false
  | 3 => [0x0A, 0x0B, 0x0C, 0x0D, 0x1A, 0x1E, 0x2A, 0x2C].contains (wordFn w)
  | 4 => wordFn w == 1 || wordFn w == 2
  | 13 => wordFn w != 0
  | _ => true

/-- An instruction that reads flag bytes: FXC, FXR, SRD. -/
def readsFlags (w : Word) : Bool := (wordClass w == 1 && (wordFn w == 0x0A || wordFn w == 0x0B)) || (wordClass w == 13 && wordFn w == 0)

/-- A candidate that the schedule passes over is one that its stall count holds, or one of whose operands may be outstanding: of its
unfinished instructions, which are among the last 8 (R202), one is of variable latency, or writes flags that the next one reads
(R90, R91; log 1). -/
def State.mayLag (s : State) (t : Team) : Bool :=
  (t.lastWords.head?.any fun w => stallOf w != 0) || !t.inflight.isEmpty ||
    t.lastWords.any fun w => variableLatency w || ((wordClass w == 3 || wordClass w == 4) && (s.nextWord t).any readsFlags)

/-- A team issues in its slot: its lines are present (R53), it does not park before its instruction (R29), and its instruction does not
wait to issue, as an MLOOP does for its first tile or for a token (R191). -/
def issuesNow (t : Team) (o : Out) : Bool :=
  match o with
  | .next s => (s.team? t.uid).any fun u => Team.hasIssued t u
  | _ => true

/-- No other candidate of the team's quadrant goes before it. -/
def State.ranks (run : Instr → State → Out) (s : State) (t : Team) (stalled : List Nat) : Bool :=
  s.teams.all fun u =>
    u.uid == t.uid || u.core != t.core || u.quad != t.quad || !s.mayIssue u || !s.outranks u t ||
      (stalled.contains u.uid && s.mayLag u) || !issuesNow u (State.issueTeam run u.uid s)

/-- The quadrant has given issue slots to the team t0, one for each pass, and at least one; `w` is the word that it issued. -/
def State.noteSlot (s : State) (t0 : Team) (w : Option Word) : State :=
  let n := max 1 (((s.team? t0.uid).map fun t => (t.passes - t0.passes).toNat).getD 1)
  { s with teams := s.teams.map fun u =>
      if u.uid = t0.uid then { u with since := 0, tokenWait := none, lastWords := (w.toList ++ u.lastWords).take 8 }
      else if u.core = t0.core && u.quad = t0.quad then { u with since := u.since + n }
      else u }

def Out.noteSlot (o : Out) (t0 : Team) (w : Option Word) : Out :=
  match o with
  | .next s => .next (s.noteSlot t0 w)
  | o => o

/-! ### Lines that leave the register cache (R10, R53, R54) -/

/-- The register words of the team that a line holds (R52, R71). -/
def Team.inLine (t : Team) (l : RegLine) (x : SoftErrorSite) : Bool :=
  match l, x with
  | .vector k, .reg u h i => u == t.uid && i.toNat == k / 32 && (t.real.thread h).pos / 32 == k % 32
  | .aux k, .scalar u i => u == t.uid && k == i.toNat / 32
  | .aux k, .pred u i _ => u == t.uid && k == 2 + i.toNat
  | _, _ => false

/-- The poison marker in a 32-bit word (R146). -/
def markerWord : Word := 0xADDEADDE#32

/-- A register word is rewritten with the poison marker. -/
def Team.markWord (t : Team) (x : SoftErrorSite) : Team :=
  let r := t.real
  let w : Team := match x with
    | .reg _ h i => r.modThread h fun th => { th with v := vput th.v i.toNat markerWord }
    | .scalar _ i => { r with s := vput r.s i.toNat markerWord }
    | .pred _ i g => r.modLanes (onlyRow (fullMask r.ngrp) g) fun th => th.writeP i.toNat (markerWord.getLsbD (th.pos % 32))
    | _ => r
  t.putReal w

/-- A line of a live team leaves the register cache: it is written back when dirty (R53). An uncorrectable word of a dirty line is read
for it without being taken as data: that is latent, and the word is written as the poison marker (R209). One of a clean line leaves with
the line. -/
def State.evictLine (s : State) (uid : Nat) (l : RegLine) : State :=
  match s.team? uid with
  | none => s
  | some t =>
    if t.cause != 0 || t.real.isAbsent l || !t.real.hasLine l then s
    else
      let held := s.soft.filter (t.inLine l)
      if t.real.isDirty l then
        (held.foldl (fun s x => (s.count 3).modTeam uid fun t => t.markWord x) s).modTeam uid fun t => t.putReal (t.real.evict l)
      else { s with soft := s.soft.filter fun x => !held.contains x }.modTeam uid fun t => t.putReal (t.real.evict l)

/-- Lines of the teams on a core that are in its register cache. -/
def State.coreLines (s : State) (core : Nat) : List (Team × RegLine) :=
  (s.teams.filter fun t => t.core == core && t.cause == 0).flatMap fun t =>
    (t.real.lines.filter fun l => !t.real.isAbsent l).map fun l => (t, l)

/-- Of the lines of pre-empted teams, which are marked evictable, clean ones leave first (R54). -/
def State.mayEvict (s : State) (t : Team) (l : RegLine) : Bool :=
  !(t.preempted && t.real.isDirty l) || (s.coreLines t.core).all fun x => !(x.1.preempted && !x.1.real.isDirty x.2)

/-- The register cache holds 4,096 lines (R10). When a core's teams have more, those of pre-empted teams leave, clean ones first (R54), and
then others, those of team `keep` last of all, which the spec does not say (DESIGN CHOICE, log 7). -/
def State.fitCache (s : State) (keep core : Nat) : State :=
  let on := s.teams.filter fun t => t.core == core && t.cause == 0
  if (on.map fun t => t.nvec * t.ngrp + t.nvec + 26).sum ≤ 4096 then s
  else
    let ls := s.coreLines core
    let order := ls.filter (fun x => x.1.preempted && !x.1.real.isDirty x.2) ++ ls.filter (fun x => x.1.preempted && x.1.real.isDirty x.2) ++
      ls.filter (fun x => !x.1.preempted && x.1.uid != keep) ++ ls.filter fun x => !x.1.preempted && x.1.uid == keep
    (order.take (ls.length - 4096)).foldl (fun s x => s.evictLine x.1.uid x.2) s

def State.fit (s : State) (keep : Nat) : State := ((s.teams.map Team.core).eraseDups).foldl (fun s n => s.fitCache keep n) s

def Out.fit (o : Out) (keep : Nat) : Out :=
  match o with
  | .next s => .next (s.fit keep)
  | o => o

/-! ### Younger instructions at a trap (R202, R203) -/

/-- Causes that are raised at a pass, when younger instructions may have issued (R200). -/
def passCause (c : Byte) : Bool := c == 0x06 || (0x0A ≤ c && c ≤ 0x0D)

/-- An instruction that issues while an older one is unfinished: classes 1 to 5, without an order (R202). -/
def mayOverlap (w lit : Word) : Bool := 1 ≤ wordClass w && wordClass w ≤ 5 && !(wordClass w == 5 && lit.getLsbD 28)

/-- How many registers from its d an unfinished instruction may still write: two in classes 1 to 5; for the others, all. -/
def pendingRegs (w : Word) : Nat := if wordClass w ≤ 5 then 2 else 64

/-- What the instruction that stands next issues with, while the older one waits: the entry that it would take, the address after it, and
the state after its uncommitted results, unless it stops at a pass itself. None where it does not issue yet: it reads or rewrites what is
outstanding, has a cause of its own at issue, is not of the classes of R202, or finds no free entry. -/
def State.youngOne (run : Instr → State → Out) (uid d n : Nat) (s0 : State) : Option (ReplayEntry × Double × Option State) :=
  match s0.team? uid, (s0.team? uid).bind s0.procOf with
  | some t, some p =>
    match canonical t.pc && (s0.breakAt t).isNone, s0.fetchWord t p t.pc.toNat with
    | true, (.ok word, s1) =>
      let (litr, s2) := if takesLiteral (fieldsOf word).op then s1.fetchWord t p (t.pc + 4).toNat else (.ok 0#32, s1)
      match litr, t.freeEntry with
      | .ok lit, some k =>
        if !mayOverlap word lit || (d ≤ (fieldsOf word).d.toNat && (fieldsOf word).d.toNat < d + n) then none
        else
          match decodeWord word lit with
          | .ok i =>
            let after := t.pc + (if takesLiteral (fieldsOf word).op then 8 else 4)
            match run i (s2.modTeam uid fun u => { u with run := .probing d n }), run i s2 with
            | .next sp, .next sq =>
              let e := ((sp.team? uid).map fun u => vget u.rq k .free).getD .free
              let ran := (sq.team? uid).any fun u =>
                u.cause == 0 && u.run == .ready && u.frame == t.frame && u.replay.isEmpty && u.rq.toList == t.rq.toList && u.pc == after
              if e.state = 1 then some (e, after, if ran then some (sq.modTeam uid fun u => { u with rq := vput u.rq k e }) else none)
              else none
            | _, _ => none
          | .error _ => none
      | _, _ => none
    | _, _ => none
  | _, _ => none

/-- Up to k younger instructions are captured, in program order; RPC is the address after the last (R203). -/
def State.young (run : Instr → State → Out) (uid d n : Nat) : Nat → State → State → State
  | 0, ahead, s => { s with tick := ahead.tick }
  | k + 1, ahead, s =>
    match ahead.youngOne run uid d n with
    | none => { s with tick := ahead.tick }
    | some (e, after, next) =>
      let s := s.modTeam uid fun u =>
        { u with rq := (match u.freeEntry with | some j => vput u.rq j e | none => u.rq), frame := { u.frame with rpc := after } }
      match next with
      | some ahead => State.young run uid d n k ahead s
      | none => { s with tick := ahead.tick }

/-- Captures up to k younger instructions of a team that has entered its trap handler: from RPC on, under the mode and the mask that it
had, with the results that they find in `base`. `d` and `n` name what is still outstanding. -/
def State.younger (run : Instr → State → Out) (s base : State) (t : Team) (recent : List RecentWrite) (d n k : Nat) : State :=
  let f := t.frame
  let ahead := base.modTeam t.uid fun u =>
    { u with frame := { f with active := 0 }, mode := f.smode, mask := maskMinus f.smask u.retiredMask, pc := f.rpc, recent := recent,
             rq := t.rq }
  State.young run t.uid d n k ahead s

/-- The state that an instruction of fixed latency which raised ARITH_TRAP would have left: its results, which are not committed, are
forwarded to younger instructions within R91 (R202). -/
def State.forwarded (run : Instr → State → Out) (s0 : State) (t0 t : Team) : Option State :=
  if t.frame.cause != 0x06 || variableLatency t.frame.word then none
  else
    match State.issueTeam run t0.uid (s0.setTeam { t0 with mode := t0.mode &&& ~~~0x3E000#32 }) with
    | .next s => if (s.team? t0.uid).any fun u => u.frame == t0.frame && u.cause == 0 && u.run == .ready then some s else none
    | _ => none

/-- The team of t0 has trapped at a pass of the instruction that it issued: the younger instructions that have issued take the free
entries after it, and their results are discarded. -/
def State.withYounger (run : Instr → State → Out) (s0 s : State) (t0 : Team) (k : Nat) : State :=
  match s.team? t0.uid with
  | none => s
  | some t =>
    let f := t.frame
    if k = 0 || t0.frame.active != 0 || f.active != 1 || !t0.replay.isEmpty || t.cause != 0 || t.stop.isSome || !passCause f.cause then s
    else
      match s0.forwarded run t0 t with
      | some s1 => s.younger run { s1 with tick := s.tick } t (((s1.team? t0.uid).map Team.recent).getD []) 0 0 k
      | none => s.younger run s t (ageRecent t0.recent (1 + stallOf f.word)) (fieldsOf f.word).d.toNat (pendingRegs f.word) k

/-- A report of a watchpoint has let a team enter its trap handler: the younger instructions that have issued and not finished, how many
of them a free value says, take the free entries from the lowest (R203). -/
def State.afterHit (run : Instr → State → Out) (s0 s : State) : State :=
  if s0.hits.isEmpty then s
  else
    match s.teams.find? fun t => t.cause == 0 && t.frame.active == 1 && t.frame.cause == 0x12 && t.stop.isNone &&
        (s0.team? t.uid).any fun t0 => t0.frame.active == 0 with
    | some t =>
      if t.pc = ((s.gridOf t).map Grid.traph).getD 0 then
        State.younger run s.ticked s.ticked t (((s0.team? t.uid).map Team.recent).getD []) 0 0 (Config.hitYoung s.tick % 9)
      else s
    | none => s

def Out.afterHit (o : Out) (run : Instr → State → Out) (s0 : State) : Out :=
  match o with
  | .next s => .next (State.afterHit run s0 s)
  | o => o

def Out.withYounger (o : Out) (run : Instr → State → Out) (s0 : State) (t0 : Team) (k : Nat) : Out :=
  match o with
  | .next s => .next (s0.withYounger run s t0 k)
  | o => o

/-- The team that the schedule names issues when it may and R191 chooses it. One whose turn brings no issue takes no slot. -/
def State.issueSlot (run : Instr → State → Out) (uid : Nat) (stalled : List Nat) (young : Nat) (s : State) : Out :=
  match s.team? uid with
  | some t =>
    if !s.mayIssue t then .next { s with turn := uid }
    else
      let o := State.issueTeam run uid s
      if !issuesNow t o then o
      else if s.ranks run t stalled then (o.withYounger run s t young).noteSlot t (s.nextWord t)
      else .next { s with turn := uid }
  | none => .next { s with turn := uid }

/-- The team that an input concerns, as far as lines of the register cache go. -/
def Input.team (turn : Nat) : Option Input → Nat
  | some (.issue uid _ _) => uid
  | some (.event (.registerLineFill uid)) => uid
  | some _ => 0
  | none => turn

/-- One step: the next input of the schedule, or the turn of the team that has it (log 1). An input of the schedule that is an
instruction of a team, and no event, moves nothing. -/
def State.advance (run : Instr → State → Out) (s : State) : Out :=
  Out.fit (match s.inputs with
    | [] => State.issueSlot run s.turn [] 0 s
    | .issue uid stalled young :: rest => State.issueSlot run uid stalled young { s with inputs := rest }
    | .evict uid l :: rest =>
      let s : State := { s with inputs := rest }
      .next (if (s.team? uid).any fun t => s.mayEvict t l then s.evictLine uid l else s)
    | .event i :: rest =>
      let s := { s with inputs := rest }
      if (encode i).isEmpty then (run i s).afterHit run s else .next s) (Input.team s.turn s.inputs.head?)

/-! ### Placing a first instruction (log 3) -/

/-- The descriptor of the grid that runs it: one block of one team of one group, with every register, tile and accumulator,
a trap handler at 0x1800, PRIO 255, and CVCAP 16. -/
def firstDesc : List Byte :=
  leBytes 8 0x1000 ++ leBytes 8 0x2000 ++ leBytes 4 1 ++ [1#8, 1#8, 64#8, 64#8] ++ leBytes 4 0x8000 ++ [16#8, 8#8, 255#8, 0#8] ++
    leBytes 4 1024 ++ leBytes 2 0 ++ leBytes 2 0 ++ List.replicate 16 0#8 ++ leBytes 2 16 ++ List.replicate 14 0#8 ++ leBytes 8 0x1800 ++
    List.replicate 176 0#8

def firstGrid (gid : Nat) : Grid :=
  { gid := gid, pid := 1, tid := 0, queue := 0, desc := firstDesc, place := [], debugged := false, bkptBcast := 0, admitted := 1,
    done := false, nextTag := 2, handlers := 0, events := [], completions := [], bounds := Vector.replicate 16 .off, oldBounds := [],
    nodes := [], routers := [], ports := [], packets := [], relay := none, conveying := [], handlersDue := [], heldBreaks := [],
    heldWatches := [] }

def firstBlock (uid gid : Nat) : Block :=
  { uid := uid, gid := gid, index := 0, core := 0, die := 0, bimga := 0x600000#64, scrsz := 0x8000, ntile := 16, nacc := 8, scratch := [],
    sdirty := [], tfull := 0, loaded := 0, tiles := [], strays := [], accs := [], mflags := 0, image := .none, saveArea := [], saveBase := 0, saveAssigned := false, jobs := [], nextJob := 0,
    published := false, resident := true, preempting := false, saving := false, resuming := false, complete := false, sampled := false,
    shadowOf := none, privDevice := [], privCommons := [], digest := 0, digestDone := false, mismatch := false }

/-- A team at entry (R69) whose registers the caller has filled; `since` puts it before the others (R191). -/
def firstTeam (uid gid blk since : Nat) : Team :=
  { uid := uid, gid := gid, blk := blk, kind := .grid, tix := 0, tag := 1, core := 0, quad := 0, slot := 0, imga := 0x500000#64, ngrp := 1,
    nvec := 64, nscal := 64, pc := 0x1000#64, mode := 0, cause := 0, mask := fullMask 1,
    threads := (List.range 32).map fun h =>
      let th := Thread.entry h
      { th with v := vput th.v 0 (BitVec.ofNat 32 h), cv := { th.cv with cap := 16, loga := BitVec.ofNat 64 (0x700000 + 640 * h) } },
    s := vput (vput (Vector.replicate 64 0) 0 0x2000#32) 4 1#32, stack := [], rq := Vector.replicate 8 .free, frame := .zero,
    estate := Vector.replicate 32 (.free 1), ssp := 0x800000#64, sspImage := 0x800000#64, spillBase := 0x800000#64, spill := [], auxDirty := 0, fDirty := 0,
    dirty := 0, tags := entryTags 64 1, absent := 0, auxAbsent := 0, fAbsent := 0, image := entryImage 0 1, mapWritten := [], storeQ := [], inflight := [], recent := [], run := .ready, replay := [], resumed := false, atomrN := 0,
    openBatch := [], batches := [], batchCount := 0, peerCopies := [], outSums := [], gbarGen := 0, waitEntry := .free, waitRte := none, sysc := .idle, tokenWait := none, shadowUnit := false, insn := 0, passes := 0, tokw := 0, rcmiss := 0, split := 0,
    cbytes := 0, aside := none, header := [], fatal := [], stop := none, grant := false, passBreak := none, since := since, lastWords := [], focus := none, history := [], issuedN := 0, exitChecked := false,
    preempted := false, mustFinish := none, faultAt := none }

def firstProcess : Process :=
  { pid := 1, asn := 1, root := 0x10000, windows := [], peers := [], dumpPolicy := 0, porterHold := false, backing := [] }

/-- Page tables at 0x10000 to 0x14FFF that map the page at 0x1000 to 0x20000 and the one at 0x2000 to 0x21000, each R, W, X. -/
def firstTables (m : Memory) : Memory :=
  let e (m : Memory) (a v : Nat) : Memory := Memory.writeNat m a 8 v
  e (e (e (e (e (e m 0x10000 0x11001) 0x11000 0x12001) 0x12000 0x13001) 0x13000 0x14001) 0x14008 0x20073) 0x14010 0x21073

/-- The memory of a first instruction: the tables, and the two words at 0x20000. -/
def firstMemory (m : Memory) (w : Nat) : Memory := Memory.writeNat (firstTables m) 0x20000 8 (w % 2 ^ 64)

/-- The world in which the very next step fetches these words as a team's first instruction. Its grid, block, team and
process stand before the ones that were there. -/
def State.withFirst (s : State) (w : Nat) : State :=
  let n := s.nextUid
  { s with
    mem := firstMemory s.mem w, poison := [], procs := firstProcess :: s.procs, grids := firstGrid s.nextGid :: s.grids,
    blocks := firstBlock (n + 1) s.nextGid :: s.blocks, teams := firstTeam n s.nextGid (n + 1) (s.teams.foldl (fun m t => max m (t.since + 1)) 0) :: s.teams,
    cores := vput s.cores 0 { s.coreAt 0 with tlb := [], icache := [], breaks := Vector.replicate 4 none },
    dies := vput s.dies 0 { s.dieAt 0 with dtlb := [] }, walked := [], nextUid := n + 2, nextGid := s.nextGid + 1, inputs := [], turn := n }

end Sys2Proof.Machine
end

