-- ==== Sys2Proof/Machine/Approx.lean ====
section
/-! DEFINITION. EXP2, LOG2, SIN, COS, RCP and RSQ (spec/05 R124): the exact function value to several hundred bits of
fixed point, then one rounding to nearest even. The manual states the exact value rounded once; that this many bits
decide the rounding of every F32 and F16 input is DEDUCED (log 11). -/

namespace Sys2Proof.Machine

open Sys2Proof

/-- Fraction bits of the fixed point. -/
def fxBits : Nat := 400

def fxOne : Nat := 2 ^ fxBits

/-- Σ from term k of an exponential series: next term t·x/k. -/
def expSeries (x : Nat) : Nat → Nat → Nat → Nat
  | 0, _, _ => 0
  | fuel + 1, k, t => t + expSeries x fuel (k + 1) (t * x / fxOne / k)

/-- e^x for x in [0, 1), fixed point. -/
def fxExp (x : Nat) : Nat := expSeries x 100 1 fxOne

/-- Σ z^k / k over odd k, from t = z^k. -/
def atanhSeries (z2 : Nat) : Nat → Nat → Nat → Nat
  | 0, _, _ => 0
  | fuel + 1, k, t => t / k + atanhSeries z2 fuel (k + 2) (t * z2 / fxOne)

/-- ln(n/d) for 1 ≤ n/d < 2, fixed point: 2 atanh((n − d)/(n + d)). -/
def fxLn (n d : Nat) : Nat :=
  let z := (n - d) * fxOne / (n + d)
  2 * atanhSeries (z * z / fxOne) 140 1 z

/-- ln 2. -/
def fxLn2 : Nat := 2 * (let z := fxOne / 3; atanhSeries (z * z / fxOne) 140 1 z)

/-- π with 600 fraction bits. -/
def pi600 : Nat :=
  0x3243F6A8885A308D313198A2E03707344A4093822299F31D0082EFA98EC4E6C89452821E638D01377BE5466CF34E90C6CC0AC29B7C97C50DD3F84D5B5B54709179216D5D98979FB1BD1310B

def fxPi : Nat := pi600 / 2 ^ 200

/-- Alternating Σ of a sine or cosine series. -/
def trigSeries (x2 : Nat) : Nat → Nat → Int → Nat → Int
  | 0, _, _, _ => 0
  | fuel + 1, k, s, t => s * (t : Int) + trigSeries x2 fuel (k + 2) (-s) (t * x2 / fxOne / (k * (k + 1)))

/-- sin x for 0 ≤ x ≤ π/4. -/
def fxSin (x : Nat) : Nat := (trigSeries (x * x / fxOne) 60 2 1 x).toNat

def fxCos (x : Nat) : Nat := (trigSeries (x * x / fxOne) 60 1 1 fxOne).toNat

/-- sin of the first-quadrant angle y in [0, π/2), and cos. -/
def fxSinQ (y : Nat) : Nat := if 4 * y ≤ fxPi then fxSin y else fxCos (fxPi / 2 - y)
def fxCosQ (y : Nat) : Nat := if 4 * y ≤ fxPi then fxCos y else fxSin (fxPi / 2 - y)

/-- The six functions. -/
inductive ApproxFn where
  | exp2
  | log2
  | sin
  | cos
  | rcp
  | rsq
  deriving DecidableEq, Repr

/-- Rounds to nearest even and drops NX (R124). -/
def approxRound (k : Fmt) (flush sign : Bool) (n d : Nat) (e : Int) (more : Bool) : FRes :=
  let r := roundTo k flush .rne sign n d e more
  { r with flags := r.flags &&& ~~~NX }

/-- 2^x of a finite x. -/
def approxExp2 (k : Fmt) (flush s : Bool) (m : Nat) (e : Int) : FRes :=
  if m = 0 then { bits := k.bias * 2 ^ k.f, flags := 0 }
  else if log2Ratio m 1 + e ≥ 12 then
    -- beyond every format's exponent range
    (if s then approxRound k flush false 1 1 (-4096) true else approxRound k flush false 1 1 4096 false)
  else
    let num := if e ≥ 0 then m * 2 ^ e.toNat else m
    let den := if e ≥ 0 then 1 else 2 ^ (-e).toNat
    let q := num / den
    let r := num % den
    let exact := r = 0
    let n : Int := if s then (if exact then -(q : Int) else -(q : Int) - 1) else q
    let r' := if s then (if exact then 0 else den - r) else r
    if exact then approxRound k flush false 1 1 n false
    else approxRound k flush false (fxExp (r' * fxLn2 / den)) 1 (n - fxBits) true

/-- log2 of a positive finite x. -/
def approxLog2 (k : Fmt) (flush : Bool) (m : Nat) (e : Int) : FRes :=
  let l : Nat := Nat.log2 m
  let n : Int := l + e
  if m = 2 ^ l then approxRound k flush (decide (n < 0)) n.natAbs 1 0 false
  else
    let f : Int := ((fxLn m (2 ^ l) * fxOne / fxLn2 : Nat) : Int)
    let v : Int := n * (fxOne : Nat) + f
    approxRound k flush (decide (v < 0)) (if v < 0 then v.natAbs - 1 else v.natAbs) 1 (-(fxBits : Int)) true

/-- SIN or COS of a finite x with |x| < 2^16. -/
def approxTrig (k : Fmt) (flush cos s : Bool) (m : Nat) (e : Int) : FRes :=
  let x600 : Nat := if e + 600 ≥ 0 then m * 2 ^ (e + 600).toNat else 0
  let half := pi600 / 2
  let q := x600 / half
  let y := x600 % half / 2 ^ 200
  let quad := (if cos then q + 1 else q) % 4
  let v := if quad % 2 = 0 then fxSinQ y else fxCosQ y
  approxRound k flush ((quad ≥ 2) != (!cos && s)) v 1 (-(fxBits : Int)) true

/-- The value and flags of R124 in one element. -/
def approx (fn : ApproxFn) (k : Fmt) (nfz : Bool) (a : Nat) : FRes :=
  let x := unpack k nfz a
  (nanResult k [x]).getD <|
    match fn, x with
    | .exp2, .inf s => { bits := if s then 0 else infOf k false, flags := 0 }
    | .exp2, .fin s m e => approxExp2 k nfz s m e
    | .log2, .inf s => if s then invalid k else { bits := infOf k false, flags := 0 }
    | .log2, .fin s m e =>
      if m = 0 then { bits := infOf k true, flags := DZ }
      else if s then invalid k
      else approxLog2 k nfz m e
    | .sin, .fin s m e =>
      if m = 0 then { bits := zeroOf k s, flags := 0 }
      else if log2Ratio m 1 + e ≥ 16 then invalid k
      else approxTrig k nfz false s m e
    | .cos, .fin s m e =>
      if m = 0 then { bits := k.bias * 2 ^ k.f, flags := 0 }
      else if log2Ratio m 1 + e ≥ 16 then invalid k
      else approxTrig k nfz true s m e
    | .rcp, .inf s => { bits := zeroOf k s, flags := 0 }
    | .rcp, .fin s m e =>
      if m = 0 then { bits := infOf k s, flags := DZ } else approxRound k nfz s 1 m (-e) false
    | .rsq, .inf s => if s then invalid k else { bits := zeroOf k false, flags := 0 }
    | .rsq, .fin s m e =>
      if m = 0 then { bits := infOf k s, flags := DZ }
      else if s then invalid k
      else
        -- 1/√(m·2^e): the floor of 2^400/√(m·2^(e mod 2))
        let m' := if e % 2 = 0 then m else 2 * m
        let e' := if e % 2 = 0 then e else e - 1
        let n := 2 ^ 800 / m'
        let r := isqrt n
        approxRound k nfz false r 1 (-(e' / 2) - 400) (decide (r * r * m' ≠ 2 ^ 800))
    | _, _ => invalid k

end Sys2Proof.Machine
end

