-- ==== Sys2Proof/Machine/Logic.lean ====
section
/-! DEFINITION. Class 2, logic, shifts, bit fields, addresses and moves (spec/04 R81, R85; R321, R328, R333, R340, R374, R380,
R388, R391, R404): no flag is set, RND and SAT are ignored, and TYPE fixes W alone. -/

namespace Sys2Proof.Machine

open Sys2Proof

/-- A literal of layout LI as TYPE reads it (R85). -/
def immOf (ty : Nat) (x : Word) : Double :=
  match ty with
  | 2 => x.signExtend 64
  | 5 => BitVec.ofNat 64 (widenF32 x.toNat)
  | _ => x.setWidth 64

/-- Operand b of the three forms of R315. -/
def Ctx.bV (c : Ctx) (b : Reg) : Src := .v b.toNat (typeWide c.mode)
def Ctx.bS (c : Ctx) (b : Reg) : Src := .s b.toNat (typeWide c.mode)
def Ctx.bI (c : Ctx) (l : LI) : Src := .imm (immOf (modeType c.mode) l.imm)

/-- A class 2 instruction of W bits: f takes W, a, b and d. -/
def bitsAlu (m : Mods) (c : Ctx) (d a : Reg) (b dsrc : Src) (ok : Bool) (f : Nat → Double → Double → Double → Double) : Alu :=
  let w := typeWide c.mode
  { m := m, x := { a := .v a.toNat w, b := b, d := dsrc }, dst := .v d.toNat w, lat := some 2, check := Check.operand ok,
    fmt := modeType c.mode, f := fun pin p => .of (f (widthOf (modeType c.mode)) (pin.rd 0 p) (pin.rd 1 p) (pin.rd 2 p)) }

/-- The low W bits. -/
def lowW (w : Nat) (x : Double) : Double := if w = 32 then x &&& 0xFFFFFFFF#64 else x

/-- sext(a, W) as a 64-bit pattern. -/
def sextW (w : Nat) (x : Double) : Double := if w = 32 then (x.setWidth 32).signExtend 64 else x

def bitAnd (_ : Nat) (a b _d : Double) : Double := a &&& b
def bitOr (_ : Nat) (a b _d : Double) : Double := a ||| b
def bitXor (_ : Nat) (a b _d : Double) : Double := a ^^^ b
def bitNot (w : Nat) (a _b _d : Double) : Double := lowW w (~~~a)

/-- The shifts (R404); a register count is taken mod W. -/
def bitShl (w : Nat) (a b _d : Double) : Double := lowW w (a <<< (b.toNat % w))
def bitShr (w : Nat) (a b _d : Double) : Double := a >>> (b.toNat % w)
def bitSar (w : Nat) (a b _d : Double) : Double := lowW w ((sextW w a).sshiftRight (b.toNat % w))
def bitRol (w : Nat) (a b _d : Double) : Double := lowW w ((a <<< (b.toNat % w)) ||| (a >>> (w - b.toNat % w)))

/-- Position and width of a field specification read from a register or a literal (R328): the width is cut to W − p. -/
def fieldSpec (w : Nat) (b : Double) : Nat × Nat :=
  let p := b.toNat % 64 % w
  let k := b.toNat / 256 % 128
  (p, if p + k > w then w - p else k)

/-- (2^k − 1) << p. -/
def fieldMask (p k : Nat) : Double := BitVec.ofNat 64 ((2 ^ k - 1) * 2 ^ p)

def bitBfi (w : Nat) (a b d : Double) : Double :=
  let (p, k) := fieldSpec w b
  (d &&& ~~~(fieldMask p k)) ||| ((a <<< p) &&& fieldMask p k)

/-- BFX of TYPE: the field is sign-extended under I32 and I64. -/
def bitBfx (ty w : Nat) (a b _d : Double) : Double :=
  let (p, k) := fieldSpec w b
  let f := (a &&& fieldMask p k) >>> p
  if signedType ty && k != 0 then lowW w (BitVec.ofInt 64 (sextInt f.toNat k)) else f

def bitBrev (w : Nat) (a _b _d : Double) : Double :=
  (List.range w).foldl (fun (r : Double) i => if a.getLsbD (w - 1 - i) then r ||| (1#64 <<< i) else r) 0

/-- Zero bits above the highest set bit of n, over w bits. -/
def clzFrom (n : Nat) : Nat → Nat
  | 0 => 0
  | k + 1 => if n.testBit k then 0 else clzFrom n k + 1

def bitClz (w : Nat) (a _b _d : Double) : Double := BitVec.ofNat 64 (clzFrom a.toNat w)
def bitPopc (w : Nat) (a _b _d : Double) : Double := BitVec.ofNat 64 ((List.range w).filter fun i => a.getLsbD i).length

/-- The literal count of a shift, below W (R85, R404). -/
def countOk (c : Ctx) (l : LCount) : Bool := l.count.toNat < widthOf (modeType c.mode)

/-- The literal field specification: w ≥ 1 and p + w ≤ W (R85, R328). -/
def specOk (c : Ctx) (l : LSpec) : Bool := 1 ≤ l.width.toNat && l.pos.toNat + l.width.toNat ≤ widthOf (modeType c.mode)

def specSrc (l : LSpec) : Src := .imm (BitVec.ofNat 64 (l.pos.toNat + 256 * l.width.toNat))

/-- AND with a vector b (R321). -/
def execAndVector (m : Mods) (d a b : Reg) (s : State) : Out :=
  execAlu (.andVector m d a b) s fun c _ _ => bitsAlu m c d a (c.bV b) .none true bitAnd

/-- AND with a scalar b (R321). -/
def execAndScalar (m : Mods) (d a b : Reg) (s : State) : Out :=
  execAlu (.andScalar m d a b) s fun c _ _ => bitsAlu m c d a (c.bS b) .none true bitAnd

/-- AND with a literal (R321). -/
def execAndLiteral (m : Mods) (d a : Reg) (l : LI) (s : State) : Out :=
  execAlu (.andLiteral m d a l) s fun c _ _ => bitsAlu m c d a (c.bI l) .none true bitAnd

/-- OR with a vector b (R388). -/
def execOrVector (m : Mods) (d a b : Reg) (s : State) : Out :=
  execAlu (.orVector m d a b) s fun c _ _ => bitsAlu m c d a (c.bV b) .none true bitOr

/-- OR with a scalar b (R388). -/
def execOrScalar (m : Mods) (d a b : Reg) (s : State) : Out :=
  execAlu (.orScalar m d a b) s fun c _ _ => bitsAlu m c d a (c.bS b) .none true bitOr

/-- OR with a literal (R388). -/
def execOrLiteral (m : Mods) (d a : Reg) (l : LI) (s : State) : Out :=
  execAlu (.orLiteral m d a l) s fun c _ _ => bitsAlu m c d a (c.bI l) .none true bitOr

/-- XOR with a vector b (R388). -/
def execXorVector (m : Mods) (d a b : Reg) (s : State) : Out :=
  execAlu (.xorVector m d a b) s fun c _ _ => bitsAlu m c d a (c.bV b) .none true bitXor

/-- XOR with a scalar b (R388). -/
def execXorScalar (m : Mods) (d a b : Reg) (s : State) : Out :=
  execAlu (.xorScalar m d a b) s fun c _ _ => bitsAlu m c d a (c.bS b) .none true bitXor

/-- XOR with a literal (R388). -/
def execXorLiteral (m : Mods) (d a : Reg) (l : LI) (s : State) : Out :=
  execAlu (.xorLiteral m d a l) s fun c _ _ => bitsAlu m c d a (c.bI l) .none true bitXor

/-- NOT (R388). -/
def execNot (m : Mods) (d a : Reg) (s : State) : Out :=
  execAlu (.not m d a) s fun c _ _ => bitsAlu m c d a .none .none true bitNot

/-- SHL with a vector count (R404). -/
def execShlVector (m : Mods) (d a b : Reg) (s : State) : Out :=
  execAlu (.shlVector m d a b) s fun c _ _ => bitsAlu m c d a (c.bV b) .none true bitShl

/-- SHL with a scalar count (R404). -/
def execShlScalar (m : Mods) (d a b : Reg) (s : State) : Out :=
  execAlu (.shlScalar m d a b) s fun c _ _ => bitsAlu m c d a (c.bS b) .none true bitShl

/-- SHL with a literal count (R404). -/
def execShlLiteral (m : Mods) (d a : Reg) (l : LCount) (s : State) : Out :=
  execAlu (.shlLiteral m d a l) s fun c _ _ => bitsAlu m c d a (.imm (l.count.setWidth 64)) .none (countOk c l) bitShl

/-- SHR with a vector count (R404). -/
def execShrVector (m : Mods) (d a b : Reg) (s : State) : Out :=
  execAlu (.shrVector m d a b) s fun c _ _ => bitsAlu m c d a (c.bV b) .none true bitShr

/-- SHR with a scalar count (R404). -/
def execShrScalar (m : Mods) (d a b : Reg) (s : State) : Out :=
  execAlu (.shrScalar m d a b) s fun c _ _ => bitsAlu m c d a (c.bS b) .none true bitShr

/-- SHR with a literal count (R404). -/
def execShrLiteral (m : Mods) (d a : Reg) (l : LCount) (s : State) : Out :=
  execAlu (.shrLiteral m d a l) s fun c _ _ => bitsAlu m c d a (.imm (l.count.setWidth 64)) .none (countOk c l) bitShr

/-- SAR with a vector count (R404). -/
def execSarVector (m : Mods) (d a b : Reg) (s : State) : Out :=
  execAlu (.sarVector m d a b) s fun c _ _ => bitsAlu m c d a (c.bV b) .none true bitSar

/-- SAR with a scalar count (R404). -/
def execSarScalar (m : Mods) (d a b : Reg) (s : State) : Out :=
  execAlu (.sarScalar m d a b) s fun c _ _ => bitsAlu m c d a (c.bS b) .none true bitSar

/-- SAR with a literal count (R404). -/
def execSarLiteral (m : Mods) (d a : Reg) (l : LCount) (s : State) : Out :=
  execAlu (.sarLiteral m d a l) s fun c _ _ => bitsAlu m c d a (.imm (l.count.setWidth 64)) .none (countOk c l) bitSar

/-- ROL with a vector count (R404). -/
def execRolVector (m : Mods) (d a b : Reg) (s : State) : Out :=
  execAlu (.rolVector m d a b) s fun c _ _ => bitsAlu m c d a (c.bV b) .none true bitRol

/-- ROL with a scalar count (R404). -/
def execRolScalar (m : Mods) (d a b : Reg) (s : State) : Out :=
  execAlu (.rolScalar m d a b) s fun c _ _ => bitsAlu m c d a (c.bS b) .none true bitRol

/-- ROL with a literal count (R404). -/
def execRolLiteral (m : Mods) (d a : Reg) (l : LCount) (s : State) : Out :=
  execAlu (.rolLiteral m d a l) s fun c _ _ => bitsAlu m c d a (.imm (l.count.setWidth 64)) .none (countOk c l) bitRol

/-- BFI with a vector specification (R328). -/
def execBfiVector (m : Mods) (d a b : Reg) (s : State) : Out :=
  execAlu (.bfiVector m d a b) s fun c _ _ => bitsAlu m c d a (c.bV b) (.v d.toNat (typeWide c.mode)) true bitBfi

/-- BFI with a scalar specification (R328). -/
def execBfiScalar (m : Mods) (d a b : Reg) (s : State) : Out :=
  execAlu (.bfiScalar m d a b) s fun c _ _ => bitsAlu m c d a (c.bS b) (.v d.toNat (typeWide c.mode)) true bitBfi

/-- BFI with a literal specification (R328). -/
def execBfiLiteral (m : Mods) (d a : Reg) (l : LSpec) (s : State) : Out :=
  execAlu (.bfiLiteral m d a l) s fun c _ _ => bitsAlu m c d a (specSrc l) (.v d.toNat (typeWide c.mode)) (specOk c l) bitBfi

/-- BFX with a vector specification (R328). -/
def execBfxVector (m : Mods) (d a b : Reg) (s : State) : Out :=
  execAlu (.bfxVector m d a b) s fun c _ _ => bitsAlu m c d a (c.bV b) .none true (bitBfx (modeType c.mode))

/-- BFX with a scalar specification (R328). -/
def execBfxScalar (m : Mods) (d a b : Reg) (s : State) : Out :=
  execAlu (.bfxScalar m d a b) s fun c _ _ => bitsAlu m c d a (c.bS b) .none true (bitBfx (modeType c.mode))

/-- BFX with a literal specification (R328). -/
def execBfxLiteral (m : Mods) (d a : Reg) (l : LSpec) (s : State) : Out :=
  execAlu (.bfxLiteral m d a l) s fun c _ _ => bitsAlu m c d a (specSrc l) .none (specOk c l) (bitBfx (modeType c.mode))

/-- BREV (R333). -/
def execBrev (m : Mods) (d a : Reg) (s : State) : Out :=
  execAlu (.brev m d a) s fun c _ _ => bitsAlu m c d a .none .none true bitBrev

/-- CLZ (R340). -/
def execClz (m : Mods) (d a : Reg) (s : State) : Out :=
  execAlu (.clz m d a) s fun c _ _ => bitsAlu m c d a .none .none true bitClz

/-- POPC (R391). -/
def execPopc (m : Mods) (d a : Reg) (s : State) : Out :=
  execAlu (.popc m d a) s fun c _ _ => bitsAlu m c d a .none .none true bitPopc

/-- LEA: a pair plus a 32-bit signed offset, whatever TYPE is (R374). -/
def leaAlu (m : Mods) (c : Ctx) (d a : Reg) (b : Src) : Alu :=
  { m := m, x := { a := .v a.toNat true, b := b, d := .none }, dst := .v d.toNat true, lat := some 2, check := .none, fmt := modeType c.mode,
    f := fun pin p => .of (pin.rd 0 p + ((pin.rd 1 p).setWidth 32).signExtend 64) }

/-- LEA with a vector offset (R374). -/
def execLeaVector (m : Mods) (d a b : Reg) (s : State) : Out :=
  execAlu (.leaVector m d a b) s fun c _ _ => leaAlu m c d a (.v b.toNat false)

/-- LEA with a scalar offset (R374). -/
def execLeaScalar (m : Mods) (d a b : Reg) (s : State) : Out :=
  execAlu (.leaScalar m d a b) s fun c _ _ => leaAlu m c d a (.s b.toNat false)

/-- LEA with a literal offset (R374). -/
def execLeaLiteral (m : Mods) (d a : Reg) (l : LI) (s : State) : Out :=
  execAlu (.leaLiteral m d a l) s fun c _ _ => leaAlu m c d a (.imm (l.imm.setWidth 64))

/-- A move of W bits from b (R380). -/
def movAlu (m : Mods) (c : Ctx) (d : Reg) (b : Src) : Alu :=
  { m := m, x := { a := .none, b := b, d := .none }, dst := .v d.toNat (typeWide c.mode), lat := some 2, check := .none,
    fmt := modeType c.mode, f := fun pin p => .of (pin.rd 1 p) }

/-- MOV from a vector register (R380). -/
def execMovVector (m : Mods) (d b : Reg) (s : State) : Out :=
  execAlu (.movVector m d b) s fun c _ _ => movAlu m c d (c.bV b)

/-- MOV from a scalar register (R380). -/
def execMovScalar (m : Mods) (d b : Reg) (s : State) : Out :=
  execAlu (.movScalar m d b) s fun c _ _ => movAlu m c d (c.bS b)

/-- MOVK: the literal as TYPE reads it (R380). -/
def execMovk (m : Mods) (d : Reg) (l : LI) (s : State) : Out :=
  execAlu (.movk m d l) s fun c _ _ => movAlu m c d (c.bI l)

end Sys2Proof.Machine
end

