-- ==== Sys2Proof/Machine/Arith.lean ====
section
/-! DEFINITION. Class 3, typed arithmetic (spec/04 R81; spec/05 R101 to R122; R318, R319, R339, R341, R349, R360, R362, R377,
R383, R384, R386, R400, R401, R409, R414). -/

namespace Sys2Proof.Machine

open Sys2Proof

/-- A class 3 instruction with a vector destination: f takes the mode, a, b and d. -/
def typedAlu (m : Mods) (c : Ctx) (d a : Reg) (b dsrc : Src) (fixed : Bool) (ok : Nat → Bool)
    (f : Word → Double → Double → Double → LaneOut) : Alu :=
  let w := typeWide c.mode
  { m := m, x := { a := .v a.toNat w, b := b, d := dsrc }, dst := .v d.toNat w, lat := if fixed then lat46 w else none,
    check := needType c.mode ok, fmt := modeType c.mode,
    f := fun pin p => f c.mode (pin.rd 0 p) (pin.rd 1 p) (pin.rd 2 p) }

/-- Operand d read as a source. -/
def Ctx.dV (c : Ctx) (d : Reg) : Src := .v d.toNat (typeWide c.mode)

/-! Which types an instruction accepts (R118). -/

def anyType (_ : Nat) : Bool := true
def intType (ty : Nat) : Bool := ty ≤ 3
def divType (ty : Nat) : Bool := ty ≤ 5
def sqrtType (ty : Nat) : Bool := ty == 4 || ty == 5

/-! What each computes in one lane. -/

def laneAdd (mode : Word) (a b _d : Double) : LaneOut := typedAdd mode a b
def laneSub (mode : Word) (a b _d : Double) : LaneOut := typedSub mode a b

/-- MUL (R383). -/
def laneMul (mode : Word) (a b _d : Double) : LaneOut :=
  let ty := modeType mode
  if floatType ty then elemwise ty a b 0 fun x y _ => fmul (fmtOf ty) (envOf mode) x y
  else intResult ty (modeSat mode) (intOf ty a * intOf ty b)

/-- MULH (R384): the high W bits of the exact product. -/
def laneMulh (mode : Word) (a b _d : Double) : LaneOut :=
  let ty := modeType mode
  LaneOut.nat (lowBits (intOf ty a * intOf ty b / ((2 ^ widthOf ty : Nat) : Int)) (widthOf ty))

/-- FMA (R362). -/
def laneFma (mode : Word) (a b d : Double) : LaneOut :=
  let ty := modeType mode
  if floatType ty then elemwise ty a b d fun x y z => ffma (fmtOf ty) (envOf mode) x y z
  else intResult ty (modeSat mode) (intOf ty d + intOf ty a * intOf ty b)

/-- DIV (R102, R349). -/
def laneDiv (mode : Word) (a b _d : Double) : LaneOut :=
  let ty := modeType mode
  if floatType ty then elemwise ty a b 0 fun x y _ => fdiv (fmtOf ty) (envOf mode) x y
  else if intOf ty b = 0 then { LaneOut.nat (2 ^ widthOf ty - 1) with flags := DZ }
  else intResult ty (modeSat mode) (Int.tdiv (intOf ty a) (intOf ty b))

/-- REM (R102, R401). -/
def laneRem (mode : Word) (a b _d : Double) : LaneOut :=
  let ty := modeType mode
  if intOf ty b = 0 then { LaneOut.of a with flags := DZ }
  else LaneOut.nat (lowBits (Int.tmod (intOf ty a) (intOf ty b)) (widthOf ty))

/-- MIN or MAX of TYPE (R119, R377). -/
def typedMinMax (mode : Word) (isMax : Bool) (a b : Double) : LaneOut :=
  let ty := modeType mode
  if floatType ty then elemwise ty a b 0 fun x y _ => fminmax (fmtOf ty) (modeNfz mode) isMax x y
  else if isMax then .of (if intOf ty a < intOf ty b then b else a)
  else .of (if intOf ty b < intOf ty a then b else a)

def laneMin (mode : Word) (a b _d : Double) : LaneOut := typedMinMax mode false a b
def laneMax (mode : Word) (a b _d : Double) : LaneOut := typedMinMax mode true a b

/-- CLAMP (R119, R339): MAX of a and d, then MIN of that and b; a NaN named first in the order a, b, d wins. -/
def laneClamp (mode : Word) (a b d : Double) : LaneOut :=
  let r := typedMinMax mode true a d
  let q := typedMinMax mode false r.val b
  { q with flags := q.flags ||| r.flags }

/-- The bits of the sign of each element. -/
def signBits (ty : Nat) : Double :=
  match ty with
  | 5 => 0x8000000000000000#64
  | 6 => 0x80008000#64
  | 7 => 0x80008000#64
  | _ => 0x80000000#64

/-- ABS (R318). -/
def laneAbs (mode : Word) (a _b _d : Double) : LaneOut :=
  let ty := modeType mode
  if floatType ty then .of (a &&& ~~~(signBits ty))
  else intResult ty (modeSat mode) ((intOf ty a).natAbs : Int)

/-- NEG (R386). -/
def laneNeg (mode : Word) (a _b _d : Double) : LaneOut :=
  let ty := modeType mode
  if floatType ty then .of (a ^^^ signBits ty) else intResult ty (modeSat mode) (-(intOf ty a))

/-- SQRT (R409). -/
def laneSqrt (mode : Word) (a _b _d : Double) : LaneOut :=
  let ty := modeType mode
  elemwise ty a 0 0 fun x _ _ => fsqrt (fmtOf ty) (envOf mode) x

/-- The class mask of one element (R360). -/
def classOf (k : Fmt) (x : Nat) : Nat :=
  match unpack k false x with
  | .nan _ _ q => if q then 2 else 1
  | .inf s => if s then 4 else 512
  | .fin s m _ =>
    let sub := decide (m < 2 ^ k.f)
    if m = 0 then (if s then 32 else 64)
    else if s then (if sub then 16 else 8) else (if sub then 128 else 256)

/-- FCLS (R360). -/
def laneFcls (mode : Word) (a : Double) : LaneOut :=
  let ty := modeType mode
  if ty = 6 || ty = 7 then
    .nat (classOf (fmtOf ty) (a.toNat % 2 ^ 16) + 2 ^ 16 * classOf (fmtOf ty) (a.toNat / 2 ^ 16 % 2 ^ 16))
  else .nat (classOf (fmtOf ty) a.toNat)

/-- CMP of two integers by condition (R341). -/
def icmp (cond : Nat) (a b : Int) : Bool :=
  match cond with
  | 0 => a == b
  | 1 => a != b
  | 2 => decide (a < b)
  | 3 => decide (a ≤ b)
  | 4 => decide (b < a)
  | 5 => decide (b ≤ a)
  | 6 => false
  | _ => true

/-- CMP (R341, R119). -/
def laneCmp (cond : Nat) (mode : Word) (a b : Double) : LaneOut :=
  let ty := modeType mode
  if ty = 6 || ty = 7 then
    let e (x : Double) (k : Nat) : Nat := x.toNat / 2 ^ (16 * k) % 2 ^ 16
    let r0 := fcmp (fmtOf ty) (modeNfz mode) cond (e a 0) (e b 0)
    let r1 := fcmp (fmtOf ty) (modeNfz mode) cond (e a 1) (e b 1)
    { LaneOut.bool (r0.1 && r1.1) with flags := r0.2 ||| r1.2 }
  else if floatType ty then
    let r := fcmp (fmtOf ty) (modeNfz mode) cond a.toNat b.toNat
    { LaneOut.bool r.1 with flags := r.2 }
  else .bool (icmp cond (intOf ty a) (intOf ty b))

/-- ADD, vector form (R319). -/
def execAddVector (m : Mods) (d a b : Reg) (s : State) : Out :=
  execAlu (.addVector m d a b) s fun c _ _ => typedAlu m c d a (c.bV b) .none true anyType laneAdd

/-- ADD, scalar form (R319). -/
def execAddScalar (m : Mods) (d a b : Reg) (s : State) : Out :=
  execAlu (.addScalar m d a b) s fun c _ _ => typedAlu m c d a (c.bS b) .none true anyType laneAdd

/-- ADD, literal form (R319). -/
def execAddLiteral (m : Mods) (d a : Reg) (l : LI) (s : State) : Out :=
  execAlu (.addLiteral m d a l) s fun c _ _ => typedAlu m c d a (c.bI l) .none true anyType laneAdd

/-- SUB, vector form (R414). -/
def execSubVector (m : Mods) (d a b : Reg) (s : State) : Out :=
  execAlu (.subVector m d a b) s fun c _ _ => typedAlu m c d a (c.bV b) .none true anyType laneSub

/-- SUB, scalar form (R414). -/
def execSubScalar (m : Mods) (d a b : Reg) (s : State) : Out :=
  execAlu (.subScalar m d a b) s fun c _ _ => typedAlu m c d a (c.bS b) .none true anyType laneSub

/-- SUB, literal form (R414). -/
def execSubLiteral (m : Mods) (d a : Reg) (l : LI) (s : State) : Out :=
  execAlu (.subLiteral m d a l) s fun c _ _ => typedAlu m c d a (c.bI l) .none true anyType laneSub

/-- MUL, vector form (R383). -/
def execMulVector (m : Mods) (d a b : Reg) (s : State) : Out :=
  execAlu (.mulVector m d a b) s fun c _ _ => typedAlu m c d a (c.bV b) .none true anyType laneMul

/-- MUL, scalar form (R383). -/
def execMulScalar (m : Mods) (d a b : Reg) (s : State) : Out :=
  execAlu (.mulScalar m d a b) s fun c _ _ => typedAlu m c d a (c.bS b) .none true anyType laneMul

/-- MUL, literal form (R383). -/
def execMulLiteral (m : Mods) (d a : Reg) (l : LI) (s : State) : Out :=
  execAlu (.mulLiteral m d a l) s fun c _ _ => typedAlu m c d a (c.bI l) .none true anyType laneMul

/-- MULH, vector form (R384). -/
def execMulhVector (m : Mods) (d a b : Reg) (s : State) : Out :=
  execAlu (.mulhVector m d a b) s fun c _ _ => typedAlu m c d a (c.bV b) .none true intType laneMulh

/-- MULH, scalar form (R384). -/
def execMulhScalar (m : Mods) (d a b : Reg) (s : State) : Out :=
  execAlu (.mulhScalar m d a b) s fun c _ _ => typedAlu m c d a (c.bS b) .none true intType laneMulh

/-- MULH, literal form (R384). -/
def execMulhLiteral (m : Mods) (d a : Reg) (l : LI) (s : State) : Out :=
  execAlu (.mulhLiteral m d a l) s fun c _ _ => typedAlu m c d a (c.bI l) .none true intType laneMulh

/-- FMA, vector form (R362). -/
def execFmaVector (m : Mods) (d a b : Reg) (s : State) : Out :=
  execAlu (.fmaVector m d a b) s fun c _ _ => typedAlu m c d a (c.bV b) (c.dV d) true anyType laneFma

/-- FMA, scalar form (R362). -/
def execFmaScalar (m : Mods) (d a b : Reg) (s : State) : Out :=
  execAlu (.fmaScalar m d a b) s fun c _ _ => typedAlu m c d a (c.bS b) (c.dV d) true anyType laneFma

/-- FMA, literal form (R362). -/
def execFmaLiteral (m : Mods) (d a : Reg) (l : LI) (s : State) : Out :=
  execAlu (.fmaLiteral m d a l) s fun c _ _ => typedAlu m c d a (c.bI l) (c.dV d) true anyType laneFma

/-- DIV, vector form (R349). -/
def execDivVector (m : Mods) (d a b : Reg) (s : State) : Out :=
  execAlu (.divVector m d a b) s fun c _ _ => typedAlu m c d a (c.bV b) .none false divType laneDiv

/-- DIV, scalar form (R349). -/
def execDivScalar (m : Mods) (d a b : Reg) (s : State) : Out :=
  execAlu (.divScalar m d a b) s fun c _ _ => typedAlu m c d a (c.bS b) .none false divType laneDiv

/-- DIV, literal form (R349). -/
def execDivLiteral (m : Mods) (d a : Reg) (l : LI) (s : State) : Out :=
  execAlu (.divLiteral m d a l) s fun c _ _ => typedAlu m c d a (c.bI l) .none false divType laneDiv

/-- REM, vector form (R401). -/
def execRemVector (m : Mods) (d a b : Reg) (s : State) : Out :=
  execAlu (.remVector m d a b) s fun c _ _ => typedAlu m c d a (c.bV b) .none false intType laneRem

/-- REM, scalar form (R401). -/
def execRemScalar (m : Mods) (d a b : Reg) (s : State) : Out :=
  execAlu (.remScalar m d a b) s fun c _ _ => typedAlu m c d a (c.bS b) .none false intType laneRem

/-- REM, literal form (R401). -/
def execRemLiteral (m : Mods) (d a : Reg) (l : LI) (s : State) : Out :=
  execAlu (.remLiteral m d a l) s fun c _ _ => typedAlu m c d a (c.bI l) .none false intType laneRem

/-- MIN, vector form (R377). -/
def execMinVector (m : Mods) (d a b : Reg) (s : State) : Out :=
  execAlu (.minVector m d a b) s fun c _ _ => typedAlu m c d a (c.bV b) .none true anyType laneMin

/-- MIN, scalar form (R377). -/
def execMinScalar (m : Mods) (d a b : Reg) (s : State) : Out :=
  execAlu (.minScalar m d a b) s fun c _ _ => typedAlu m c d a (c.bS b) .none true anyType laneMin

/-- MIN, literal form (R377). -/
def execMinLiteral (m : Mods) (d a : Reg) (l : LI) (s : State) : Out :=
  execAlu (.minLiteral m d a l) s fun c _ _ => typedAlu m c d a (c.bI l) .none true anyType laneMin

/-- MAX, vector form (R377). -/
def execMaxVector (m : Mods) (d a b : Reg) (s : State) : Out :=
  execAlu (.maxVector m d a b) s fun c _ _ => typedAlu m c d a (c.bV b) .none true anyType laneMax

/-- MAX, scalar form (R377). -/
def execMaxScalar (m : Mods) (d a b : Reg) (s : State) : Out :=
  execAlu (.maxScalar m d a b) s fun c _ _ => typedAlu m c d a (c.bS b) .none true anyType laneMax

/-- MAX, literal form (R377). -/
def execMaxLiteral (m : Mods) (d a : Reg) (l : LI) (s : State) : Out :=
  execAlu (.maxLiteral m d a l) s fun c _ _ => typedAlu m c d a (c.bI l) .none true anyType laneMax

/-- CLAMP, vector form (R339). -/
def execClampVector (m : Mods) (d a b : Reg) (s : State) : Out :=
  execAlu (.clampVector m d a b) s fun c _ _ => typedAlu m c d a (c.bV b) (c.dV d) true anyType laneClamp

/-- CLAMP, scalar form (R339). -/
def execClampScalar (m : Mods) (d a b : Reg) (s : State) : Out :=
  execAlu (.clampScalar m d a b) s fun c _ _ => typedAlu m c d a (c.bS b) (c.dV d) true anyType laneClamp

/-- CLAMP, literal form (R339). -/
def execClampLiteral (m : Mods) (d a : Reg) (l : LI) (s : State) : Out :=
  execAlu (.clampLiteral m d a l) s fun c _ _ => typedAlu m c d a (c.bI l) (c.dV d) true anyType laneClamp

/-- ABS (R318). -/
def execAbs (m : Mods) (d a : Reg) (s : State) : Out :=
  execAlu (.abs m d a) s fun c _ _ => typedAlu m c d a .none .none true anyType laneAbs

/-- NEG (R386). -/
def execNeg (m : Mods) (d a : Reg) (s : State) : Out :=
  execAlu (.neg m d a) s fun c _ _ => typedAlu m c d a .none .none true anyType laneNeg

/-- SQRT (R409). -/
def execSqrt (m : Mods) (d a : Reg) (s : State) : Out :=
  execAlu (.sqrt m d a) s fun c _ _ => typedAlu m c d a .none .none false sqrtType laneSqrt

/-- FCLS (R360): the class mask goes to one register. -/
def execFcls (m : Mods) (d a : Reg) (s : State) : Out :=
  execAlu (.fcls m d a) s fun c _ _ =>
    let w := typeWide c.mode
    { m := m, x := { a := .v a.toNat w, b := .none, d := .none }, dst := .v d.toNat false, lat := lat46 w,
      check := needType c.mode floatType, fmt := modeType c.mode, f := fun pin p => laneFcls c.mode (pin.rd 0 p) }

/-- A comparison of a with b into pd (R341). -/
def cmpAlu (m : Mods) (c : Ctx) (d a : Reg) (b : Src) (l : LCmp) : Alu :=
  let w := typeWide c.mode
  { m := m, x := { a := .v a.toNat w, b := b, d := .none }, dst := .p d.toNat, lat := lat46 w, check := .none, fmt := 1,
    f := fun pin p => laneCmp l.cond.toNat c.mode (pin.rd 0 p) (pin.rd 1 p) }

/-- CMP with a vector b (R341). -/
def execCmpVector (m : Mods) (d a b : Reg) (l : LCmp) (s : State) : Out :=
  execAlu (.cmpVector m d a b l) s fun c _ _ => cmpAlu m c d a (c.bV b) l

/-- CMP with a scalar b (R341). -/
def execCmpScalar (m : Mods) (d a b : Reg) (l : LCmp) (s : State) : Out :=
  execAlu (.cmpScalar m d a b l) s fun c _ _ => cmpAlu m c d a (c.bS b) l

/-! ### RDX (R121, R122, R400) -/

/-- A node of the tree: its value (none is padding), the lowest live home lane among its leaves, and the flags each lane
has received so far. -/
structure SumNode where
  val : Option Double
  low : Option Nat
  flags : List (Nat × Byte)
  deriving DecidableEq, Repr

/-- An inner node: the type's ADD with the lower-index child as operand a; padding passes the other child through. -/
def sumNode (mode : Word) (x y : SumNode) : SumNode :=
  let low := match x.low with | some h => some h | none => y.low
  match x.val, y.val with
  | some a, some b =>
    let r := typedAdd mode a b
    { val := some r.val, low := low, flags := x.flags ++ y.flags ++ (if r.flags = 0 then [] else [(low.getD 0, r.flags)]) }
  | some _, none => { x with low := low, flags := x.flags ++ y.flags }
  | none, some _ => { y with low := low, flags := x.flags ++ y.flags }
  | none, none => { val := none, low := low, flags := x.flags ++ y.flags }

/-- One level of the tree. -/
def sumLevel (mode : Word) : List SumNode → List SumNode
  | x :: y :: rest => sumNode mode x y :: sumLevel mode rest
  | l => l

/-- The tree of 2^n leaves. -/
def sumTree (mode : Word) : Nat → List SumNode → List SumNode
  | 0, l => l
  | n + 1, l => sumTree mode n (sumLevel mode l)

/-- Levels of a tree over n leaves: ⌈log2 n⌉. -/
def treeLevels (n : Nat) : Nat := if n ≤ 1 then 0 else Nat.log2 (n - 1) + 1

/-- The root over the team's home lanes. -/
def rdxRoot (mode : Word) (ngrp : Nat) (leaf : Nat → Option Double) : SumNode :=
  let n := treeLevels (32 * ngrp)
  let leaves := (List.range (2 ^ n)).map fun h =>
    { val := leaf h, low := (leaf h).map fun _ => h, flags := [] : SumNode }
  (sumTree mode n leaves).headD { val := none, low := none, flags := [] }

/-- RDX (R400): a flagged addition marks the live lane of the lowest home lane under its node. -/
def execRdx (m : Mods) (d a : Reg) (s : State) : Out :=
  issue (.rdx m d a) s fun c t s =>
    let w := typeWide c.mode
    let x : Srcs := { a := .v a.toNat w, b := .none, d := .none }
    let ok := if w then t.hasSP d.toNat else t.hasS d.toNat
    checked true x { needType c.mode divType with illegal := !ok } (fun c t live s =>
      match s.consumeRegs c t live x .none with
      | (s, none) => s
      | (s, some (t, live)) =>
        let leaf (h : Nat) : Option Double :=
          match t.threads[h]? with
          | some th => if maskHas live th.pos then some (c.read t s.tick x 0 th.pos) else none
          | none => none
        let root := rdxRoot c.mode t.ngrp leaf
        let traps := modeTraps c.mode
        let hit := root.flags.filter fun f => f.2 &&& traps != 0
        let t1 := t.passed (maskRows (c.lanes t ||| live)).length
        if !hit.isEmpty then
          (s.setTeam t1).takeTrap c { trapOf 0x06 with info := (hit.foldl (fun b f => b ||| (f.2 &&& traps)) 0#8).setWidth 64 }
            (maskOf (hit.map fun f => (t.thread f.1).pos)) (some (c.capture t s.tick x live)) c.next
        else
          let t2 := t1.freeLanes live (if m.lua then x.a.vregs else [])
          let t3 := root.flags.foldl (fun (t : Team) f =>
            (t.modThread f.1 fun th => { th with flags := th.flags ||| f.2 }).markF ((t.thread f.1).pos / 32)) t2
          let v := root.val.getD 0
          (s.setTeam (if w then t3.putSP d.toNat v else t3.putS d.toNat (v.setWidth 32))).finish c c.next) c t s

end Sys2Proof.Machine
end

