-- ==== Sys2Proof/Machine/BlockFmt.lean ====
section
/-! DEFINITION. The block formats BX9, BX6 and BX4 (spec/05 R106 to R109): elements of a block, quantise, dequantise. -/

namespace Sys2Proof.Machine

open Sys2Proof

/-- Magnitude bits m of block format 0 BX9, 1 BX6, 2 BX4 (R106). -/
def bxMag (fmt : Nat) : Nat :=
  match fmt with
  | 0 => 7
  | 1 => 4
  | _ => 2

/-- Bytes of a block: 18, 12 or 8 (R106). -/
def bxBytes (fmt : Nat) : Nat := 2 + 2 * (bxMag fmt + 1)

/-- Words that a block spans in a quantisation group: 5, 3 or 2 (R350). -/
def bxWords (fmt : Nat) : Nat := (bxBytes fmt + 3) / 4

/-- The shared exponent E of a block. -/
def bxExp (blk : Nat) : Nat := blk % 256

/-- t(g), the sub-shift of quad g. -/
def bxShift (blk g : Nat) : Nat := blk / 2 ^ (8 + 2 * g) % 4

/-- Element i as a number (R107): NaN in a NaN block, a zero of its sign under NFZ with E = 0. -/
def bxElem (fmt : Nat) (nfz : Bool) (blk i : Nat) : FNum :=
  let m := bxMag fmt
  let el := blk / 2 ^ (16 + i * (m + 1)) % 2 ^ (m + 1)
  let s := el / 2 ^ m == 1
  let e := bxExp blk
  if e = 255 then .nan false (2 ^ 22) true
  else if nfz && e = 0 then .fin s 0 0
  else .fin s (el % 2 ^ m) ((e : Int) - 127 - bxShift blk (i / 4) - (m - 1 : Nat))

/-- The NaN block: E = 255, every other bit 0 (R108, R113). -/
def nanBlock : Nat := 255

/-- |y| / 2^p as a ratio, for y = ±m1·2^e1 / m2·2^e2. -/
def quotAt (m1 : Nat) (e1 : Int) (m2 : Nat) (e2 p : Int) : Nat × Nat :=
  let e := e1 - e2 - p
  if e ≥ 0 then (m1 * 2 ^ e.toNat, m2) else (m1, m2 * 2 ^ (-e).toNat)

/-- One element of `quantise`: its magnitude, which is |q| rounded as a value without sign, and its flags. -/
def quantElem (m : Nat) (x : FNum) (sm : Nat) (se p : Int) (rnd : Rnd) : Nat × Byte :=
  match x with
  | .fin _ xm xe =>
    let (n, d) := quotAt xm xe sm se p
    let (r, exact) := roundInt rnd false n d false
    if r > 2 ^ m - 1 then (2 ^ m - 1, OF ||| NX) else (r, if exact then 0 else NX)
  | _ => (2 ^ m - 1, NV)

/-- Whether every |y| of a quad fits under maxmag × 2^(E − 127 − t). -/
def quadFits (m E t : Nat) (sm : Nat) (se : Int) (xs : List FNum) : Bool :=
  xs.all fun x =>
    match x with
    | .fin _ xm xe =>
      let (n, d) := quotAt xm xe sm se ((E : Int) - 127 - t - (m - 1 : Nat))
      decide (n ≤ (2 ^ m - 1) * d)
    | _ => false

/-- The largest sub-shift that fits, 0 when none does. -/
def quadShift (m E : Nat) (sm : Nat) (se : Int) (xs : List FNum) : Nat :=
  if quadFits m E 3 sm se xs then 3 else if quadFits m E 2 sm se xs then 2
  else if quadFits m E 1 sm se xs then 1 else 0

/-- quantise of R108: 16 F32 inputs with the rounding of each, the scale's bits, the shared exponent; the block and the
flags of each element. -/
def quantise (fmt : Nat) (nfz : Bool) (xs : List (Nat × Rnd)) (scale E : Nat) : Nat × List Byte :=
  let m := bxMag fmt
  let nums := xs.map fun x => (unpack f32 false x.1, x.2)
  let bad : Nat × List Byte := (nanBlock, xs.map fun _ => NV)
  match unpack f32 false scale with
  | .fin false sm se =>
    if scale / 2 ^ 23 % 256 = 0 || E > 254 || nums.any (fun x => x.1.isNan) then bad
    else
      let shift (g : Nat) : Nat := quadShift m E sm se (((nums.drop (4 * g)).take 4).map Prod.fst)
      let els := nums.zipIdx.map fun (x, i) =>
        let (r, f) := quantElem m x.1 sm se ((E : Int) - 127 - shift (i / 4) - (m - 1 : Nat)) x.2
        let flush := nfz && E = 0
        let f := if flush && !x.1.isInf && !x.1.isZero then f ||| UF ||| NX else f
        ((if x.1.sign then 2 ^ m else 0) + (if flush then 0 else r), f)
      let body := els.zipIdx.foldl (fun acc (el, i) => acc + el.1 * 2 ^ (16 + i * (m + 1))) 0
      let t := (List.range 4).foldl (fun acc g => acc + shift g * 2 ^ (8 + 2 * g)) 0
      (E + t + body, els.map Prod.snd)
  | _ => bad

/-- Element i of a block times the scale, rounded once to F32 (R109, R351). An element with M = 0 gives a zero, under an
infinite scale too, as R351 says in so many words. -/
def dequantise (fmt : Nat) (env : FEnv) (blk i scale : Nat) : FRes :=
  if bxExp blk = 255 then { bits := 0x7FC00000, flags := 0 }
  else
    let s := unpack f32 false scale
    (nanResult f32 [s]).getD <|
      match bxElem fmt env.nfz blk i, s with
      | .fin es em ee, .fin ss sm se => roundTo f32 false env.rnd (es != ss) (em * sm) 1 (ee + se) false
      | .fin es em _, s =>
        if em = 0 then { bits := zeroOf f32 (es != s.sign), flags := 0 } else { bits := infOf f32 (es != s.sign), flags := 0 }
      | _, _ => { bits := 0x7FC00000, flags := 0 }

end Sys2Proof.Machine
end

