-- ==== Sys2Proof/Machine/Convert.lean ====
section
/-! DEFINITION. Class 4, conversion and special functions (spec/04 R82, R89; R320, R342, R347, R350, R351, R359, R396, R399,
R407): CVT, the block formats, AMAX and the six functions of R124. -/

namespace Sys2Proof.Machine

open Sys2Proof

/-! ### CVT (R120, R347) -/

/-- RC of a literal: 0 is the mode register's RND (R89); 1 to 6 name the attributes of R110 as RND 0 to 5 does. -/
def rcOf (mode : Word) (rc : Nat) : Nat := if rc = 0 then modeRnd mode else rc - 1

/-- Width and signedness of an integer format of R89. -/
def intFormat (f : Nat) : Option (Nat × Bool) :=
  match f with
  | 0 => some (32, true)
  | 1 => some (32, false)
  | 2 => some (64, true)
  | 3 => some (64, false)
  | 10 => some (8, true)
  | 11 => some (8, false)
  | 12 => some (16, true)
  | 13 => some (16, false)
  | _ => none

/-- The binary format of a floating format of R89; packed ones give their elements'. -/
def floatFormat (f : Nat) : Option Fmt :=
  match f with
  | 4 => some f32
  | 5 => some f64
  | 6 => some f16
  | 7 => some bf16
  | 8 => some f16
  | 9 => some bf16
  | _ => none

def packedFormat (f : Nat) : Bool := f == 6 || f == 7

/-- Formats of 64 bits, held in pairs. -/
def wideFormat (f : Nat) : Bool := f == 2 || f == 3 || f == 5

/-- The pairs that CVT implements (R120). -/
def cvtPair (src dst : Nat) : Bool := packedFormat src == packedFormat dst

/-- A pair whose elements draw a variate under STO: one that can round (R111). -/
def cvtDraws (src dst : Nat) : Bool :=
  match intFormat src, intFormat dst with
  | some _, some _ => false
  | some (w, _), none =>
    match floatFormat dst with
    | some k => !decide (w ≤ k.f + 1)
    | none => false
  | none, some _ => true
  | none, none =>
    match floatFormat src, floatFormat dst with
    | some a, some b => !(decide (a.e ≤ b.e) && decide (a.f ≤ b.f))
    | _, _ => false

/-- An integer of a format in 32 or 64 bits: 8- and 16-bit formats extended as their sign says. -/
def extendInt (f : Nat) (x : Nat) : Nat :=
  match intFormat f with
  | some (w, true) => lowBits (sextInt x w) (if w = 64 then 64 else 32)
  | _ => x

/-- Integer to integer. -/
def cvtInt (dst : Nat) (sat : Bool) (v : Int) : FRes :=
  match intFormat dst with
  | none => { bits := 0, flags := 0 }
  | some (w, signed) =>
    let lo : Int := if signed then -((2 ^ (w - 1) : Nat) : Int) else 0
    let hi : Int := if signed then ((2 ^ (w - 1) : Nat) : Int) - 1 else ((2 ^ w : Nat) : Int) - 1
    if lo ≤ v && v ≤ hi then { bits := extendInt dst (lowBits v w), flags := 0 }
    else if sat then { bits := extendInt dst (lowBits (if v < lo then lo else hi) w), flags := SATF ||| NX }
    else { bits := extendInt dst (lowBits v w), flags := NX }

/-- One element of CVT: formats, saturate bit, environment, source bits. -/
def cvtElem (src dst : Nat) (sat : Bool) (env : FEnv) (x : Nat) : FRes :=
  match intFormat src with
  | some (w, signed) =>
    let v : Int := if signed then sextInt x w else ((x % 2 ^ w : Nat) : Int)
    match floatFormat dst with
    | some k => intToF k env sat v
    | none => cvtInt dst sat v
  | none =>
    match floatFormat src with
    | none => { bits := 0, flags := 0 }
    | some a =>
      let x := x % 2 ^ a.bits
      match intFormat dst with
      | some (w, signed) =>
        let r := fToInt a env signed w x
        { r with bits := extendInt dst r.bits }
      | none =>
        match floatFormat dst with
        | some b => fcvt a b env sat x
        | none => { bits := 0, flags := 0 }

/-- The rounding of the next element: under STO it draws a variate (R111, R243). -/
def nextRnd (rnd : Nat) (draw : Bool) (cv : ChoiceState) : Rnd × ChoiceState :=
  if rnd = 5 && draw then
    let (raw, cv) := cv.drawRound
    (.sto raw, cv)
  else (Rnd.ofMode rnd, cv)

/-- CVT in one lane; a helper lane rounds STO as RNE and draws nothing. -/
def laneCvt (l : LCvt) (mode : Word) (helper : Bool) (cv : ChoiceState) (x : Double) : LaneOut :=
  let src := l.src.toNat
  let dst := l.dst.toNat
  let rnd := rcOf mode l.rc.toNat
  let draw := cvtDraws src dst && !helper
  let (r0, cv0) := nextRnd rnd draw cv
  let env (r : Rnd) : FEnv := { rnd := r, nfz := modeNfz mode }
  if packedFormat src then
    let (r1, cv1) := nextRnd rnd draw cv0
    let e0 := cvtElem src dst l.sat (env r0) (x.toNat % 2 ^ 16)
    let e1 := cvtElem src dst l.sat (env r1) (x.toNat / 2 ^ 16 % 2 ^ 16)
    { val := BitVec.ofNat 64 (e0.bits + e1.bits * 2 ^ 16), flags := e0.flags ||| e1.flags,
      cv := if rnd = 5 && draw then some cv1 else none }
  else
    { LaneOut.res (cvtElem src dst l.sat (env r0) x.toNat) with cv := if rnd = 5 && draw then some cv0 else none }

/-- CVT (R347). -/
def execCvt (m : Mods) (d a : Reg) (l : LCvt) (s : State) : Out :=
  execAlu (.cvt m d a l) s fun c _ _ =>
    let src := l.src.toNat
    let dst := l.dst.toNat
    { m := m, x := { a := .v a.toNat (wideFormat src), b := .none, d := .none }, dst := .v d.toNat (wideFormat dst),
      lat := lat46 (wideFormat src || wideFormat dst),
      check := { priv := false, illegal := src ≥ 14 || dst ≥ 14 || l.rc.toNat = 7,
                 unsupported := if cvtPair src dst then none else some (src + 16 * dst) },
      fmt := dst, f := fun pin p => laneCvt l c.mode (pin.helper p) (pin.th p).cv (pin.rd 0 p) }

/-! ### Block formats (R350, R351, R396) -/

/-- Positions of quantisation group k of a row. -/
def groupBase (p : Nat) : Nat := p / 16 * 16

/-- QNT of one group: the block, and for each of its 16 positions its flags and choice vector after the draw. -/
def qntGroup (l : LQnt) (c : Ctx) (pin : PassIn) (base : Nat) : Nat × List (Byte × Option ChoiceState) :=
  let rnd := rcOf c.mode l.rc.toNat
  let ps := (List.range 16).map fun i => base + i
  let ins := ps.map fun p =>
    if maskHas pin.live p then
      let (r, cv) := nextRnd rnd true (pin.th p).cv
      ((pin.rd 0 p).toNat % 2 ^ 32, r, if rnd = 5 then some cv else none)
    else (0, Rnd.rne, none)
  let first := (ps.find? fun p => maskHas pin.live p).getD base
  let e := (pin.rd 0 first).toNat / 2 ^ 32 % 256
  let q := quantise l.fmt.toNat (modeNfz c.mode) (ins.map fun x => (x.1, x.2.1)) (pin.rd 1 first).toNat e
  (q.1, q.2.zip (ins.map fun x => x.2.2))

/-- QNT in one lane. A helper lane receives its word of the block that the group's live lanes form (R38; log 22). -/
def laneQnt (l : LQnt) (c : Ctx) (pin : PassIn) (p : Nat) : LaneOut :=
  let i := p % 16
  let g := qntGroup l c pin (groupBase p)
  let o := (g.2[i]?).getD (0, none)
  { val := BitVec.ofNat 64 (g.1 / 2 ^ (32 * i) % 2 ^ 32), flags := o.1, cv := o.2 }

/-- A group without a live lane forms no block: its helper lanes keep their registers (log 22). -/
def emptyGroup (pin : PassIn) (p : Nat) : Bool := (List.range 16).all fun j => !maskHas pin.live (groupBase p + j)

/-- QNT (R396). -/
def execQnt (m : Mods) (d a b : Reg) (l : LQnt) (s : State) : Out :=
  execAlu (.qnt m d a b l) s fun c _ _ =>
    { m := m, x := { a := .vv a.toNat, b := .s b.toNat false, d := .none }, dst := .v d.toNat false, lat := none,
      check := Check.operand (l.fmt.toNat ≤ 2 && l.rc.toNat ≤ 6), fmt := 1, f := fun pin p => laneQnt l c pin p,
      writes := fun p => p % 16 < bxWords l.fmt.toNat, keeps := emptyGroup, pois := fun p => BitVec.ofNat 64 (nanBlock / 2 ^ (32 * (p % 16)) % 2 ^ 32) }

/-- Word w of a block in the group at base: a dead position reads 0xDEADDEAD (R351). -/
def blockWord (pin : PassIn) (q : Nat) : Nat :=
  if (pin.th q).life = .dead then 0xDEADDEAD else (pin.rd 0 q).toNat % 2 ^ 32

/-- The block that register a holds in a group (R350). -/
def blockAt (fmt : Nat) (pin : PassIn) (base : Nat) : Nat :=
  ((List.range (bxWords fmt)).foldl (fun v w => v + blockWord pin (base + w) * 2 ^ (32 * w)) 0) % 2 ^ (8 * bxBytes fmt)

/-- DQNT (R351): every live lane reads the words of its group's block, and FREED_READ is for its own entry. -/
def execDqnt (m : Mods) (d a b : Reg) (l : LDqnt) (s : State) : Out :=
  execAlu (.dqnt m d a b l) s fun c t tick =>
    { m := m, x := { a := .v a.toNat false, b := .s b.toNat false, d := .none }, dst := .v d.toNat false, lat := none,
      check := { Check.operand (l.fmt.toNat ≤ 2) with
        exch := some ((maskLanes (c.live t tick)).flatMap fun p => (List.range (bxWords l.fmt.toNat)).map fun w => (p, groupBase p + w)),
        ownFreed := true }, fmt := 4,
      f := fun pin p =>
        LaneOut.res (dequantise l.fmt.toNat (envOf c.mode) (blockAt l.fmt.toNat pin (groupBase p)) (p % 16) (pin.rd 1 p).toNat) }

/-! ### AMAX (R320) -/

/-- Elements of an operand under TYPE. -/
def elements (ty : Nat) (x : Double) : List Nat :=
  if ty = 6 || ty = 7 then [x.toNat % 2 ^ 16, x.toNat / 2 ^ 16 % 2 ^ 16] else [x.toNat]

/-- Magnitudes of the live lanes of the block that holds position p. -/
def amaxInputs (c : Ctx) (pin : PassIn) (p : Nat) : List FNum :=
  let ty := modeType c.mode
  let n := if ty = 6 || ty = 7 then 8 else 16
  let base := p / n * n
  (((List.range n).map fun i => base + i).filter (maskHas pin.live)).flatMap fun q =>
    (elements ty (pin.rd 0 q)).map fun x => unpack (fmtOf ty) (modeNfz c.mode) x

/-- The largest finite magnitude of a list. -/
def amaxFinite (xs : List FNum) : FNum :=
  xs.foldl (fun best x => match x with
    | .fin _ m e => if best.lt (.fin false m e) then .fin false m e else best
    | _ => best) (.fin false 0 0)

/-- The value form. -/
def amaxValue (xs : List FNum) : Nat :=
  if xs.any FNum.isNan then 0x7FC00000
  else if xs.any FNum.isInf then 0x7F800000
  else match amaxFinite xs with
    | .fin _ m e => (roundTo f32 false .rne false m 1 e false).bits
    | _ => 0

/-- The exponent form. -/
def amaxExponent (xs : List FNum) : Nat :=
  if xs.any FNum.isNan || xs.any FNum.isInf then 255
  else match amaxFinite xs with
    | .fin _ m e =>
      if m = 0 then 0
      else
        let v : Int := log2Ratio m 1 + e + 127
        if v < 0 then 0 else if v > 254 then 254 else v.toNat
    | _ => 0

def amaxAlu (m : Mods) (c : Ctx) (d a : Reg) (ok : Nat → Bool) (fmt : Nat) (f : List FNum → Nat) : Alu :=
  let w := typeWide c.mode
  { m := m, x := { a := .v a.toNat w, b := .none, d := .none }, dst := .v d.toNat false, lat := lat46 w,
    check := needType c.mode ok, fmt := fmt, f := fun pin p => .nat (f (amaxInputs c pin p)) }

/-- AMAX, value form (R320). -/
def execAmaxValue (m : Mods) (d a : Reg) (s : State) : Out :=
  execAlu (.amaxValue m d a) s fun c _ _ => amaxAlu m c d a (fun ty => ty == 4 || ty == 6 || ty == 7) 4 amaxValue

/-- AMAX, exponent form (R320). -/
def execAmaxExponent (m : Mods) (d a : Reg) (s : State) : Out :=
  execAlu (.amaxExponent m d a) s fun c _ _ => amaxAlu m c d a floatType 1 amaxExponent

/-! ### The functions of R124 -/

/-- One of the six functions, in F32 or in each element of F16X2 (R124). -/
def approxAlu (fn : ApproxFn) (m : Mods) (c : Ctx) (d a : Reg) : Alu :=
  let ty := modeType c.mode
  { m := m, x := { a := .v a.toNat false, b := .none, d := .none }, dst := .v d.toNat false, lat := some 8,
    check := needType c.mode (fun ty => ty == 4 || ty == 6), fmt := ty,
    f := fun pin p => elemwise ty (pin.rd 0 p) 0 0 fun x _ _ => approx fn (fmtOf ty) (modeNfz c.mode) x }

/-- EXP2 (R359). -/
def execExp2 (m : Mods) (d a : Reg) (s : State) : Out := execAlu (.exp2 m d a) s fun c _ _ => approxAlu .exp2 m c d a

/-- LOG2 (R359). -/
def execLog2 (m : Mods) (d a : Reg) (s : State) : Out := execAlu (.log2 m d a) s fun c _ _ => approxAlu .log2 m c d a

/-- SIN (R407). -/
def execSin (m : Mods) (d a : Reg) (s : State) : Out := execAlu (.sin m d a) s fun c _ _ => approxAlu .sin m c d a

/-- COS (R342). -/
def execCos (m : Mods) (d a : Reg) (s : State) : Out := execAlu (.cos m d a) s fun c _ _ => approxAlu .cos m c d a

/-- RCP (R399). -/
def execRcp (m : Mods) (d a : Reg) (s : State) : Out := execAlu (.rcp m d a) s fun c _ _ => approxAlu .rcp m c d a

/-- RSQ (R399). -/
def execRsq (m : Mods) (d a : Reg) (s : State) : Out := execAlu (.rsq m d a) s fun c _ _ => approxAlu .rsq m c d a

end Sys2Proof.Machine
end

