-- ==== Sys2Proof/Machine/Matrix.lean ====
section
/-! DEFINITION. Class 9, the matrix unit (spec/16 R270 to R283; R376, R378, R381, R382, R385; spec/05 R123; the charge of a step
spec/08 R196, R197, R199): MLOOP and its steps, tiles, accumulators, the reservation, MWAIT. -/

namespace Sys2Proof.Machine

open Sys2Proof

/-! ### The format block (R273, R274) -/

structure FormatBlock where
  fa : Nat
  fb : Nat
  la : Nat
  lb : Nat
  tb : Nat
  tn : Nat
  ncol : Nat
  mrow : Nat
  ssa : Nat
  ssb : Nat
  abase : Nat
  kbase : Nat
  sca : Nat
  scb : Nat
  /-- the reserved fields -/
  resv : Nat
  deriving DecidableEq, Repr

def FormatBlock.parse (x : Nat) : FormatBlock :=
  let or (v d : Nat) : Nat := if v = 0 then d else v
  { fa := bitsOf x 3 0, fb := bitsOf x 7 4, la := bitsOf x 19 16, lb := bitsOf x 23 20, tb := bitsOf x 27 24,
    tn := or (bitsOf x 31 28) 16, ncol := or (bitsOf x 37 32) 32, mrow := or (bitsOf x 45 40) 32, ssa := bitsOf x 111 96,
    ssb := bitsOf x 127 112, abase := bitsOf x 159 128, kbase := bitsOf x 191 160, sca := bitsOf x 223 192, scb := bitsOf x 255 224,
    resv := bitsOf x 95 46 + bitsOf x 39 38 + bitsOf x 15 8 }

def outerOk (l f : Nat) : Bool := l == 0 || (4 ≤ l && l ≤ 12 && 4 ≤ f)

/-- No field raises ILLEGAL_OPERAND. -/
def FormatBlock.legal (f : FormatBlock) (ntile : Nat) : Bool :=
  f.resv == 0 && f.mrow ≤ 32 && f.ncol ≤ 32 && f.fa ≤ 6 && f.fb ≤ 6 && outerOk f.la f.fa && outerOk f.lb f.fb && f.tb + f.tn ≤ ntile

/-- The combinations of R270. -/
def FormatBlock.combines (f : FormatBlock) : Bool := f.fa == f.fb || (4 ≤ f.fa && 4 ≤ f.fb)

/-- k of a format on its own. -/
def stepK (fmt : Nat) : Nat :=
  match fmt with
  | 0 => 8
  | 1 => 32
  | 2 => 128
  | 3 => 128
  | 4 => 256
  | 5 => 512
  | _ => 1024

/-- k of a step: that of the wider format. -/
def FormatBlock.k (f : FormatBlock) : Nat := if f.fa ≤ f.fb then stepK f.fa else stepK f.fb

/-- Bytes of k elements of a format. -/
def lineBytes (fmt k : Nat) : Nat :=
  match fmt with
  | 0 => 8 * k
  | 1 => 4 * k
  | 2 => 2 * k
  | 3 => 2 * k
  | _ => k / 16 * bxBytes (fmt - 4)

def FormatBlock.rowBytes (f : FormatBlock) : Nat := lineBytes f.fa f.k
def FormatBlock.colBytes (f : FormatBlock) : Nat := lineBytes f.fb f.k

/-- The tile of step n. -/
def FormatBlock.tile (f : FormatBlock) (n : Nat) : Nat := f.tb + n % f.tn

/-- Offset of row i of A for step n (R271). -/
def FormatBlock.rowAt (f : FormatBlock) (inc : Word) (n i : Nat) : Int := (f.abase : Int) + (n : Int) * inc.toInt + (i * f.rowBytes : Nat)

/-- Offset of the scale of a row or column for the chunk at κ. -/
def scaleAt (base ss l i kappa : Nat) : Nat := base + 4 * (i * ss + kappa / 2 ^ l)

/-- κ of chunk c of step n. -/
def FormatBlock.kappa (f : FormatBlock) (n c : Nat) : Nat := f.kbase + n * f.k + 16 * c

def alignmentAt (off : Nat) : TrapInfo := { trapOf 0x0A with vaddr := BitVec.ofNat 64 off }
def scratchDenied (off : Int) : TrapInfo := { trapOf 0x0C with vaddr := BitVec.ofNat 64 (lowBits off 32), info := 1 }

/-- Alignment and range of an offset's bytes (R275). -/
def Block.scratchCheck (b : Block) (off n align : Nat) : Option TrapInfo :=
  if off % align != 0 then some (alignmentAt off) else if off + n ≤ b.scrsz then none else some (scratchDenied off)

/-- The causes that the format block and its operands raise, in the order of R275. -/
def FormatBlock.check (f : FormatBlock) (b : Block) (inc : Word) (K : Nat) : Option TrapInfo :=
  let last (n : Nat) : Nat := f.kbase + K * f.k - 16 + n
  let bad (n : Nat) : Bool := f.rowAt inc n 0 < 0 || f.rowAt inc n f.mrow > (b.scrsz : Int)
  if !f.legal b.ntile then some illegalOperand
  else if !f.combines then some { trapOf 0x04 with info := BitVec.ofNat 64 (f.fa + 16 * f.fb) }
  else if f.abase % 16 != 0 then some (alignmentAt f.abase)
  else if K > 1 && inc.toNat % 16 != 0 then some (alignmentAt (lowBits (f.rowAt inc 1 0) 32))
  else if f.la != 0 && f.sca % 4 != 0 then some (alignmentAt f.sca)
  else if f.lb != 0 && f.scb % 4 != 0 then some (alignmentAt f.scb)
  else if bad 0 then some (scratchDenied (f.rowAt inc 0 0))
  else if bad (K - 1) then some (scratchDenied (f.rowAt inc (K - 1) 0))
  else if f.la != 0 && scaleAt f.sca f.ssa f.la (f.mrow - 1) (last 0) + 4 > b.scrsz then some (scratchDenied f.sca)
  else if f.lb != 0 && scaleAt f.scb f.ssb f.lb (f.ncol - 1) (last 0) + 4 > b.scrsz then some (scratchDenied f.scb)
  else none

/-! ### One step (R123, R270, R271, R276, R281, R282) -/

/-- The operands of a step: a row of A, a column of B, the scales of a row and a column for a chunk, and element (i, j) of C. -/
structure StepIn where
  f : FormatBlock
  rnd : Rnd
  nfz : Bool
  row : Nat → Nat
  col : Nat → Nat
  scaleA : Nat → Nat → Nat
  scaleB : Nat → Nat → Nat
  acc : Nat → Nat → Nat

/-- Element x of w bits of a row or column. -/
def lineElem (line w x : Nat) : Nat := line / 2 ^ (w * x) % 2 ^ w

/-- round_F32 of the exact sum of products, with the sign that R123 gives a zero sum. -/
def dotProduct (rnd : Rnd) (ps : List (FNum × FNum)) : FRes :=
  let invalidPair (x : FNum × FNum) : Bool := (x.1.isInf && x.2.isZero) || (x.1.isZero && x.2.isInf)
  let infs := (ps.filter fun x => (x.1.isInf || x.2.isInf) && !x.1.isNan && !x.2.isNan && !invalidPair x).map fun x => x.1.sign != x.2.sign
  let clash := infs.contains true && infs.contains false
  let nv := ps.any (fun x => x.1.isSnan || x.2.isSnan || invalidPair x) || clash
  if nv || ps.any (fun x => x.1.isNan || x.2.isNan) then { bits := dnan f32, flags := if nv then NV else 0 }
  else
    match infs with
    | s :: _ => { bits := infOf f32 s, flags := 0 }
    | [] =>
      let (s, m, e) := ps.foldl (fun (a : Bool × Nat × Int) x =>
        match x.1, x.2 with
        | .fin s1 m1 e1, .fin s2 m2 e2 => addExact a.1 a.2.1 a.2.2 (s1 != s2) (m1 * m2) (e1 + e2)
        | _, _ => a) (false, 0, 0)
      if m = 0 then
        let signs := ps.map fun x => x.1.sign != x.2.sign
        let z := if signs.all id then true else if signs.all not then false else rnd == .rdn
        { bits := zeroOf f32 z, flags := 0 }
      else roundTo f32 false rnd s m 1 e false

/-- One accumulation: the bits of c so far and the flags so far. -/
def accumulate (acc : FRes) (r : FRes) : FRes := { bits := r.bits, flags := acc.flags ||| r.flags }

/-- C[i][j] after the step (R123). -/
def StepIn.element (x : StepIn) (i j : Nat) : FRes :=
  let env : FEnv := { rnd := x.rnd, nfz := x.nfz }
  let a := x.row i
  let b := x.col j
  let c0 : FRes := { bits := if x.f.fa = 0 then x.acc i j else x.acc i j % 2 ^ 32, flags := 0 }
  let r : FRes :=
    if x.f.fa ≤ 1 then
      let k := if x.f.fa = 0 then f64 else f32
      (List.range x.f.k).foldl (fun c n => accumulate c (ffma k env (lineElem a k.bits n) (lineElem b k.bits n) c.bits)) c0
    else if x.f.fa ≤ 3 then
      let k := if x.f.fa = 2 then f16 else bf16
      (List.range (x.f.k / 8)).foldl (fun c g =>
        let t := dotProduct x.rnd ((List.range 8).map fun n =>
          (unpack k x.nfz (lineElem a 16 (8 * g + n)), unpack k x.nfz (lineElem b 16 (8 * g + n))))
        accumulate (accumulate c { t with bits := c.bits }) (fadd f32 env c.bits t.bits)) c0
    else
      let blkA := 8 * bxBytes (x.f.fa - 4)
      let blkB := 8 * bxBytes (x.f.fb - 4)
      (List.range (x.f.k / 16)).foldl (fun c g =>
        let p := lineElem a blkA g
        let q := lineElem b blkB g
        let t := dotProduct x.rnd ((List.range 16).map fun n => (bxElem (x.f.fa - 4) x.nfz p n, bxElem (x.f.fb - 4) x.nfz q n))
        let sg := fmul f32 env (x.scaleA i g) (x.scaleB j g)
        accumulate (accumulate c { bits := c.bits, flags := t.flags ||| sg.flags }) (ffma f32 env t.bits sg.bits c.bits)) c0
  let k := if x.f.fa = 0 then f64 else f32
  if (unpack k false r.bits).isNan then { r with bits := dnan k } else r

/-- Default NaN of the step's output format (R270, R282). -/
def FormatBlock.nan (f : FormatBlock) : Nat := dnan (if f.fa = 0 then f64 else f32)

/-- n bytes of scratchpad for a matrix instruction issued when it held `seen`: an element stored since reads as it was or as it
is (R171). -/
def Block.matrixRead (b : Block) (tick : Nat) (seen : Memory) (off n : Nat) : Nat :=
  let old := Memory.readNat seen off n
  let new := Memory.readNat b.scratch off n
  if old = new then new else if Config.scratchRace tick off then old else new

/-- n bytes read element by element of w bytes. -/
def Block.matrixLine (b : Block) (tick : Nat) (seen : Memory) (off n w : Nat) : Nat :=
  (List.range (n / w)).foldl (fun v e => v + b.matrixRead tick seen (off + w * e) w * 2 ^ (8 * w * e)) 0

/-- Bytes of an element of a format, of a block of a block format. -/
def elemBytes (fmt : Nat) : Nat :=
  match fmt with
  | 0 => 8
  | 1 => 4
  | 2 => 2
  | 3 => 2
  | _ => bxBytes (fmt - 4)

/-- Offset in its tile of column j (R271). -/
def FormatBlock.colAt (f : FormatBlock) (j : Nat) : Nat := j / 8 * 0x1000 + j % 8 * f.colBytes

/-- n bytes of tile t at an offset. -/
def Block.tileNat (b : Block) (t off n : Nat) : Nat := leNat ((List.range n).map fun i => b.tileByte (t * 0x4000 + off + i))

def Block.accAt (b : Block) (acc i j : Nat) : Double := Table.get b.accs (1024 * acc + 32 * i + j)

/-- What step n of a loop reads. -/
def Block.stepIn (b : Block) (tick : Nat) (f : FormatBlock) (acc n : Nat) (inc : Word) (rnd : BitVec 3) (nfz : Bool) (seen : Memory) :
    StepIn :=
  let one : Nat := 0x3F800000
  let scale (l base ss i g : Nat) : Nat := if l = 0 then one else b.matrixRead tick seen (scaleAt base ss l i (f.kappa n g)) 4
  { f := f, rnd := Rnd.ofMode rnd.toNat, nfz := nfz,
    row := fun i => b.matrixLine tick seen (f.rowAt inc n i).toNat f.rowBytes (elemBytes f.fa),
    col := fun j => b.tileNat (f.tile n) (f.colAt j) f.colBytes,
    scaleA := scale f.la f.sca f.ssa, scaleB := scale f.lb f.scb f.ssb,
    acc := fun i j => (b.accAt acc i j).toNat }

/-- An uncorrectable word of the site lies in a range of bytes. -/
def softIn (s : State) (off n : Nat) (site : Nat → SoftErrorSite) : Bool :=
  !s.soft.isEmpty && (List.range ((off + n + 3) / 4 - off / 4)).any fun i => s.soft.contains (site (off / 4 + i))

/-- Rows of C that an uncorrectable operand of the step affects: a word of A or of its scale its own row, of B or of its scale
every row (R282). -/
def State.badRows (s : State) (b : Block) (f : FormatBlock) (acc n : Nat) (inc : Word) : List Nat :=
  if s.soft.isEmpty then []
  else
    let scr (off len : Nat) : Bool := softIn s off len (.scratch b.uid)
    let chunks := List.range (f.k / 16)
    let scales (l base ss i : Nat) : Bool := l != 0 && chunks.any fun g => scr (scaleAt base ss l i (f.kappa n g)) 4
    let badB := (List.range f.ncol).any fun j =>
      softIn s (f.colAt j) f.colBytes (.tile b.uid (f.tile n)) || scales f.lb f.scb f.ssb j
    (List.range f.mrow).filter fun i =>
      badB || scr (f.rowAt inc n i).toNat f.rowBytes || scales f.la f.sca f.ssa i ||
      (List.range f.ncol).any fun j => s.soft.contains (.acc b.uid acc (32 * i + j))

def mflagECC : Word := 0x40

/-- ACCF of an accumulator set to a value. -/
def setAccf (m : Word) (acc : Nat) (f64 : Bool) : Word :=
  let bit := 0x10000#32 <<< acc
  if f64 then m ||| bit else m &&& ~~~bit

/-- A whole element of an accumulator written is no longer uncorrectable. -/
def State.scrubAcc (s : State) (blk acc : Nat) (elems : Nat → Bool) : State :=
  if s.soft.isEmpty then s
  else { s with soft := s.soft.filter fun x => match x with
    | .acc b a e => !(b == blk && a == acc && elems e)
    | _ => true }

/-- Performs step n of a loop on the block: its elements, its flags, the tile emptied (R272, R276, R281, R282). -/
def State.performStep (s : State) (b : Block) (f : FormatBlock) (acc n : Nat) (inc : Word) (rnd : BitVec 3) (nfz : Bool) (seen : Memory) :
    State :=
  let x := b.stepIn s.tick f acc n inc rnd nfz seen
  let bad := s.badRows b f acc n inc
  let cells := (List.range f.mrow).flatMap fun i => (List.range f.ncol).map fun j =>
    (32 * i + j, if bad.contains i then { bits := f.nan, flags := 0 } else x.element i j)
  let flags := cells.foldl (fun fl c => fl ||| c.2.flags) (0 : Byte)
  let m := setAccf (b.mflags ||| flags.setWidth 32) acc (f.fa == 0)
  let s := if bad.isEmpty then s else s.count 2
  (s.modBlock b.uid fun b =>
    { b with
      accs := cells.foldl (fun t c => Table.set t (1024 * acc + c.1) (BitVec.ofNat 64 c.2.bits)) b.accs,
      mflags := if bad.isEmpty then m else m ||| mflagECC,
      tfull := b.tfull &&& ~~~(1#16 <<< f.tile n) }).scrubAcc b.uid acc fun e => e / 32 < f.mrow && e % 32 < f.ncol

/-! ### The charge of a step (R196, R197, R199) -/

def stepBase (fmt : Nat) : Nat :=
  match fmt with
  | 0 => 2400
  | 1 => 1500
  | 2 => 1600
  | 3 => 1600
  | 4 => 1800
  | 5 => 2000
  | _ => 2200

/-- The A and B bits that a step reads, each row and column in a place of its own of 4,096 bits. -/
def StepIn.bits (x : StepIn) : Nat :=
  (List.range x.f.mrow).foldl (fun v i => v + x.row i * 2 ^ (4096 * i)) 0 +
    (List.range x.f.ncol).foldl (fun v j => v + x.col j * 2 ^ (4096 * (32 + j))) 0

def countOnes (x bits : Nat) : Nat := (List.range bits).foldl (fun n i => if x.testBit i then n + 1 else n) 0

/-- BASE + ⌈h / 32⌉. -/
def StepIn.charge (x : StepIn) (prev : Nat) : Nat :=
  stepBase (if x.f.fa ≤ x.f.fb then x.f.fa else x.f.fb) + (countOnes (Nat.xor x.bits prev) (64 * 4096) + 31) / 32

/-- The bits of the unit's previous step; after 32 idle cycles zero. -/
def State.prevBits (s : State) (core : Nat) : Nat := if Config.matrixIdle s.tick then 0 else (s.coreAt core).prevBits

/-- The grid's private pool holds the whole charge (R199). -/
def State.ownPool (s : State) (die gid charge : Nat) : Bool :=
  (s.dieAt die).privPools.any fun p => p.1 == gid && decide ((charge : Int) ≤ p.2)

/-- Draws a charge from the grid's private pool when that holds it, else from the die's, else not at all. -/
def State.grantCharge (s : State) (die gid charge : Nat) : Option State :=
  let d := s.dieAt die
  if s.ownPool die gid charge then
    some (s.modDie die fun d => { d with privPools := d.privPools.map fun p => if p.1 = gid then (p.1, p.2 - charge) else p })
  else if (charge : Int) ≤ d.pool then some (s.modDie die fun d => { d with pool := d.pool - charge })
  else none

/-! ### Issue of matrix instructions (R275) -/

/-- The unit serves the team: no other team holds the core's reservation (R280). -/
def State.serves (s : State) (t : Team) : Bool :=
  match (s.coreAt t.core).reservation with
  | some u => u == t.uid
  | none => true

/-- The Ostler's order (R197): steps that have waited 1,024 die cycles, the oldest first, and then the smallest charge, with ties to
the oldest. -/
def StepWait.before (a b : StepWait) : Bool :=
  if 1024 ≤ a.waited then b.waited < 1024 || b.waited < a.waited
  else b.waited < 1024 && (a.charge < b.charge || (a.charge == b.charge && b.waited < a.waited))

def Block.tileFull (b : Block) (t : Nat) : Bool := b.tfull.getLsbD t

/-- Runs f with the team's block. -/
def State.withBlock (s : State) (t : Team) (f : Block → State) : State :=
  match s.blockOf t with
  | none => s
  | some b => f b

def Team.accOk (s : State) (t : Team) (acc : Nat) : Bool := (s.blockOf t).any fun b => acc < b.nacc
def Team.tileOk (s : State) (t : Team) (tile : Nat) : Bool := (s.blockOf t).any fun b => tile < b.ntile

/-- Enters a job, in place of the one the team already has when that is re-executed (R283, R317). -/
def Block.enterJob (b : Block) (team : Nat) (again : Bool) (w : MatrixWork) : Nat × Block :=
  match b.jobs.find? fun j => again && j.team == team with
  | some j => (j.id, { b with jobs := b.jobs.map fun k => if k.id = j.id then { k with work := w } else k })
  | none => (b.nextJob, { b with jobs := b.jobs ++ [{ id := b.nextJob, team := team, work := w }], nextJob := b.nextJob + 1 })

/-- The format block at an offset, as scratchpad holds it. -/
def Block.formatAt (b : Block) (off : Nat) : Nat := Memory.readNat b.scratch off 32

/-- Something holds a job's team: it does not wait in its loop, it is stopped or its grid frozen, or its block is not running
(R212, R215, R228, R283). -/
def State.heldJob (s : State) (b : Block) (j : MatrixJob) (t : Team) : Bool :=
  t.run != .waiting (.mloop j.id) || t.stop.isSome || t.cause != 0 || ((b.preempting || b.resuming) && t.aside.isNone) || !b.resident ||
    s.dumpStops t.gid || t.run == .frozen

/-- The step of a running loop that waits for its charge on a core, its tile full, unless the unit serves another team. -/
def State.stepWait (s : State) (b : Block) (j : MatrixJob) : Option StepWait :=
  match j.work, s.team? j.team with
  | .loop acc raw inc _ n rnd nfz false waited seen, some t =>
    let f := FormatBlock.parse raw
    if s.heldJob b j t || !s.serves t || !b.tileFull (f.tile n) then none
    else some { waited := waited, charge := (b.stepIn s.tick f acc n inc rnd nfz seen).charge (s.prevBits b.core) }
  | _, _ => none

/-- Steps and passes of other teams on a die that wait for a charge from the die's pool: of loops that run, and of instructions that
have not issued. -/
def State.dieWaits (s : State) (die team : Nat) : List StepWait :=
  ((s.blocks.filter fun b => b.die == die).flatMap fun b =>
    (b.jobs.filter fun j => j.team != team).filterMap fun j =>
      (s.stepWait b j).filter fun w => !s.ownPool die b.gid w.charge) ++
  (s.teams.filter fun t => dieOf t.core == die && t.uid != team && s.mayIssue t).filterMap fun t =>
    t.tokenWait.filter fun w => !s.ownPool die t.gid w.charge

/-- The Ostler grants the team's charge: from the grid's private pool, or in its order from the die's (R197, R199). A step that comes
first and cannot be granted yet holds those behind it (log 43). -/
def State.grantStep (s : State) (die gid team : Nat) (w : StepWait) : Option State :=
  if !s.ownPool die gid w.charge && (s.dieWaits die team).any (fun o => o.before w) then none else s.grantCharge die gid w.charge

/-- The charge that the team's next instruction waits for. -/
def Team.chargeWait (t : Team) (charge : Nat) : StepWait := { waited := (t.tokenWait.map StepWait.waited).getD 0, charge := charge }

/-- The instruction has not issued: its team, as it was, waits for the charge. -/
def State.awaitToken (s0 : State) (t : Team) (charge : Nat) : State :=
  s0.modTeam t.uid fun u => { u with tokenWait := some (u.chargeWait charge) }

/-- The team is held only for a token (R191, R197). -/
def State.tokenHeld (s : State) (t : Team) : Bool :=
  (t.tokenWait.isSome && s.mayIssue t) || (s.blockOf t).any fun b => b.jobs.any fun j => j.team == t.uid && (s.stepWait b j).isSome

/-- A die cycle passes for the steps of the die that wait for a charge, and their teams count the issue slots that it holds (R345). -/
def State.ageWaits (s : State) (die : Nat) : State :=
  { s with
    tick := s.tick + 1,
    teams := s.teams.map fun t =>
      if dieOf t.core = die && s.tokenHeld t then
        { t with tokw := t.tokw + BitVec.ofNat 64 (Config.tokenSlots t.uid s.tick),
                 tokenWait := t.tokenWait.map fun w => { w with waited := w.waited + 1 } }
      else t,
    blocks := s.blocks.map fun b =>
      if b.die = die && !b.jobs.isEmpty then
        { b with jobs := b.jobs.map fun j =>
            match j.work with
            | .loop acc raw inc k n rnd nfz false waited seen =>
              if (s.stepWait b j).isSome then { j with work := .loop acc raw inc k n rnd nfz false (waited + 1) seen } else j
            | _ => j }
      else b }

/-- MLOOP's operands: the increment and the offset of its format block. -/
def Ctx.loopOperands (c : Ctx) (t : Team) (tick : Nat) (x : Srcs) : Word × Nat :=
  ((c.readTeam t tick x 0).setWidth 32, (c.readTeam t tick x 1).toNat)

/-- The cause that MLOOP's format block raises at issue (R275). -/
def Block.loopFault (b : Block) (inc : Word) (off K : Nat) : Option TrapInfo :=
  match b.scratchCheck off 32 32 with
  | some ti => some ti
  | none => (FormatBlock.parse (b.formatAt off)).check b inc K

/-- The scratchpad reads of a step meet the watchpoints (R224). -/
def State.watchStep (s : State) (c : Ctx) (t : Team) (f : FormatBlock) (inc : Word) (n : Nat) : State :=
  if s.watches.isEmpty then s
  else
    let lanes := c.lanes t
    let s := s.watchScratch c t lanes (f.rowAt inc n 0).toNat (f.mrow * f.rowBytes)
    let scales (s : State) (l base ss n' : Nat) : State :=
      if l = 0 then s
      else (List.range n').foldl (fun s i =>
        (List.range (f.k / 16)).foldl (fun s g => s.watchScratch c t lanes (scaleAt base ss l i (f.kappa n g)) 4) s) s
    scales (scales s f.la f.sca f.ssa f.mrow) f.lb f.scb f.ssb f.ncol

/-- MLOOP (R378): it issues when its first tile is full and its first step's charge is granted; until then the step leaves
s0, the state before it, where the team may wait for the charge (R197). -/
def execMloop (m : Mods) (d a b : Reg) (l : LMloop) (s0 : State) : Out :=
  issue (.mloop m d a b l) s0 fun c t s =>
    let x := scalars (some a) (some b)
    let K := l.k.toNat
    let word := Check.operand (Team.accOk s t d.toNat && K != 0)
    let fault : Option TrapInfo :=
      if word.illegal || !x.ok t then none
      else ((s.release c.uid).blockOf t).bind fun b =>
        let (inc, off) := c.loopOperands t s.tick x
        b.loopFault inc off K
    checked false x { word with extra := fault } (fun c t _ s =>
      let s := s.release c.uid
      s.withBlock t fun b =>
        let (inc, off) := c.loopOperands t s.tick x
        let raw := b.formatAt off
        let f := FormatBlock.parse raw
        let n0 := c.recorded.getD 0
        if K ≤ n0 then (s.modBlock b.uid fun b => { b with jobs := b.jobs.filter fun j => j.team != c.uid }).finishTeam c id c.next
        else
        let rnd : BitVec 3 := BitVec.ofNat 3 (modeRnd c.mode)
        let si := b.stepIn s.tick f d.toNat n0 inc rnd (modeNfz c.mode) b.scratch
        let (jid, b1) := b.enterJob c.uid c.again (.loop d.toNat raw inc K n0 rnd (modeNfz c.mode) true 0 b.scratch)
        if !b.tileFull (f.tile n0) then s0
        else
          match s.grantStep (dieOf t.core) t.gid c.uid (t.chargeWait (si.charge (s.prevBits t.core))) with
          | none => s0.awaitToken t (si.charge (s.prevBits t.core))
          | some s =>
            ((s.modBlock b.uid fun _ => b1).watchScratch c t (c.lanes t) off 32).ticked.wait c (.mloop jid)
              (withRecorded (c.capture t s.tick x (c.lanes t)) n0)) c t s

/-- A loop's step can start: its team waits in it, nothing holds the team, its tile is full and its charge can be granted
(R277, R280, R283). It answers the loop and the state after the grant. -/
def State.startable (s : State) (core : Nat) (b : Block) (j : MatrixJob) : Option (Team × FormatBlock × StepIn × State) :=
  match j.work, s.team? j.team with
  | .loop acc raw inc _ n rnd nfz paid waited seen, some t =>
    let f := FormatBlock.parse raw
    if b.core != core || s.heldJob b j t || !s.serves t || !b.tileFull (f.tile n) then none
    else
      let x := b.stepIn s.tick f acc n inc rnd nfz seen
      if paid then some (t, f, x, s)
      else
        (s.grantStep (dieOf core) b.gid j.team { waited := waited, charge := x.charge (s.prevBits core) }).map fun s => (t, f, x, s)
  | _, _ => none

/-- The steps that can start on a core. -/
def State.stepCands (s : State) (core : Nat) : List (Block × MatrixJob × Team × FormatBlock × StepIn × State) :=
  s.blocks.flatMap fun b => b.jobs.filterMap fun j => (s.startable core b j).map fun r => (b, j, r)

/-- A team's place in slot order after the team whose step the unit started last, cyclically. -/
def State.slotKey (s : State) (core : Nat) (t : Team) : Nat := (t.slot + 64 - (s.coreAt core).lastSlot % 64 + 63) % 64

/-- MATRIX_STEP: the unit of a core performs the step of the first team, in slot order after the last, that can start one
(R277). -/
def execMatrixStep (core : Nat) (s : State) : Out :=
  let cands := s.stepCands core
  let key := s.slotKey core
  let best := cands.foldl (fun (m : Option (Block × MatrixJob × Team × FormatBlock × StepIn × State)) x =>
    match m with
    | none => some x
    | some y => if key x.2.2.1 < key y.2.2.1 then some x else some y) none
  .next <| match best with
  | none => s
  | some (b, j, t, f, x, s1) =>
    match j.work with
    | .loop acc raw inc k n rnd nfz _ _ seen =>
      let bits := x.bits
      let s2 := ((s1.performStep b f acc n inc rnd nfz seen).watchStep t.waitCtx t f inc n).ticked.modCore core fun c => { c with lastSlot := t.slot, prevBits := bits }
      if n + 1 ≥ k then
        (s2.modBlock b.uid fun b => { b with jobs := b.jobs.filter fun q => q.id != j.id }).endWait t.uid id
      else
        (s2.modBlock b.uid fun b => { b with jobs := b.jobs.map fun q =>
          if q.id = j.id then { q with work := .loop acc raw inc k (n + 1) rnd nfz false 0 seen } else q }).modTeam t.uid fun u =>
            { u with waitEntry := withRecorded u.waitEntry (n + 1) }
    | .load _ _ _ => s

/-! ### Tiles (R272, R382) -/

/-- Copies 16,384 bytes into a tile and sets it full. No element of any format is read half old and half new (R171): the tile's format is
not known yet, and 8 bytes hold whole elements of each (log 43). Uncorrectable words stay so in the tile. -/
def State.loadTile (s : State) (b : Block) (tile src : Nat) (seen : Memory) : State :=
  let bytes := (List.range 0x800).flatMap fun e => leBytes 8 (b.matrixRead s.tick seen (src + 8 * e) 8)
  let soft := if s.soft.isEmpty then [] else
    (s.soft.filter fun x => match x with
      | .tile k t _ => !(k == b.uid && t == tile)
      | _ => true) ++
    ((List.range 0x1000).filter fun w => s.soft.contains (.scratch b.uid (src / 4 + w))).map fun w => SoftErrorSite.tile b.uid tile w
  ({ s with soft := soft }.modBlock b.uid fun b =>
    { b with tiles := Memory.writeBytes b.tiles (0x4000 * tile) bytes, loaded := b.loaded ||| (1#16 <<< tile),
             tfull := b.tfull ||| (1#16 <<< tile) }).ticked

/-- MTLD may copy: its tile is empty and the unit serves the team. -/
def State.tileReady (s : State) (t : Team) (b : Block) (tile : Nat) : Bool := !b.tileFull tile && s.serves t

/-- MTLD (R382). -/
def execMtld (m : Mods) (d a : Reg) (s : State) : Out :=
  issue (.mtld m d a) s fun c t s =>
    let x := scalars (some a) none
    checked false x (Check.operand (Team.tileOk s t d.toNat)) (fun c t _ s =>
      let s := s.release c.uid
      s.withBlock t fun b =>
        let off := (c.readTeam t s.tick x 0).toNat
        match b.scratchCheck off 0x4000 256 with
        | some ti => s.onceTrap c t x ti
        | none =>
          let (jid, b1) := b.enterJob c.uid c.again (.load d.toNat off b.scratch)
          if s.tileReady t b d.toNat then
            (((s.loadTile b d.toNat off b.scratch).watchScratch c t (c.lanes t) off 0x4000).modBlock b.uid fun b => { b with jobs := b.jobs.filter fun j => j.id != jid }).finishTeam
              c id c.next
          else (s.modBlock b.uid fun _ => b1).wait c (.mtld jid) (c.capture t s.tick x (c.lanes t))) c t s

/-! ### Accumulators (R278, R376) -/

/-- Format of `fmt=`: f64, f32, f16, bf16. -/
def matrixFmt (n : Nat) : Fmt :=
  match n with
  | 0 => f64
  | 1 => f32
  | 2 => f16
  | _ => bf16

/-- Runs f when the unit serves the team; until then the instruction does not issue (R280). -/
def State.served (s s0 : State) (t : Team) (f : State) : State := if s.serves t then f else s0

/-- MACZ: every element is +0; ACCF is unchanged (R278). -/
def execMacz (m : Mods) (d : Reg) (s0 : State) : Out :=
  issue (.macz m d) s0 fun c t s =>
    checked false Srcs.none (Check.operand (Team.accOk s t d.toNat)) (fun c t _ s =>
      s.served s0 t <|
        ((s.modBlock t.blk fun b =>
          { b with accs := (List.range 1024).foldl (fun a e => Table.set a (1024 * d.toNat + e) 0) b.accs }).scrubAcc t.blk d.toNat
            fun _ => true).finishTeam c id c.next) c t s

/-- MACW (R376): an uncorrectable word gives the default NaN and sets ECC. -/
def execMacw (m : Mods) (d a : Reg) (l : LMacw) (s0 : State) : Out :=
  issue (.macw m d a l) s0 fun c t s =>
    let x := scalars (some a) none
    checked false x (Check.operand (Team.accOk s t d.toNat && l.fmt.toNat ≤ 3)) (fun c t _ s =>
      let s := s.release c.uid
      s.withBlock t fun b =>
        let off := (c.readTeam t s.tick x 0).toNat
        let src := matrixFmt l.fmt.toNat
        let n := src.bits / 8
        let dst := if l.fmt = 0 then f64 else f32
        match b.scratchCheck off (1024 * n) 256 with
        | some ti => s.onceTrap c t x ti
        | none =>
          s.served s0 t <|
            let env : FEnv := { rnd := .rne, nfz := modeNfz c.mode }
            let cells := (List.range 1024).map fun e =>
              let at_ := off + n * e
              let bad := softIn s at_ n (.scratch b.uid)
              (e, if bad then { bits := dnan dst, flags := 0 } else fcvt src dst env false (Memory.readNat b.scratch at_ n), bad)
            let flags := cells.foldl (fun fl q => fl ||| q.2.1.flags) (0 : Byte)
            let bad := cells.any fun q => q.2.2
            let mf := setAccf (b.mflags ||| flags.setWidth 32) d.toNat (l.fmt == 0)
            let s := (if bad then s.count 2 else s).watchScratch c t (c.lanes t) off (1024 * n)
            ((s.modBlock b.uid fun b =>
              { b with accs := cells.foldl (fun a q => Table.set a (1024 * d.toNat + q.1) (BitVec.ofNat 64 q.2.1.bits)) b.accs,
                       mflags := if bad then mf ||| mflagECC else mf }).scrubAcc b.uid d.toNat fun _ => true).finishTeam c id c.next) c t s

/-- The pattern that an uncorrectable element leaves in a destination of `fmt=` (R113). -/
def macrPoison (fmt : Nat) : Nat :=
  match fmt with
  | 0 => 0x7FF81BD5A0000000
  | 1 => 0x7FC0DEAD
  | 2 => 0x7E06
  | _ => 0x7FDE

/-- The 1,024 converted elements of MACR, in row-major order, with the choice vector that gave the variates (R243, R278). -/
def macrElements (s : State) (b : Block) (acc : Nat) (src : Fmt) (fmt rnd : Nat) (nfz : Bool) (cv0 : ChoiceState) :
    List (FRes × Bool) × ChoiceState :=
  let dst := matrixFmt fmt
  let draw := !(src.e ≤ dst.e && src.f ≤ dst.f)
  let (l, cv) := (List.range 1024).foldl (fun ((l, cv) : List (FRes × Bool) × ChoiceState) e =>
    let (r, cv) := nextRnd rnd draw cv
    let bad := s.soft.contains (.acc b.uid acc e)
    let v := (Table.get b.accs (1024 * acc + e)).toNat % 2 ^ src.bits
    ((if bad then { bits := macrPoison fmt, flags := 0 } else fcvt src dst { rnd := r, nfz := nfz } false v, bad) :: l, cv)) ([], cv0)
  (l.reverse, cv)

/-- The non-retired thread with the lowest home lane. -/
def Team.firstLive (t : Team) : Nat := (t.threads.findIdx? fun th => !th.retired).getD 0

/-- MACR (R376): all values are converted and checked before any is written; its write-back follows the team's older stores. -/
def execMacr (m : Mods) (a b : Reg) (l : LMacr) (s0 : State) : Out :=
  issue (.macr m a b l) s0 fun c t s =>
    let x := scalars (some a) none
    checked false x (Check.operand (l.fmt.toNat ≤ 3 && l.rc.toNat ≤ 6 && Team.accOk s t b.toNat)) (fun c t _ s =>
      s.withBlock t fun blk =>
        let off := (c.readTeam t s.tick x 0).toNat
        let dst := matrixFmt l.fmt.toNat
        let n := dst.bits / 8
        match blk.scratchCheck off (1024 * n) 256 with
        | some ti => s.onceTrap c t x ti
        | none =>
          s.served s0 t <|
            let src := if (blk.mflags >>> (16 + b.toNat)).getLsbD 0 then f64 else f32
            let h := t.firstLive
            let rnd := rcOf c.mode l.rc.toNat
            let (els, cv) := macrElements s blk b.toNat src l.fmt.toNat rnd (modeNfz c.mode) (t.thread h).cv
            let bounded := els.zipIdx.map fun (e, i) => (i, checkBounds (s.boundsOf t) .scratch (off + n * i) n e.1.bits)
            match bounded.find? fun r => r.2.trap.isSome with
            | some (i, r) =>
              s.onceTrap c t x { trapOf 0x0D with vaddr := BitVec.ofNat 64 (off + n * i), info := BitVec.ofNat 64 (r.trap.getD 0) }
            | none =>
              let flags := els.foldl (fun fl e => fl ||| e.1.flags) (0 : Byte)
              let bnd := bounded.any fun r => r.2.bnd
              let bad := els.any Prod.snd
              let mf := blk.mflags ||| flags.setWidth 32 ||| (if bnd then 0x20#32 else 0) ||| (if bad then mflagECC else 0)
              let s := if bad then s.count 2 else s
              let s := ((s.release c.uid).modTeam c.uid fun t => t.modThread h fun th => { th with cv := cv })
              let s := s.writeHome (.scratch blk.uid off) (bounded.flatMap fun r => leBytes n r.2.val) true
              let s := s.checkWatch (c.hitBy t ((lowestLane (c.lanes t)).getD 0)) (.scratch blk.uid off) off (1024 * n) .store
              (s.modBlock blk.uid fun b => { b with mflags := mf }).finishTeam c id c.next) c t s

/-! ### The reservation and MWAIT (R279, R280, R381, R385) -/

/-- Holding of the core's unit. -/
def coreAddr (core : Nat) : Double := BitVec.ofNat 64 core

/-- MRSV (R381); a shadow takes no holding (R179), so it has the unit without a slot, as `shadowUnit` says. -/
def execMrsv (m : Mods) (d : Reg) (s : State) : Out :=
  issue (.mrsv m d) s fun c t s =>
    checked false Srcs.none (Check.operand (t.hasP d.toNat)) (fun c t _ s =>
      let give (v : Bool) (s : State) : State := s.finishTeam c (fun u => (u.passed (extraPasses (c.lanes t))).putP (c.lanes u) d.toNat v) c.next
      let take (s : State) : State := s.modCore t.core fun k => { k with reservation := some t.uid }
      match (s.coreAt t.core).reservation with
      | some u => give (u == t.uid) s
      | none =>
        if s.isShadow t then give true ((take s).modTeam t.uid fun u => { u with shadowUnit := true })
        else if (Estate.freeSlot t.estate).isNone then give false s
        else give true (take (s.enterHolding t kindMatrix (coreAddr t.core) 0))) c t s

/-- MREL (R381). -/
def execMrel (m : Mods) (s : State) : Out :=
  issue (.mrel m) s fun c t s =>
    if (s.coreAt t.core).reservation == some t.uid then
      ((s.freeHolding t kindMatrix (coreAddr t.core)).modCore t.core fun k => { k with reservation := none }).finishTeam c
        (fun u => { u with shadowUnit := false }) c.next
    else s.onceTrap c t Srcs.none (trapOf 0x0C)

/-- Every matrix instruction of the block with a number below `upto` has finished. -/
def Block.matrixDone (b : Block) (upto : Nat) : Bool := b.jobs.all fun j => upto ≤ j.id

/-- MWAIT (R385). -/
def execMwait (m : Mods) (s : State) : Out :=
  issue (.mwait m) s fun c t s =>
    s.withBlock t fun b =>
      if b.matrixDone b.nextJob then s.finishTeam c id c.next
      else s.wait c (.mwait b.nextJob) (c.capture t s.tick Srcs.none (c.lanes t))

end Sys2Proof.Machine
end

