-- ==== Sys2Proof/Machine/Mesh.lean ====
section
/-! DEFINITION. Reduction packets (spec/19 R299 to R302): routers and their rounds, ports, RPKT and RPRCV, and the arrival and
timeout of packets. -/

namespace Sys2Proof.Machine

open Sys2Proof

/-! ### Rounds (R301) -/

/-- One element added to another; padding is an exact identity. -/
def addElement (rnd : Rnd) (x y : Option Word) : Option Word :=
  match x, y with
  | some a, some b => some (BitVec.ofNat 32 (fadd f32 { rnd := rnd, nfz := false } a.toNat b.toNat).bits)
  | some a, none => some a
  | none, y => y

def Packet.elem (p : Packet) (e : Nat) : Option Word := (p.data[e]?).getD none

/-- combine over the slots in their order, empty slots as padding. -/
def combine (rnd : Rnd) (slots : List (Option Packet)) (e : Nat) : Option Word :=
  match slots.map fun s => s.bind fun p => p.elem e with
  | [] => none
  | x :: rest => rest.foldl (addElement rnd) x

def Router.slots (r : Router) : Nat := 1 + r.children.length

def emptySlots (n : Nat) : List (Option Packet) := List.replicate n none

def Router.full (r : Router) : Bool := r.now.all Option.isSome

/-- The result of the current round. -/
def Router.result (r : Router) : Packet :=
  { round := r.round, data := (List.range 32).map (combine (Rnd.ofMode r.rnd.toNat) r.now),
    incomplete := !r.full || r.now.any fun s => s.any Packet.incomplete }

/-- The router after its current round. -/
def Router.advance (r : Router) : Router :=
  { r with round := r.round + 1, now := r.next, next := emptySlots r.slots, timedOut := false }

def sameRouter (r : Router) (tree die core : Nat) : Bool := r.tree == tree && r.die == die && r.core == core

/-- The parent of a router, and the slot of its child. -/
def Grid.parentOf (g : Grid) (r : Router) : Option (Router × Nat) :=
  g.routers.findSome? fun p =>
    if p.tree = r.tree ∧ p.die = r.die then (p.children.findIdx? fun c => c == r.core).map fun i => (p, i + 1) else none

def Grid.routerAt (g : Grid) (tree die core : Nat) : Option Router := g.routers.find? fun r => sameRouter r tree die core

def Grid.putRouter (g : Grid) (r : Router) : Grid :=
  { g with routers := g.routers.map fun x => if sameRouter x r.tree r.die r.core then r else x }

/-- What a round's end is reported by (R301, R312): a timeout of a router, or a round that completes at a root. -/
inductive RoundNote where
  | timeout (tree die core round : Nat)
  | root (tree die core round : Nat) (status : Word)
  deriving DecidableEq, Repr

/-- Status word of a result (R302). -/
def Packet.status (p : Packet) : Word :=
  (if p.incomplete then 1 else 0) ||| (if p.data.all Option.isNone then 2 else 0)

/-- The router's round may complete: it is full or its TOUT has run out, and no earlier result is held at a root or waits to be sent
(R301). -/
def Grid.completes (g : Grid) (r : Router) : Bool :=
  (r.full || r.timedOut) && r.out.isNone && ((g.parentOf r).isSome || r.held.isNone)

/-- Completes the router's round: the result is formed, to be sent to the parent or held at the root. -/
def Grid.completeRound (g : Grid) (r : Router) : Grid × List RoundNote :=
  let late := if r.full then [] else [RoundNote.timeout r.tree r.die r.core r.round]
  match g.parentOf r with
  | some _ => (g.putRouter { r.advance with out := some r.result }, late)
  | none => (g.putRouter { r.advance with held := some r.result }, late ++ [.root r.tree r.die r.core r.round r.result.status])

/-- Rounds for which a slot has places: the current one and the next. A round that has completed counts as the current one until its result
is sent (R301). -/
def Router.places (r : Router) : Nat := if r.out.isSome then 1 else 2

/-- Sends a router's result, once the parent's slot has a place for it. -/
def Grid.sendResult (g : Grid) (r : Router) : Grid :=
  match r.out, g.parentOf r with
  | some q, some (p, slot) =>
    if q.round < p.round + p.places then
      let g := g.putRouter { r with out := none }
      { g with packets := g.packets ++ [{ tree := r.tree, die := r.die, core := p.core, slot := slot, src := r.core, packet := q }] }
    else g
  | _, _ => g

/-- Sends a router's results, and completes its rounds that can complete: no more than the two for which it buffers packets. -/
def Grid.completeRounds (tree die core : Nat) : Nat → Grid → List RoundNote → Grid × List RoundNote
  | 0, g, l => (g, l)
  | k + 1, g, l =>
    match g.routerAt tree die core with
    | none => (g, l)
    | some r =>
      let g := g.sendResult r
      let r := (g.routerAt tree die core).getD r
      if g.completes r then
        let (g, n) := g.completeRound r
        Grid.completeRounds tree die core k g (l ++ n)
      else (g, l)

/-- Completes rounds all over a tree: a parent that goes on makes room for its children, level by level. -/
def Grid.settleTree (tree die : Nat) : Nat → Grid → List RoundNote → Grid × List RoundNote
  | 0, g, l => (g, l)
  | k + 1, g, l =>
    let cores := (g.routers.filter fun r => r.tree == tree && r.die == die).map Router.core
    let (g, l) := cores.foldl (fun (g, l) core => Grid.completeRounds tree die core 3 g l) (g, l)
    Grid.settleTree tree die k g l

/-- A timeout is counted, and for a debugged grid both are reported (R301, R312). -/
def State.noteRound (s : State) (debugged : Bool) (n : RoundNote) : State :=
  match n with
  | .timeout tree die core round =>
    let s := s.count 7
    if debugged then s.say "router timeout" [tree, die, core, round] else s
  | .root tree die core round st => if debugged then s.say "round" [tree, die, core, round, st.toNat] else s

/-- The rounds of a tree that can complete do. -/
def State.settleRounds (s : State) (gid tree die : Nat) : State :=
  match s.grid? gid with
  | none => s
  | some g =>
    let (g', l) := g.settleTree tree die (g.routers.filter fun r => r.tree == tree && r.die == die).length []
    l.foldl (fun s n => s.noteRound g.debugged n) (s.modGrid gid fun _ => g')

/-- Sets slot i of a list of slots. -/
def fillSlot (l : List (Option Packet)) (i : Nat) (p : Packet) : List (Option Packet) := l.set i (some p)

def slotTaken (l : List (Option Packet)) (i : Nat) : Bool := ((l[i]?).getD none).isSome

/-- What an arriving packet finds at its slot. -/
inductive Landing where
  | placed (r : Router)
  | late
  | waits

/-- A child's packet goes to its own round, a local one to the first round with room, which a round that has completed is not (R301,
R302). -/
def Router.land (r : Router) (slot : Nat) (p : Packet) : Landing :=
  if slot = 0 then
    if !slotTaken r.now 0 then .placed { r with now := fillSlot r.now 0 p }
    else if r.out.isNone && !slotTaken r.next 0 then .placed { r with next := fillSlot r.next 0 p }
    else .waits
  else if p.round < r.round then .late
  else if p.round = r.round && !slotTaken r.now slot then .placed { r with now := fillSlot r.now slot p }
  else if p.round = r.round + 1 && r.out.isNone && !slotTaken r.next slot then .placed { r with next := fillSlot r.next slot p }
  else .waits

/-- Packet idx is the oldest from its source to its slot: packets of one source keep their order. -/
def Grid.isOldest (g : Grid) (idx : Nat) (q : PacketInFlight) : Bool :=
  !((g.packets.take idx).any fun x => x.tree == q.tree && x.die == q.die && x.core == q.core && x.slot == q.slot && x.src == q.src)

/-- REDUCTION_PACKET_ARRIVAL (R301). -/
def execReductionPacketArrival (gid idx : Nat) (s : State) : Out :=
  .next <| match (s.grid? gid).bind fun g => (g.packets[idx]?).map fun q => (g, q) with
  | none => s
  | some (g, q) =>
    if !g.isOldest idx q then s
    else
      let gone (g : Grid) : Grid := { g with packets := g.packets.eraseIdx idx }
      match g.routerAt q.tree q.die q.core with
      | none => s.modGrid gid gone
      | some r =>
        match r.land q.slot q.packet with
        | .late => (s.modGrid gid gone).count 8
        | .waits => s
        | .placed r => (s.modGrid gid fun g => (gone g).putRouter r).settleRounds gid q.tree q.die

/-- ROUTER_TIMEOUT (R301): TOUT cycles have passed in a round that has a packet, and is the router's current one. -/
def execRouterTimeout (gid tree core : Nat) (s : State) : Out :=
  .next <| match (s.grid? gid).bind fun g => g.routers.find? fun r => r.tree == tree && r.core == core with
  | none => s
  | some r =>
    if r.out.isNone && r.now.any Option.isSome then (s.modGrid gid fun g => g.putRouter { r with timedOut := true }).settleRounds gid tree r.die else s

/-! ### RPKT (R302) -/

/-- The router whose local slot an id names on a core: as (tree, core). -/
def Grid.localSlot (g : Grid) (id core : Nat) : Option (Nat × Nat) :=
  let die := dieOf core
  let c := core % 144
  if (g.routerAt id die c).isSome then some (id, c)
  else (g.ports.find? fun p => p.aliasId == id && p.die == die && p.core == c).map fun p => (p.tree, p.target)

/-- A local slot can take one more packet: its two places, less the packets on their way. -/
def Grid.localRoom (g : Grid) (tree die core : Nat) : Bool :=
  match g.routerAt tree die core with
  | none => false
  | some r =>
    let taken := (if slotTaken r.now 0 then 1 else 0) + (if slotTaken r.next 0 then 1 else 0)
    taken + (g.packets.filter fun q => q.tree == tree && q.die == die && q.core == core && q.slot == 0).length < r.places

/-- Sends a packet into a local slot, if it has room. -/
def State.sendPacket (s : State) (t : Team) (id : Nat) (data : List (Option Word)) : Option State :=
  (s.gridOf t).bind fun g => (g.localSlot id t.core).bind fun (tree, core) =>
    if g.localRoom tree (dieOf t.core) core then
      some (s.modGrid g.gid fun g => { g with packets := g.packets ++
        [{ tree := tree, die := dieOf t.core, core := core, slot := 0, src := t.core % 144,
           packet := { round := 0, data := data, incomplete := false } }] })
    else none

/-- RPKT (R302). -/
def execRpkt (m : Mods) (a : Reg) (l : LTree) (s0 : State) : Out :=
  issue (.rpkt m a l) s0 fun c t s =>
    let x : Srcs := { a := .v a.toNat false, b := .none, d := .none }
    let id := l.id.toNat
    let known := ((s.gridOf t).bind fun g => g.localSlot id t.core).isSome
    let low := filterMask (fullMask t.ngrp) fun p => t.home p < 32
    checked true x { Check.operand known with only := some low } (fun c t live s =>
      let done (s : State) : State := (s.modTeam c.uid fun u => (u.passed (maskRows (c.lanes t)).length).freeLanes live (freesOf m x)).finish c c.next
      if s.isShadow t then s.inShadow s0 t live fun _ s => done s
      else
        match s.consumeRegs c t (live &&& low) x .none (maskMinus live low) with
        | (s, none) => s
        | (s, some (t, sent)) =>
          let live := sent ||| maskMinus live low
          let data := (List.range 32).map fun j =>
            let p := (t.thread j).pos
            if j < t.threads.length && maskHas live p then some ((c.read t s.tick x 0 p).setWidth 32 : Word) else none
          match s.sendPacket t id data with
          | some s => done (s.logLive c live [])
          | none => (s.modTeam c.uid fun u => u.passed (extraPasses (c.lanes t))).wait c (.rpkt id data (freesOf m x)) (c.capture t s.tick x live)) c t s

/-! ### RPRCV (R302) -/

/-- The root of an id on a core. -/
def Grid.rootAt (g : Grid) (id core : Nat) : Option Router :=
  (g.routerAt id (dieOf core) (core % 144)).bind fun r => if (g.parentOf r).isNone then some r else none

/-- Element of a result as a lane receives it. -/
def Packet.value (p : Packet) (j : Nat) : Word := (p.elem j).getD 0

/-- Writes a result: vd in each lane of the mask with home lane below 32, s[a] := status. -/
def Team.receive (t : Team) (lanes : Mask) (d sa : Reg) (val : Nat → Word) (status : Word) : Team :=
  let got := filterMask lanes fun p => t.home p < 32
  let t1 := (maskLanes got).foldl (fun (u : Team) p =>
    ((u.modLanes (maskOne p) fun th => th.writeV d.toNat (val p)).markV d.toNat (p / 32))) t
  let t2 := match t1.recent with
    | [] => t1
    | rs => { t1 with recent := (maskLanes got).foldl (fun rs p => dropRefs rs (refV (t1.home p) d.toNat)) rs }
  t2.putS sa.toNat status

/-- Takes the held result of a root; its next round may then complete. -/
def State.takeResult (s : State) (t : Team) (id : Nat) : Option (Packet × State) :=
  (s.gridOf t).bind fun g => (g.rootAt id t.core).bind fun r => r.held.map fun p =>
    (p, (s.modGrid g.gid fun g => g.putRouter { r with held := none }).settleRounds g.gid r.tree r.die)

/-- RPRCV (R302). -/
def execRprcv (m : Mods) (d a : Reg) (l : LTree) (s0 : State) : Out :=
  issue (.rprcv m d a l) s0 fun c t s =>
    let id := l.id.toNat
    let root := ((s.gridOf t).bind fun g => g.rootAt id t.core).isSome
    onceGuarded Srcs.none (Check.operand (t.hasV d.toNat && t.hasS a.toNat && root)) (fun c t live s =>
      if s.isShadow t then
        s.inShadow s0 t live fun rs s =>
          let word (ws : List Word) (k : Nat) : Word := (ws[k]?).getD 0
          s.finishTeam c (fun u => (u.passed (extraPasses (c.lanes t))).receive live d a (fun p => word ((rs.lookup p).getD []) 0) (word (firstResult rs) 1)) c.next
      else
        match s.takeResult t id with
        | some (p, s) =>
          (s.logOut c.uid ((maskLanes live).map fun q => (q, [p.value (t.home q), p.status]))).finishTeam c
            (fun u => (u.passed (extraPasses (c.lanes t))).receive live d a (fun q => p.value (u.home q)) p.status) c.next
        | none => s.wait c (.rprcv d a id live) (c.capture t s.tick Srcs.none live)) c t s

end Sys2Proof.Machine
end

