-- ==== Sys2Proof/Machine/Radiance.lean ====
section
/-! DEFINITION. The radiance cache and its training engine (spec/18 R287 to R297): weight sets, the network, RCQ, RCT, RCCTL, and
the Tapster's optimiser step. -/

namespace Sys2Proof.Machine

open Sys2Proof

/-! ### Weight sets (R289 to R291) -/

/-- A layer: offsets of its weights and biases, its inputs and its units. -/
structure Layer where
  w : Nat
  b : Nat
  ins : Nat
  outs : Nat
  /-- number of its first weight and first bias among the parameters -/
  wix : Nat
  bix : Nat
  deriving DecidableEq, Repr

def layer1 : Layer := { w := 0x0000, b := 0x3980, ins := 48, outs := 64, wix := 0, bix := 7360 }
def layer2 : Layer := { w := 0x1800, b := 0x3A80, ins := 64, outs := 64, wix := 3072, bix := 7424 }
def layer3 : Layer := { w := 0x3800, b := 0x3B80, ins := 64, outs := 3, wix := 7168, bix := 7488 }
def layers : List Layer := [layer1, layer2, layer3]

/-- Parameters of the network: 7,360 weights and 131 biases. -/
def paramCount : Nat := 7491

/-- The weights and biases as F32 bits: W[o][i] at its number, widened. -/
structure Network where
  weight : Layer → Nat → Nat → Nat
  bias : Layer → Nat → Nat

/-- The network that a weight-set image holds. -/
def networkOf (img : Memory) : Network :=
  { weight := fun l o i => Memory.readNat img (l.w + 2 * (l.ins * o + i)) 2 * 2 ^ 16,
    bias := fun l o => Memory.readNat img (l.b + 4 * o) 4 }

/-- Parameter p of a weight-set image, widened exactly to F32. -/
def imageParam (img : Memory) (p : Nat) : Word :=
  match layers.find? fun l => (l.wix ≤ p && p < l.wix + l.ins * l.outs) || (l.bix ≤ p && p < l.bix + l.outs) with
  | some l =>
    if l.wix ≤ p && p < l.wix + l.ins * l.outs then BitVec.ofNat 32 (Memory.readNat img (l.w + 2 * (p - l.wix)) 2 * 2 ^ 16)
    else BitVec.ofNat 32 (Memory.readNat img (l.b + 4 * (p - l.bix)) 4)
  | none => 0

/-- The image that parameters give, weights rounded to BF16 by RNE (R295). -/
def imageOf (param : Nat → Word) : Memory :=
  layers.foldl (fun m l =>
    let m := (List.range (l.ins * l.outs)).foldl (fun m i =>
      Memory.writeNat m (l.w + 2 * i) 2 (fcvt f32 bf16 { rnd := .rne, nfz := false } false (param (l.wix + i)).toNat).bits) m
    (List.range l.outs).foldl (fun m i => Memory.writeNat m (l.b + 4 * i) 4 (param (l.bix + i)).toNat) m) []

/-- Core and offset of a byte of the die's cache region. -/
def State.regionAt (s : State) (die off : Nat) : Option (Nat × Nat) :=
  (s.dieAt die).rcBase.map fun b =>
    (die * 144 + bitsOf b.toNat 25 18, bitsOf b.toNat 26 26 * 0x40000 + bitsOf b.toNat 17 0 + off)

/-- SET of a die; 0 while no region is placed. -/
def State.setNumber (s : State) (die : Nat) : Nat :=
  match s.regionAt die 0x8000 with
  | some (c, o) => Memory.readNat (s.coreAt c).commons o 4
  | none => 0

/-- n bytes of the die's cache region. -/
def State.regionBytes (s : State) (die off n : Nat) : List Byte :=
  match s.regionAt die off with
  | some (c, o) => Memory.readBytes (s.coreAt c).commons o n
  | none => List.replicate n 0

/-- Publishes set n + 1: the slot whole, then SET (R291). -/
def State.publishSet (s : State) (die : Nat) (img : List Byte) : State :=
  let n := s.setNumber die + 1
  let put (s : State) (off : Nat) (bs : List Byte) : State :=
    match s.regionAt die off with
    | some (c, o) => s.writeHome (.commons c o) bs true
    | none => s
  put (put s (n % 2 * 0x4000) img) 0x8000 (leBytes 4 n)

/-- Reloads the core's weight buffer when SET is not its own number (R291). -/
def State.refreshWeights (s : State) (core : Nat) : State :=
  let n := s.setNumber (dieOf core)
  if (s.coreAt core).weightSet = n then s
  else
    let img := Memory.writeBytes [] 0 (s.regionBytes (dieOf core) (n % 2 * 0x4000) 0x4000)
    s.modCore core fun c => { c with weightSet := n, weights := img }

/-! ### The network (R287, R288) -/

def rneEnv : FEnv := { rnd := .rne, nfz := false }

def relu (y : Nat) : Nat :=
  match unpack f32 false y with
  | .nan _ _ _ => y
  | .inf false => y
  | .fin false m _ => if m = 0 then 0 else y
  | _ => 0

/-- The unit's value before relu. -/
def Network.sum (n : Network) (l : Layer) (x : List Nat) (o : Nat) : Nat :=
  x.zipIdx.foldl (fun acc (v, i) => (ffma f32 rneEnv (n.weight l o i) v acc).bits) (n.bias l o)

def Network.layer (n : Network) (l : Layer) (x : List Nat) : List Nat := (List.range l.outs).map fun o => relu (n.sum l x o)

def Network.eval (n : Network) (x : List Nat) : List Nat := n.layer layer3 (n.layer layer2 (n.layer layer1 x))

/-- The 48 features of a record of 12 words. -/
def features (words : List Word) : List Nat :=
  let word (i : Nat) : Nat := ((words[i]?).getD 0).toNat
  let angle (a o : Nat) : Nat := (fmul f32 rneEnv (fmul f32 rneEnv (word a) 0x40490FDB).bits (0x3F800000 + o * 2 ^ 23)).bits
  ((List.range 3).flatMap fun a => (List.range 6).flatMap fun o =>
    [(approx .sin f32 false (angle a o)).bits, (approx .cos f32 false (angle a o)).bits]) ++
  ((List.range 8).map fun i => word (3 + i)) ++ List.replicate 4 0

/-! ### Sample slots and tickets (R292, R293) -/

def emptySample : SampleSlot := { state := .free, use := 0, record := [], target := [], gid := 0, range := 0 }

def Tapster.slot (t : Tapster) (k : Nat) : SampleSlot := (t.slots.lookup k).getD emptySample

def Tapster.putSlot (t : Tapster) (k : Nat) (x : SampleSlot) : Tapster :=
  { t with slots := if t.slots.any (fun y => y.1 == k) then t.slots.map fun y => if y.1 = k then (k, x) else y else t.slots ++ [(k, x)] }

/-- The next FREE slot in ring order. -/
def Tapster.nextFree (t : Tapster) : Option Nat :=
  ((List.range 65536).map fun i => (t.nextSlot + i) % 65536).find? fun k => (t.slot k).state == .free

def ticketOf (die use slot : Nat) : Word := BitVec.ofNat 32 (die * 2 ^ 30 + use % 2 ^ 14 * 2 ^ 16 + slot)

/-- Takes a slot for a record: its ticket, and the first ticket of the range, which is its own when it is the first. -/
def State.takeSample (s : State) (die gid : Nat) (words : List Word) (first : Word) : Word × State :=
  let t := (s.dieAt die).tapster
  match t.nextFree with
  | none => (0, s.count 5)
  | some k =>
    let use := if (t.slot k).use ≥ 16383 then 1 else (t.slot k).use + 1
    let tk := ticketOf die use k
    let x : SampleSlot := { state := .pending, use := use, record := words, target := [], gid := gid, range := if first = 0 then tk else first }
    (tk, s.modDie die fun d => { d with tapster := { t.putSlot k x with nextSlot := (k + 1) % 65536 } })

/-! ### RCQ (R292) -/

/-- Offset of the record of the thread at position p. -/
def recordOff (t : Team) (base p : Nat) : Nat := base + 48 * t.home p

/-- The record of a lane, read as LDS reads. -/
def State.recordAt (s : State) (t : Team) (off : Nat) : List Word :=
  let bs := (s.loadBytes t (.scratch t.blk off) 48 off false false []).1
  (List.range 12).map fun i => BitVec.ofNat 32 (leNat ((bs.drop (4 * i)).take 4))

/-- Words of a weight set, as an outward result keeps them for the shadow (R179). -/
def weightWords (img : Memory) : List Word := (List.range 0x1000).map fun i => BitVec.ofNat 32 (Memory.readNat img (4 * i) 4)

def wordsImage (ws : List Word) : Memory := Memory.writeBytes [] 0 (ws.flatMap fun w => leBytes 4 w.toNat)

/-- Writes o, and the ticket, of one lane. -/
def Team.putRadiance (t : Team) (p : Nat) (d : Nat) (vals : List Word) : Team :=
  (vals.zipIdx.foldl (fun (u : Team) (v, i) => (u.modLanes (maskOne p) fun th => th.writeV (d + i) v).markV (d + i) (p / 32)) t).closeWindows
    ((List.range vals.length).map fun i => refV (t.home p) (d + i))

/-- Evaluates the lanes and enters the samples in ascending row and position. `own` gives the set and the ticket of a lane in a
shadow. -/
def State.radiance (s : State) (c : Ctx) (t : Team) (lanes : List Nat) (d base : Nat) (train : Bool) (img : Memory)
    (own : Option (List (Nat × List Word))) : State × Nat × Word × List (Nat × List Word) :=
  let die := dieOf t.core
  let room := (Estate.freeSlot t.estate).isSome
  lanes.foldl (fun ((s, n, first, log) : State × Nat × Word × List (Nat × List Word)) p =>
    let words := s.recordAt t (recordOff t base p)
    let s := s.checkWatch (c.hitBy t p) (.scratch t.blk (recordOff t base p)) (recordOff t base p) 48 .load
    let given : List Word := (own.bind fun l => l.lookup p).getD []
    let w := if own.isSome then wordsImage (given.drop 1) else img
    let out := ((networkOf w).eval (features words)).map fun (v : Nat) => (BitVec.ofNat 32 v : Word)
    let (tk, s) := if !train then ((0 : Word), s)
      else if own.isSome then ((given.head?.getD 0), s)
      else if room then s.takeSample die t.gid words first else (0, s)
    let s := s.modTeam c.uid fun u => u.putRadiance p d (if train then out ++ [tk] else out)
    (s, if tk = 0 then n else n + 1, if first = 0 then tk else first, log ++ [(p, tk :: weightWords w)])) (s, 0, 0, [])

/-- RCQ takes its turn on the matrix unit: no step that can start comes first in slot order (R277). -/
def State.rcqTurn (s : State) (t : Team) : Bool :=
  (s.stepCands t.core).all fun x => s.slotKey t.core t < s.slotKey t.core x.2.2.1 || x.2.2.1.uid == t.uid

/-- Each pass is charged 1,600 units (R197); all are drawn as RCQ issues (log 43). -/
def State.grantPasses (s : State) (t : Team) : Nat → Option State
  | 0 => some s
  | n + 1 => (s.grantStep (dieOf t.core) t.gid t.uid (t.chargeWait 1600)).bind fun s => State.grantPasses s t n

/-- RCQ (R292): it uses the matrix unit, at 1,600 units a pass; while it cannot have it, the step leaves s0. -/
def execRcq (m : Mods) (d a : Reg) (l : LRcq) (s0 : State) : Out :=
  issue (.rcq m d a l) s0 fun c t s =>
    let x := scalars (some a) none
    let regs := if l.train then 4 else 3
    checked true x (Check.operand ((List.range regs).all fun i => t.hasV (d.toNat + i))) (fun c t live s =>
      let base := (c.readTeam t s.tick x 0).toNat
      let keep := c.capture t s.tick x live
      let rows := maskRows (c.lanes t ||| live)
      let out := filterMask live fun p => !(s.blockOf t).any fun b => recordOff t base p + 48 ≤ b.scrsz
      if live != 0 && base % 16 != 0 then s.takeTrap c (alignmentAt base) live (some keep) c.next
      else if out != 0 then s.takeTrap c (scratchDenied (recordOff t base ((lowestLane out).getD 0))) out (some keep) c.next
      else
        let bad := filterMask live fun p => softIn s (recordOff t base p) 48 (.scratch t.blk)
        if bad != 0 && s.isStrict t then
          s.takeTrap c { trapOf 0x0B with vaddr := BitVec.ofNat 64 (recordOff t base ((lowestLane bad).getD 0)), info := 0x10000#64 } bad
            (some keep) c.next
        else
          let done (s : State) : State := (s.modTeam c.uid fun u => u.passed rows.length).finish c c.next
          let kill (s : State) : State :=
            if bad = 0 then s
            else ((s.countConsumed (maskLanes bad).length).modTeam c.uid fun u => (maskLanes bad).foldl (fun u p =>
              u.putRadiance p d.toNat (List.replicate regs ((poison (modeType c.mode) false).setWidth 32))) u).retire c.uid bad .dead
          let lanes := maskLanes (maskMinus live bad)
          if s.isShadow t then
            s.inShadow s0 t (maskMinus live bad) fun rs s =>
              done (kill (s.radiance c t lanes d.toNat base l.train [] (some rs)).1)
          else if !s.serves t || !s.rcqTurn t then s0
          else
            match s.grantPasses t rows.length with
            | none => s0.awaitToken t 1600
            | some s =>
              let s := (s.modCore t.core fun k => { k with lastSlot := t.slot }).refreshWeights t.core
              let (s, n, first, log) := (kill s).radiance c t lanes d.toNat base l.train (s.coreAt t.core).weights none
              let s := if n = 0 then s else s.enterHolding t kindTickets (first.setWidth 64) n
              done (s.logOut c.uid log)) c t s

/-! ### RCT (R294) -/

/-- Decreases COUNT of the holding of a range in a table; the slot is freed at 0. -/
def Estate.deposit (e : Estate) (range : Word) (hkind : BitVec 2) : Option Estate :=
  (Estate.find e kindTickets (range.setWidth 64)).map fun k =>
    let x := Estate.slot e k
    if x.count.toNat ≤ 1 then Estate.release e k hkind else vput e k { x with count := x.count - 1 }

/-- The range's holding, in whichever team of the grid has it or in a handler team that is due (R269). -/
def State.depositOne (s : State) (gid : Nat) (range : Word) : State :=
  let hk : BitVec 2 := if (s.grid? gid).any Grid.heirDef then 2 else 1
  match s.teams.find? fun t => t.gid == gid && (Estate.find t.estate kindTickets (range.setWidth 64)).isSome with
  | some t => s.modTeam t.uid fun u => { u with estate := (Estate.deposit u.estate range hk).getD u.estate }
  | none => s.modGrid gid fun g =>
      { g with handlersDue := g.handlersDue.map fun h => { h with estate := (Estate.deposit h.estate range hk).getD h.estate } }

/-- One lane's deposit. -/
def State.deposit (s : State) (die : Nat) (ticket : Word) (target : List Word) : State :=
  let t := (s.dieAt die).tapster
  let k := ticket.toNat % 2 ^ 16
  let x := t.slot k
  if ticket != 0 && ticket.toNat / 2 ^ 30 = die && x.state = .pending && x.use = bitsOf ticket.toNat 29 16 then
    (s.modDie die fun d => { d with tapster := t.putSlot k { x with state := .filled, target := target } }).depositOne x.gid x.range
  else s.count 6

/-- RCT (R294). -/
def execRct (m : Mods) (a b : Reg) (s0 : State) : Out :=
  issue (.rct m a b) s0 fun c t s =>
    let x : Srcs := { a := .v a.toNat false, b := .vs b.toNat 3, d := .none }
    checked true x Check.none (fun c t live s =>
      let rows := maskRows (c.lanes t ||| live)
      if s.isShadow t then
        s.inShadow s0 t live fun _ s => (s.modTeam c.uid fun u => (u.passed rows.length).freeLanes live (freesOf m x)).finish c c.next
      else
        let tick := s.tick
        let pass (pa : PassArgs) (s : State) : PassEnd :=
          let s := (maskLanes pa.live).foldl (fun s p =>
            s.deposit (dieOf t.core) ((c.read pa.t tick x 0 p).setWidth 32) (c.readWords pa.t tick x 1 b.toNat 3 p)) s
          .go ((s.logLive c pa.live []).modTeam c.uid fun u => u.freeLanes pa.live (freesOf m x)) pa.mine
        match runPasses c live x .none (fun _ _ => 0) pass rows none (s.release c.uid) with
        | .stop s => s
        | .go s _ => s.finish c c.next) c t s

/-! ### RCCTL (R296) -/

/-- A positive finite F32. -/
def positiveF32 (w : Word) : Bool :=
  match unpack f32 false w.toNat with
  | .fin false m _ => m != 0
  | _ => false

/-- 0 ≤ β < 1. -/
def fractionF32 (w : Word) : Bool :=
  let x := unpack f32 false w.toNat
  match x with
  | .fin s m _ => (m == 0 || !s) && x.lt (unpack f32 false 0x3F800000)
  | _ => false

/-- RCCTL with one parameter: `ok` of s[a] and its effect on the Tapster. -/
def execRcctl (i : Instr) (a : Reg) (ok : Word → Bool) (f : Word → Tapster → Tapster) (s0 : State) : Out :=
  issue i s0 fun c t s =>
    let x := scalars (some a) none
    onceGuarded x Check.none (fun c t live s =>
      let v : Word := (c.readTeam t s.tick x 0).setWidth 32
      if !ok v then s.trapAtIssue c t x live illegalOperand (c.lanes t)
      else
        noShadowOnce s0 c t live s fun s =>
          ((s.modDie (dieOf t.core) fun d => { d with tapster := f v d.tapster }).logLive c live []).finishTeam c id c.next) c t s
where
  /-- No effect in a shadow (R179). -/
  noShadowOnce (s0 : State) (c : Ctx) (t : Team) (live : Mask) (s : State) (f : State → State) : State :=
    if s.isShadow t then s.inShadow s0 t live fun _ s => s.finishTeam c id c.next else f s

/-- RCCTL STEPS (R296). -/
def execRcctlSteps (m : Mods) (a : Reg) (s : State) : Out :=
  execRcctl (.rcctlSteps m a) a (fun v => v.toNat ≤ 65535) (fun v t => { t with steps := v }) s

/-- RCCTL LR (R296). -/
def execRcctlLr (m : Mods) (a : Reg) (s : State) : Out := execRcctl (.rcctlLr m a) a positiveF32 (fun v t => { t with lr := v }) s

/-- RCCTL BETA1 (R296). -/
def execRcctlBeta1 (m : Mods) (a : Reg) (s : State) : Out :=
  execRcctl (.rcctlBeta1 m a) a fractionF32 (fun v t => { t with beta1 := v }) s

/-- RCCTL BETA2 (R296). -/
def execRcctlBeta2 (m : Mods) (a : Reg) (s : State) : Out :=
  execRcctl (.rcctlBeta2 m a) a fractionF32 (fun v t => { t with beta2 := v }) s

/-- RCCTL EPS (R296). -/
def execRcctlEps (m : Mods) (a : Reg) (s : State) : Out := execRcctl (.rcctlEps m a) a positiveF32 (fun v t => { t with eps := v }) s

/-- RCCTL FRAME (R296). -/
def execRcctlFrame (m : Mods) (a : Reg) (s : State) : Out :=
  execRcctl (.rcctlFrame m a) a (fun _ => true) (fun _ t => { t with budget := t.steps.toNat }) s

/-- Every slot in a state becomes free. -/
def Tapster.freeWhere (t : Tapster) (p : SampleSlot → Bool) : Tapster :=
  { t with slots := t.slots.map fun y => if p y.2 then (y.1, { y.2 with state := .free, record := [], target := [] }) else y }

/-- RCCTL FLUSH (R296). -/
def execRcctlFlush (m : Mods) (a : Reg) (s : State) : Out :=
  execRcctl (.rcctlFlush m a) a (fun _ => true) (fun _ t => t.freeWhere fun x => x.state == .filled) s

/-- RCCTL LOADW (R296). -/
def execRcctlLoadw (m : Mods) (a : Reg) (s0 : State) : Out :=
  issue (.rcctlLoadw m a) s0 fun c t s =>
    let x := scalars (some a) none
    onceGuarded x Check.none (fun c t live s =>
      let addr := (c.readTeam t s.tick x 0).toNat
      let die := dieOf t.core
      let ok := addr % 0x4000 == 0 && (s.procOf t).any fun p => s.commonsRange die p addr 0x4000 false
      if !ok then s.trapAtIssue c t x live illegalOperand (c.lanes t)
      else
        execRcctl.noShadowOnce s0 c t live s fun s =>
          let s := s.release c.uid
          let bytes := match s.commonsAt die addr 1 with
            | some (k, off) => Memory.readBytes (s.coreAt k).commons off 0x4000
            | none => []
          let img := Memory.writeBytes [] 0 bytes
          let s := s.modDie die fun d => { d with tapster := { d.tapster with
            master := (List.range paramCount).foldl (fun t p => Table.set t p (imageParam img p)) [], m := [], v := [], t := 0,
            loaded := true, budget := d.tapster.steps.toNat } }
          ((s.publishSet die bytes).logLive c live []).finishTeam c id c.next) c t s

/-! ### The optimiser step (R295) -/

def filledSlots (t : Tapster) : List Nat :=
  ((List.range 65536).map fun i => (t.consume + i) % 65536).filter fun k => (t.slot k).state == .filled

def finiteF32 (w : Nat) : Bool :=
  match unpack f32 false w with
  | .fin _ _ _ => true
  | _ => false

/-- β^t as the Tapster forms it: after the first step β itself, and beyond it in an order that the manual does not state (log 13). -/
def betaPower (beta : Word) (t : Nat) : Word := if t = 1 then beta else Config.betaPower beta t

/-- Adam's update of one parameter with the summed gradient: master weight, m and v after it. -/
def adam (t : Tapster) (n : Nat) (w m v sum : Word) : Word × Word × Word :=
  let mul (x y : Nat) : Nat := (fmul f32 rneEnv x y).bits
  let add (x y : Nat) : Nat := (fadd f32 rneEnv x y).bits
  let sub (x y : Nat) : Nat := (fsub f32 rneEnv x y).bits
  let div (x y : Nat) : Nat := (fdiv f32 rneEnv x y).bits
  let one : Nat := 0x3F800000
  let g := div sum.toNat 0x43800000
  let b1 := t.beta1.toNat
  let b2 := t.beta2.toNat
  let m' := add (mul b1 m.toNat) (mul (sub one b1) g)
  let v' := add (mul b2 v.toNat) (mul (sub one b2) (mul g g))
  let mh := div m' (sub one (betaPower t.beta1 n).toNat)
  let vh := div v' (sub one (betaPower t.beta2 n).toNat)
  let w' := sub w.toNat (div (mul t.lr.toNat mh) (add (fsqrt f32 rneEnv vh).bits t.eps.toNat))
  (BitVec.ofNat 32 w', BitVec.ofNat 32 m', BitVec.ofNat 32 v')

/-- The sample's values: of each layer the inputs, and of each unit its value before relu. -/
structure Forward where
  x1 : List Nat
  x2 : List Nat
  x3 : List Nat
  y1 : List Nat
  y2 : List Nat
  y3 : List Nat

def Network.sums (n : Network) (l : Layer) (x : List Nat) : List Nat := (List.range l.outs).map (n.sum l x)

/-- The network evaluated as R288 states. -/
def Network.forward (n : Network) (x : List Nat) : Forward :=
  let y1 := n.sums layer1 x
  let y2 := n.sums layer2 (y1.map relu)
  { x1 := x, x2 := y1.map relu, x3 := y2.map relu, y1 := y1, y2 := y2, y3 := n.sums layer3 (y2.map relu) }

def isZeroF32 (w : Nat) : Bool := (unpack f32 false w).isZero

/-- relu passes a gradient on above +0. -/
def reluOn (y : Nat) : Bool := !isZeroF32 (relu y)

/-- How the loss, Σ (o − t)² ÷ 3, changes with a value, as far as no order of the operations can change it: not at all, with a certain
sign, or with one that depends on that order. -/
inductive Slope where
  | zero
  | signed (neg : Bool)
  | any
  deriving DecidableEq, Repr

/-- The slope of a finite number itself. -/
def slopeOf (w : Nat) : Slope := if isZeroF32 w then .zero else .signed (w.testBit 31)

/-- A slope times a factor, and the sum of two. -/
def Slope.times (a : Slope) (w : Nat) : Slope :=
  match a, slopeOf w with
  | .signed x, .signed y => .signed (x != y)
  | .any, .signed _ => .any
  | _, _ => .zero

def Slope.plus (a b : Slope) : Slope :=
  match a, b with
  | .zero, b => b
  | a, .zero => a
  | a, b => if a = b then a else .any

/-- The slopes in a layer's units, from those in the units that take their values: relu stops the loss at +0 and below. -/
def slopesBack (n : Network) (l : Layer) (next : List Slope) (y : List Nat) : List Slope :=
  y.zipIdx.map fun (v, i) =>
    if reluOn v then next.zipIdx.foldl (fun (s : Slope) (x, o) => s.plus (x.times (n.weight l o i))) .zero else .zero

/-- The slope in parameter p: of its unit, times the input that its weight takes. -/
def slopeIn (n : Network) (f : Forward) (target : List Word) (p : Nat) : Slope :=
  let d3 := f.y3.zipIdx.map fun (v, c) => if reluOn v then slopeOf (fsub f32 rneEnv v ((target[c]?).getD 0).toNat).bits else .zero
  let d2 := slopesBack n layer3 d3 f.y2
  let d1 := slopesBack n layer2 d2 f.y1
  let of (l : Layer) (d : List Slope) (x : List Nat) : Slope :=
    if l.wix ≤ p && p < l.wix + l.ins * l.outs then ((d[(p - l.wix) / l.ins]?).getD .zero).times ((x[(p - l.wix) % l.ins]?).getD 0)
    else if l.bix ≤ p && p < l.bix + l.outs then (d[p - l.bix]?).getD .zero
    else .zero
  (of layer1 d1 f.x1).plus ((of layer2 d2 f.x2).plus (of layer3 d3 f.x3))

/-- The sample's gradient in parameter p (R295): the network is evaluated as R288 states from the rounded weights, relu's gradient is 0
at +0 and below; what the manual leaves open is the order of the operations, and so the magnitude of a gradient that is not 0, and its
sign where terms of both signs meet (log 13). -/
def gradient (img : Memory) (weights : List Word) (x : SampleSlot) (p : Nat) : Word :=
  let inputs := features x.record
  let n := networkOf img
  let f := n.forward inputs
  let finite := weights.all (fun w => finiteF32 w.toNat) && (f.y1 ++ f.y2 ++ f.y3).all finiteF32
  let v := Config.gradient weights (inputs.map fun v => BitVec.ofNat 32 v) x.target p
  match finite, slopeIn n f x.target p with
  | true, .zero => 0
  | true, .signed neg => (v &&& 0x7FFFFFFF#32) ||| (if neg then 0x80000000#32 else 0)
  | _, _ => v

/-- TAPSTER_OPTIMISER_STEP (R295). -/
def execTapsterOptimiserStep (die : Nat) (s : State) : Out :=
  let t := (s.dieAt die).tapster
  let batch := (filledSlots t).take 256
  .next <|
    if die ≥ 4 || t.budget = 0 || !t.loaded || batch.length < 256 then s
    else
      let samples := batch.map fun k => t.slot k
      let good (x : SampleSlot) : Bool := (features x.record).all finiteF32 && x.target.all fun w => finiteF32 w.toNat
      let bad := (samples.filter fun x => !good x).length
      let rounded := imageOf fun p => Table.get t.master p
      let weights := (List.range paramCount).map fun p => imageParam rounded p
      let usable := samples.filter good
      let grad (p : Nat) : Word := usable.foldl (fun acc x =>
        BitVec.ofNat 32 (fadd f32 rneEnv acc.toNat (gradient rounded weights x p).toNat).bits) 0
      let new := (List.range paramCount).map fun p =>
        adam t (t.t + 1) (Table.get t.master p) (Table.get t.m p) (Table.get t.v p) (grad p)
      let table (f : Word × Word × Word → Word) : Table 32 :=
        new.zipIdx.foldl (fun tb (x, p) => Table.set tb p (f x)) []
      let freed := batch.foldl (fun (t : Tapster) k => t.putSlot k { t.slot k with state := .free, record := [], target := [] }) t
      let t' : Tapster := { freed with
        master := table fun x => x.1, m := table fun x => x.2.1, v := table fun x => x.2.2, t := t.t + 1, budget := t.budget - 1,
        consume := (batch.getLastD t.consume + 1) % 65536 }
      let img := imageOf fun p => Table.get t'.master p
      let s := (List.range bad).foldl (fun s _ => s.count 5) s
      (s.modDie die fun d => { d with tapster := t' }).publishSet die (Memory.readBytes img 0 0x4000)

end Sys2Proof.Machine
end

