-- ==== Sys2Proof/Machine/System.lean ====
section
/-! DEFINITION. Class D, system (spec/03 R66 to R68; R329, R330, R345, R403, R410, R415, R416; spec/06 R155 to R157; R282, R297, R307)
and the issue of an unassigned opcode (R79). -/

namespace Sys2Proof.Machine

open Sys2Proof

/-! ### SRD and SWR (R67, R68, R410) -/

/-- The window that a scalar result of fixed latency leaves open (R91); t0 is the team before the write. -/
def Team.openScalar (t0 t : Team) (c : Ctx) (lat : Nat) (regs : List Nat) : Team :=
  if c.rp.isSome || lat ≤ 1 + stallOf c.word then t
  else { t with recent := { dist := 0, lat := lat, pc := c.pc, olds := regs.map fun r => (refS r, t0.readS r) } :: t.recent }

/-- A per-lane special register. -/
def laneSpecial (idx : Nat) (pin : PassIn) (p : Nat) : LaneOut :=
  match idx with
  | 0 => .nat (pin.t.home p)
  | 1 => .nat (p / 32)
  | 2 => .nat (p % 32)
  | _ => .of ((pin.th p).flags.setWidth 64)

/-- A 32-bit team register. -/
def State.teamSpecial (t : Team) (idx : Nat) : Option Word :=
  match idx with
  | 0x10 => some (BitVec.ofNat 32 t.core)
  | 0x11 => some (BitVec.ofNat 32 t.quad)
  | 0x12 => some (BitVec.ofNat 32 t.ngrp)
  | 0x13 => some (t.fsum.setWidth 32)
  | 0x14 => some (BitVec.ofNat 32 t.stack.length)
  | _ => none

/-- A 64-bit team register. -/
def State.teamSpecial64 (s : State) (t : Team) (idx : Nat) : Option Double :=
  match idx with
  | 0x18 => some t.imga
  | 0x19 => some (((s.blockOf t).map Block.bimga).getD 0)
  | 0x1A => some (Config.cycle t.core s.tick)
  | _ => none

def loWord (x : Double) : Word := x.setWidth 32
def hiWord (x : Double) : Word := x.extractLsb' 32 32

/-- SRD (R410); in a shadow, registers that say where or when it runs give the original's values (R179). -/
def execSrd (m : Mods) (d : Reg) (l : LIdx) (s0 : State) : Out :=
  issue (.srd m d l) s0 fun c t s =>
    let idx := l.idx.toNat
    let r := d.toNat
    if idx ≤ 3 then
      let al : Alu := { m := m, x := .none, dst := .v r false, lat := some 2, check := { Check.none with flags := idx = 3 },
                         fmt := modeType c.mode, helps := false, f := laneSpecial idx }
      checked false al.x { al.check with illegal := !al.dst.ok t } (fun c t live s => al.body c t live s) c t s
    else
      match State.teamSpecial t idx, s.teamSpecial64 t idx with
      | some v, _ =>
        checked false Srcs.none (Check.operand (t.hasS r)) (fun c t _ s =>
          let put (v : Word) (s : State) : State := s.finishTeam c (fun u => t.openScalar (u.putS r v) c 2 [r]) c.next
          let outward := idx = 0x10 || idx = 0x11 || idx = 0x14
          if outward && s.isShadow t then s.inShadow s0 t (c.lanes t) fun rs s => put ((firstResult rs).headD 0) s
          else put v (if outward then s.logTeam c t [v] else s)) c t s
      | none, some v =>
        checked false Srcs.none (Check.operand (t.hasSP r)) (fun c t _ s =>
          let put (v : Double) (s : State) : State := s.finishTeam c (fun u => t.openScalar (u.putSP r v) c 2 [r, r + 1]) c.next
          if s.isShadow t then s.inShadow s0 t (c.lanes t) fun rs s => put (ofWords (firstResult rs)) s
          else put v (s.ticked.logTeam c t [loWord v, hiWord v])) c t s
      | none, none => s.onceTrap c t Srcs.none illegalOperand

/-- SWR (R410): bit 7 of the flag byte is written 0. -/
def execSwr (m : Mods) (a : Reg) (l : LIdx) (s : State) : Out :=
  issue (.swr m a l) s fun c t s =>
    let x : Srcs := { a := .v a.toNat false, b := .none, d := .none }
    checked false x (Check.operand (l.idx == 3)) (fun c t live s =>
      let tick := s.tick
      let pass (pa : PassArgs) (s : State) : PassEnd :=
        let t1 := (maskLanes pa.live).foldl (fun (u : Team) p =>
          (u.modLanes (maskOne p) fun th => { th with flags := (c.read pa.t tick x 0 p).setWidth 8 &&& 0x7F#8 }).markF (p / 32)) pa.t
        .go (s.setTeam (t1.freeLanes pa.live (freesOf m x))) pa.mine
      match runPasses c live x .none (fun _ _ => 0) pass (maskRows (c.lanes t ||| live)) none s with
      | .stop s => s
      | .go s _ => s.finish c c.next) c t s

/-! ### SYSC (R415) -/

/-- Registers s8 to s15, and the joined name's parts: process, thread, grid, block, team (R221). -/
def State.syscRequest (s : State) (t : Team) (n : Nat) : List Nat :=
  let (pid, tid) := ((s.gridOf t).map fun g => (g.pid, g.tid)).getD (0, 0)
  [n, t.uid, pid, tid, t.gid, ((s.blockOf t).map Block.index).getD 0, t.tix] ++ (List.range 8).map fun i => (t.readS (8 + i)).toNat

/-- Writes those of s8 to s15 that exist. -/
def Team.putArgs (t : Team) (vals : List (Nat × Word)) : Team :=
  vals.foldl (fun t v => if 8 ≤ v.1 && v.1 < 16 && t.hasS v.1 then t.putS v.1 v.2 else t) t

/-- A request already sent is not sent again (R317). It reads s8 to s15 beside its operand fields (R415, R92). -/
def execSysc (m : Mods) (l : LSysc) (s0 : State) : Out :=
  issue (.sysc m l) s0 fun c t s =>
    let args := ((List.range 8).map (8 + ·)).filter t.hasS
    checked false Srcs.none { Check.none with priv := t.aside.isSome, also := args.map refS } (fun c t _ s =>
      let s := s.releaseAt c.uid 5
      let again := c.again
      if s.isShadow t then
        s.inShadow s0 t (c.lanes t) fun rs s =>
          (s.acquire t.core 5).finishTeam c (fun u => u.putArgs ((firstResult rs).zipIdx.map fun (v, i) => (8 + i, v))) c.next
      else if again && t.sysc = .replied then
        (((s.acquire t.core 5).modTeam c.uid fun u => { u with sysc := .idle }).logTeam c t
          ((List.range 8).map fun i => t.readS (8 + i))).finishTeam c id c.next
      else
        let s := if again && t.sysc = .sent then s else s.say "SYSC" (s.syscRequest t l.n.toNat)
        (s.modTeam c.uid fun u => { u with sysc := .sent }).wait c (.sysc l.n) (c.capture t s.tick Srcs.none (c.lanes t))) c t s

/-! ### TRAP, BKPT, RTE -/

/-- The instruction completes before it raises its cause: it has issued and committed. -/
def State.commitTrap (s : State) (uid : Nat) : State := s.modTeam uid fun t => { t.passed 1 with insn := t.insn + 1 }

/-- TRAP (R416). -/
def execTrap (m : Mods) (l : LIdx) (s : State) : Out :=
  issue (.trap m l) s fun c t s =>
    (s.commitTrap c.uid).takeTrap c { trapOf 0x14 with detail := l.idx } (c.lanes t) none c.next

/-- BKPT (R329, R222): under a debugger the team stops with the next instruction as its PC. -/
def execBkpt (m : Mods) (s : State) : Out :=
  issue (.bkpt m) s fun c t s =>
    if (s.gridOf t).any Grid.debugged then
      (s.finishTeam c id c.next).breakpoint c 4 (((s.gridOf t).map Grid.bkptBcast).getD 0) none c.next
    else (s.commitTrap c.uid).breakpoint c 4 0 none c.next

/-- An entry holds a STATE above 3 (R205). -/
def Team.badReplay (t : Team) : Bool := t.rq.toList.any fun e => e.state.toNat > 3

/-- RTE (R206, R403). -/
def execRte (m : Mods) (s : State) : Out :=
  issue (.rte m) s fun c t s =>
    if t.aside.isSome then (s.commitTrap c.uid).endContext c.uid t.blk
    else if t.frame.active = 0 then s.onceTrap c t Srcs.none privilege
    else if t.frame.active != 1 || t.stack.length != t.frame.edepth.toNat || t.badReplay then s.endTeam c.uid causeFATAL
    else if (t.frame.smode >>> 19) != 0 then s.onceTrap c t Srcs.none illegalEncoding
    else if modeRnd t.frame.smode ≥ 6 then s.onceTrap c t Srcs.none illegalOperand
    else
      let s := ((s.commitTrap c.uid).modTeam c.uid Team.leaveTrap).dropStaleJobs c.uid
      match s.team? c.uid with
      | none => s
      | some u => if u.running = 0 && u.replay.isEmpty then s.resumeNext c.uid else s

/-! ### CTR (R345, R282, R297) -/

/-- The counter of an index; MFLAGS with clear is an instruction of its own. -/
def State.counter (s : State) (t : Team) (idx : Nat) : Option Double :=
  let nat (n : Nat) : Double := BitVec.ofNat 64 n
  match idx with
  | 0x00 => some t.insn
  | 0x01 => some t.passes
  | 0x02 => some (t.tokw)
  | 0x03 => some t.rcmiss
  | 0x04 => some t.split
  | 0x08 => some t.cbytes
  | 0x20 => some (((s.blockOf t).map fun b => b.mflags.setWidth 64).getD 0)
  | 0x28 => some (nat (s.setNumber (dieOf t.core)))
  | 0x29 => some (nat (s.dieAt (dieOf t.core)).tapster.t)
  | _ => if 0x30 ≤ idx && idx ≤ 0x38 then some (vget s.hub.counters (idx - 0x30) 0) else none

/-- Writes a counter's value, which a shadow takes from the original (R179), and changes the block. -/
def State.giveCounter (s s0 : State) (c : Ctx) (t : Team) (d : Reg) (v : Double) (f : Block → Block) : State :=
  let put (v : Double) (s : State) : State := (s.modBlock t.blk f).finishTeam c (fun u => u.putSP d.toNat v) c.next
  if s.isShadow t then s.inShadow s0 t (c.lanes t) fun rs s => put (ofWords (firstResult rs)) s
  else put v (s.ticked.logTeam c t [loWord v, hiWord v])

/-- CTR (R345). -/
def execCtr (m : Mods) (d : Reg) (l : LIdx) (s0 : State) : Out :=
  issue (.ctr m d l) s0 fun c t s =>
    match s.counter t l.idx.toNat with
    | none => s.onceTrap c t Srcs.none illegalOperand
    | some v => checked false Srcs.none (Check.operand (t.hasSP d.toNat)) (fun c t _ s => s.giveCounter s0 c t d v id) c t s

/-- CTR of index 0x21: reads MFLAGS and clears bits [6:0] (R282). -/
def execCtrMflagsClear (m : Mods) (d : Reg) (s0 : State) : Out :=
  issue (.ctrMflagsClear m d) s0 fun c t s =>
    let v : Double := ((s.blockOf t).map fun b => b.mflags.setWidth 64).getD 0
    checked false Srcs.none (Check.operand (t.hasSP d.toNat)) (fun c t _ s =>
      s.giveCounter s0 c t d v fun b => { b with mflags := b.mflags &&& ~~~0x7F#32 }) c t s

/-! ### BNDS (R155, R157, R330) -/

/-- A descriptor taken apart; none when a field deserves ILLEGAL_OPERAND. -/
def Bound.parse (x : Nat) : Option Bound :=
  if bitsOf x 63 16 != 0 || bitsOf x 3 0 != 0 || bitsOf x 15 8 > 3 || bitsOf x 7 6 = 3 then none
  else
    some { base := BitVec.ofNat 64 (bitsOf x 255 192), size := BitVec.ofNat 64 (bitsOf x 191 128), lo := BitVec.ofNat 32 (bitsOf x 127 96),
           hi := BitVec.ofNat 32 (bitsOf x 95 64), format := BitVec.ofNat 8 (bitsOf x 15 8), space := BitVec.ofNat 2 (bitsOf x 7 6),
           policy := BitVec.ofNat 2 (bitsOf x 5 4) }

/-- Writes bound register n: other teams' stores may still meet its old value (R157). -/
def Grid.putBound (g : Grid) (n writer : Nat) (b : Bound) : Grid :=
  { g with bounds := vput g.bounds n b, oldBounds := { reg := n, writer := writer, old := vget g.bounds n .off } :: g.oldBounds }

/-- The cause that BNDS's descriptor raises at issue (R155, R330). -/
def Block.boundFault (b : Block) (off : Nat) : Option TrapInfo :=
  match b.scratchCheck off 32 32, Bound.parse (b.formatAt off) with
  | some ti, _ => some ti
  | none, none => some illegalOperand
  | none, some _ => none

/-- BNDS (R330), whose descriptor bytes are checked with the word (R78); a shadow's changes nothing (R179). -/
def execBnds (m : Mods) (a : Reg) (l : LBnds) (s0 : State) : Out :=
  issue (.bnds m a l) s0 fun c t s =>
    let x := scalars (some a) none
    let fault : Option TrapInfo :=
      if !x.ok t then none
      else ((s.release c.uid).blockOf t).bind fun b => b.boundFault (c.readTeam t s.tick x 0).toNat
    checked false x { Check.none with extra := fault } (fun c t _ s =>
      let s := s.release c.uid
      s.withBlock t fun b =>
        let off := (c.readTeam t s.tick x 0).toNat
        match Bound.parse (b.formatAt off) with
        | none => s
        | some bd =>
          let s := s.watchScratch c t (c.lanes t) off 32
          if s.isShadow t then s.inShadow s0 t (c.lanes t) fun _ s => s.finishTeam c id c.next
          else ((s.modGrid t.gid fun g => g.putBound l.n.toNat c.uid bd).logTeam c t []).finishTeam c id c.next) c t s

/-! ### Unassigned opcodes (R79) -/

/-- A word of an unassigned class and function raises ILLEGAL_ENCODING. -/
def execUnassignedOpcode (w : Word) (s : State) : Out :=
  issue (.unassignedOpcode w) s fun c t s => s.onceTrap c t Srcs.none illegalEncoding

end Sys2Proof.Machine
end

