-- ==== Sys2Proof/Machine/Waits.lean ====
section
/-! DEFINITION. How a waiting instruction completes (R317; R149, R302, R325, R327, R348, R353, R356, R366, R375, R382, R385, R415, R424).
An event whose condition does not hold changes nothing. -/

namespace Sys2Proof.Machine

open Sys2Proof

/-- A team that waits, with what it waits for: it lives, no debugger stop and no dump holds it or a store that it would
perform (R227, R215). -/
def State.waiter (s : State) (uid : Nat) : Option (Team × Wait) :=
  (s.team? uid).bind fun t =>
    match t.run with
    | .waiting w =>
      if t.cause = 0 && t.stop.isNone && !s.dumpStops t.gid && (t.storeQ.isEmpty || !s.gridFrozen t.gid) then some (t, w) else none
    | _ => none

/-- Runs f for a waiting team. -/
def State.wake (s : State) (uid : Nat) (f : Team → Wait → State) : State :=
  match s.waiter uid with
  | none => s
  | some (t, w) => f t w

/-- The same outward result for each lane of the waiting instruction. -/
def State.logWait (s : State) (t : Team) (ws : List Word) : State :=
  s.logOut t.uid ((maskLanes t.waitEntry.pmask).map fun p => (p, ws))

/-- A waiting instruction leaves by a trap; it waits no more, and is still to be performed. -/
def State.trapWait (s : State) (t : Team) (ti : TrapInfo) : State :=
  (s.modTeam t.uid fun t => { t with run := .ready, waitEntry := .free, waitRte := none }).takeTrap t.waitCtx ti t.waitEntry.pmask
    (some { t.waitEntry with state := 1 }) t.pc

/-- BAR_WAIT_COMPLETE (R327). -/
def execBarWaitComplete (team : Nat) (s : State) : Out :=
  .next <| s.wake team fun t w =>
    match w with
    | .bar o ph => if s.phaseSeen t o != ph then s.endWait team id else s
    | .barw o ph => if s.phaseSeen t o != ph then s.endWait team id else s
    | _ => s

/-- GBAR_WAIT_COMPLETE (R366). -/
def execGbarWaitComplete (team : Nat) (s : State) : Out :=
  .next <| s.wake team fun t w =>
    match w with
    | .gbar k => if s.gbarDone t.gid k then (s.leaveGbar team t.waitEntry.pmask).endWait team id else s
    | _ => s

/-- EVWAIT_COMPLETE (R356). -/
def execEvwaitComplete (team : Nat) (s : State) : Out :=
  .next <| s.wake team fun t w =>
    match w with
    | .evwait d i =>
      match s.eventOf t i with
      | some v => ((s.acquire t.core 4).logWait t [v]).endWait team fun u => u.putS d.toNat v
      | none => s
    | _ => s

/-- Where the word of a waiting instruction stands, by a fresh walk; none while its page cannot be reached. -/
def State.waitWord (s : State) (t : Team) (need : Need) (va : Double) : Option Target :=
  match (s.procOf t).map fun p => s.engineAddr p need va.toNat with
  | some (.ok pa) => some (.phys pa)
  | _ => none

/-- AWAIT_WAKE (R325, R424). -/
def execAwaitWake (team : Nat) (s : State) : Out :=
  .next <| s.wake team fun t w =>
    match w with
    | .await d va =>
      match s.waitWord t .load va with
      | none => s
      | some tg =>
        let give (v : Word) (s : State) : State := ((s.acquire t.core 4).logWait t [v]).endWait team fun u => u.putS d.toNat v
        if s.uncorrectableAt t.core tg 8 then
          if s.isStrict t then (s.consumed tg).trapWait t { trapOf 0x0B with vaddr := va, info := 0x10000#64 }
          else give 0xDEADDEAD (s.consumed tg)
        else
          let x := s.wordAt tg
          if promiseState x = 0 then s
          else give (awaitStatus x) (s.checkWatch (t.waitCtx.hitTeam t t.waitEntry.pmask) tg va.toNat 8 .load)
    | _ => s

/-- A waiting LOCK has the lock: its result and its acquire. -/
def State.lockDone (s : State) (t : Team) (d : BitVec 4) (lanes : Mask) (found : Bool) : State :=
  ((s.acquire t.core 4).logWait t [if found then 1 else 0]).endWait t.uid fun u => (u.passed (extraPasses lanes)).putP lanes d.toNat found

/-- LOCK_ACQUIRE_AFTER_WAIT (R375, R424). -/
def execLockAcquireAfterWait (team : Nat) (s : State) : Out :=
  .next <| s.wake team fun t w =>
    match w with
    | .lock d va lanes =>
      match s.waitWord t .store va with
      | none => s
      | some tg =>
        if s.uncorrectableAt t.core tg 8 then
          if s.isStrict t then (s.consumed tg).trapWait t { trapOf 0x0B with vaddr := va, info := 0x10000#64 }
          else (s.consumed tg).trapWait t (lockPoisonedAt va 0x10000#64)
        else
          let x := s.wordAt tg
          let by_ := t.waitCtx.hitTeam t t.waitEntry.pmask
          let fewer := fewerWaiters s.tick (lockWaiters x)
          if lockPoisoned x then (((s.checkWatch by_ tg va.toNat 8 .atomic).putOwn t t.waitEntry.pmask tg va (lockWithWaiters x fewer)).ticked).trapWait t (lockPoisonedAt va 0)
          else if lockOwner x = 0 && (Estate.freeSlot t.estate).isSome then
            let s := s.checkWatch by_ tg va.toNat 8 .atomic
            ((s.acquireLock t t.waitEntry.pmask tg va fewer).ticked).lockDone t d lanes (lockBereaved x)
          else s
    | _ => s

/-- CWAIT_COMPLETE (R348). -/
def execCwaitComplete (team : Nat) (s : State) : Out :=
  .next <| s.wake team fun t w =>
    match w with
    | .cwait n => if (t.batchOf n).any t.batchesDone then s.endWait team id else s
    | _ => s

/-- MWAIT_COMPLETE (R385). -/
def execMwaitComplete (team : Nat) (s : State) : Out :=
  .next <| s.wake team fun t w =>
    match w with
    | .mwait upto => if (s.blockOf t).any (fun b => b.matrixDone upto) then s.endWait team id else s
    | _ => s

/-- ENQ_AFTER_WAIT (R353). -/
def execEnqAfterWait (team : Nat) (s : State) : Out :=
  .next <| s.wake team fun t w =>
    match w with
    | .enq k records frees =>
      if (s.nodeOf t k).any fun nd => records.length ≤ nd.room then
        (((s.releaseAt team 4).appendRecords t.gid k records).logWait t []).endWait team fun u => u.freeLanes t.waitEntry.pmask frees
      else s
    | _ => s

/-- CPOST_AFTER_WAIT (R149). -/
def execCpostAfterWait (team : Nat) (s : State) : Out :=
  .next <| s.wake team fun t w =>
    match w with
    | .cpost off => if s.courierFull t.core then s else ((s.release team).postCopy t (t.waitCtx.hitTeam t t.waitEntry.pmask) off).endWait team id
    | _ => s

/-- MTLD_AFTER_WAIT (R382). -/
def execMtldAfterWait (team : Nat) (s : State) : Out :=
  .next <| s.wake team fun t w =>
    match w with
    | .mtld jid =>
      s.withBlock t fun b =>
        match b.jobs.find? fun j => j.id == jid with
        | some { id := _, team := _, work := .load tile src seen } =>
          if s.tileReady t b tile then
            (((s.loadTile b tile src seen).watchScratch t.waitCtx t t.waitEntry.pmask src 0x4000).modBlock b.uid fun b => { b with jobs := b.jobs.filter fun j => j.id != jid }).endWait team id
          else s
        | _ => s
    | _ => s

/-- RPKT_AFTER_WAIT (R301, R302). -/
def execRpktAfterWait (team : Nat) (s : State) : Out :=
  .next <| s.wake team fun t w =>
    match w with
    | .rpkt k data frees =>
      match s.sendPacket t k data with
      | some s => (s.logWait t []).endWait team fun u => u.freeLanes t.waitEntry.pmask frees
      | none => s
    | _ => s

/-- RPRCV_COMPLETE (R302). -/
def execRprcvComplete (team : Nat) (s : State) : Out :=
  .next <| s.wake team fun t w =>
    match w with
    | .rprcv d sa k lanes =>
      match s.takeResult t k with
      | some (p, s) =>
        (s.logOut team ((maskLanes lanes).map fun q => (q, [p.value (t.home q), p.status]))).endWait team fun u =>
          (u.passed (extraPasses t.running)).receive lanes d sa (fun q => p.value (u.home q)) p.status
      | none => s
    | _ => s

/-- Serai writes its reply's bytes of the process's memory. -/
def State.seraiWrites (s : State) (t : Team) (mem : List (Double × Byte)) : State :=
  match s.procOf t with
  | none => s
  | some p => mem.foldl (fun s x => s.writeVirt p x.1.toNat [x.2]) s

/-- The words s8 to s15 of a team. -/
def Team.argWords (t : Team) : List Word := (List.range 8).map fun i => t.readS (8 + i)

/-- SYSC_REPLY (R415): the waiting team continues; a reply to a team that does not wait on its core is written into its image
(R55, R317), and one to a team that the debugger or a dump holds arrives later. -/
def execSyscReply (team : Nat) (r : SyscReply) (s : State) : Out :=
  .next <| match s.team? team with
  | none => s
  | some t =>
    if t.sysc != .sent || t.cause != 0 then s
    else
      match s.waiter team with
      | some (t, .sysc _) =>
        let s := (s.seraiWrites t r.mem).modTeam team fun u => { u.putArgs r.regs with sysc := .idle }
        let s := s.acquire t.core 5
        match s.team? team with
        | some u => (s.logWait t u.argWords).endWait team id
        | none => s
      | _ =>
        let waits := match t.run with
          | .waiting _ => true
          | _ => false
        if t.stop.isSome || waits then s
        else
          (s.seraiWrites t r.mem).modTeam team fun u =>
            let real := { u.real with aside := none }.putArgs r.regs
            { u.putReal { real with aside := u.aside } with sysc := .replied }

end Sys2Proof.Machine
end

