-- ==== Sys2Proof/Machine/Engines.lean ====
section
/-! DEFINITION. What the engines do on their own: the store queue, load and atomic replies, register lines (spec/06 R135; R53, R55, R90,
R163, R214), the Courier (R148 to R154), power tokens (R195 to R199) and the age of node slots (R193). -/

namespace Sys2Proof.Machine

open Sys2Proof

/-- Runs f for a team that has not ended. -/
def State.onTeam (s : State) (uid : Nat) (f : Team → State) : State :=
  match s.team? uid with
  | some t => if t.cause = 0 then f t else s
  | none => s

/-- STORE_QUEUE_DRAIN (R135, R163): the team's oldest store becomes visible. -/
def execStoreQueueDrain (team : Nat) (s : State) : Out :=
  .next <| s.onTeam team fun t => if s.gridFrozen t.gid then s else s.drainOne team

/-- Writes back one outstanding reply; a dead lane takes none. -/
def Team.deliverOne (t : Team) (f : InFlight) (rest : List InFlight) : Team := { { t with inflight := [f] }.deliver with inflight := rest }

/-- The first element that satisfies a test, and the list without it. -/
def takeFirst {α : Type} (p : α → Bool) : List α → Option (α × List α)
  | [] => none
  | x :: xs => if p x then some (x, xs) else (takeFirst p xs).map fun r => (r.1, x :: r.2)

/-- Writes back the team's oldest outstanding load or atomic. -/
def State.writeBack (s : State) (t : Team) (atomic : Bool) : State :=
  match takeFirst (fun f => f.atomic == atomic) t.inflight with
  | some (f, rest) => (s.setTeam (t.deliverOne f rest)).scrubRegs t (f.writes.map Prod.fst)
  | none => s

/-- LOAD_REPLY (R90). -/
def execLoadReply (team : Nat) (s : State) : Out := .next <| s.onTeam team fun t => s.writeBack t false

/-- ATOMIC_REPLY (R214): while a handler context has set the team's registers aside, the reply goes there. -/
def execAtomicReply (team : Nat) (s : State) : Out :=
  .next <| s.onTeam team fun t =>
    match t.aside with
    | none => s.writeBack t true
    | some a =>
      match a.inflight with
      | [] => s.writeBack t true
      | f :: rest =>
        let real := ({ t.real with aside := none }).deliverOne f t.inflight
        (s.setTeam (Team.putReal { t with aside := some { a with inflight := rest } } real)).scrubRegs t (f.writes.map Prod.fst)

/-- The first line that a team waits for arrives; with the last one the team is ready again. -/
def Team.lineArrives (t : Team) : Team :=
  match t.run with
  | .missing (l :: rest) =>
    { t.fill l with run := if rest.isEmpty then .ready else .missing rest, rcmiss := t.rcmiss + 1 }
  | _ => t

/-- REGISTER_LINE_FILL (R53): the absent line is unpacked by its format tag, and the miss is counted (R345). -/
def execRegisterLineFill (team : Nat) (s : State) : Out := .next <| s.onTeam team fun _ => s.modTeam team Team.lineArrives

/-! ### The Courier (R148 to R154) -/

/-- How a byte of a copy stands against its side. -/
inductive CopyPlace where
  | at (tg : Target) (addr : Double)
  | fault (addr : Double) (cause level : Nat)
  | denied

/-- Byte k of row r on a side. A device address in an image is reached only as R56 let the posting team reach it at its CPOST. -/
def State.copyPlace (s : State) (b : Block) (p : Process) (q : CopyReq) (side : CopySide) (base : Double) (stride : Word) (need : Need)
    (r k : Nat) : CopyPlace :=
  let a := copyAddr base stride r k
  match side with
  | .scratch => .at (.scratch b.uid a.toNat) a
  | .commons =>
    match s.commonsAt b.die a.toNat 1 with
    | some (c, off) => .at (.commons c off) a
    | none => .denied
  | .peer => .denied
  | .device =>
    match s.findImage p.pid a.toNat with
    | some (im, off) => if s.reaches q.team q.blk q.gid q.inHandler q.isHeir im then .at (.image im off) a else .denied
    | none =>
      match s.engineAddr p need a.toNat with
      | .ok pa => .at (.phys pa) a
      | .error (cause, level) => .fault a cause level

/-- Bytes that go to consecutive places of one unit: 32 bytes of device memory, 4 bytes elsewhere. -/
structure CopyPiece where
  tg : Target
  addr : Double
  bytes : List Byte

def Target.unit (t : Target) : Nat :=
  match t with
  | .phys pa => pa / 32
  | t => t.key / 4

/-- Joins bytes into pieces, in order. -/
def joinPieces : List (Target × Double × Byte) → List CopyPiece
  | [] => []
  | (tg, a, x) :: rest =>
    match joinPieces rest with
    | [] => [{ tg := tg, addr := a, bytes := [x] }]
    | p :: ps =>
      if tg.space = p.tg.space && tg.key + 1 = p.tg.key && tg.unit = p.tg.unit then { tg := tg, addr := a, bytes := x :: p.bytes } :: ps
      else { tg := tg, addr := a, bytes := [x] } :: p :: ps

/-- What a hit of a copy's access records (R224). -/
def CopyReq.hitBy (q : CopyReq) : HitBy :=
  { team := q.team, pc := q.pc, word := q.word, lit := 0, homes := q.homes, after := q.after }

/-- Writes a piece of a copy: the core's L1 takes it, a shadow holds it, and both runs of a sampled block add it to their digests (R135,
R179, R180). -/
def State.writePiece (s : State) (b : Block) (q : CopyReq) (p : CopyPiece) : State :=
  let outside := p.tg.space != .scratch
  let s := match s.team? q.team with
    | some t =>
      if outside then
        let add (x : PeerCopy) : PeerCopy := if x.req = q.id then { x with sum := x.sum + hashBytes p.addr p.bytes } else x
        (s.digestBytes t p.addr p.bytes).modTeam q.team fun t => { t with peerCopies := t.peerCopies.map add }
      else s
    | none => s
  if b.shadowOf.isSome && outside then s.modBlock b.uid fun b => b.hold p.tg p.bytes
  else
    let s := match s.cachePa p.tg with
      | some pa => s.modCore b.core fun c => c.patchLine pa p.bytes
      | none => s
    let s := s.writeHome p.tg p.bytes (p.bytes.length == 32)
    s.checkWatch q.hitBy p.tg p.addr.toNat p.bytes.length .store

/-- Gives a request's item its status, and completes it. -/
def setItem (req : Nat) (st : Byte) (l : List BatchItem) : List BatchItem :=
  l.map fun i => if i.req = req then { i with status := st, done := true } else i

def State.completeCopy (s : State) (core : Nat) (q : CopyReq) (st : Byte) : State :=
  (s.modCore core fun c => { c with courier := c.courier.filter fun x => x.id != q.id }).modTeam q.team fun t =>
    { t with openBatch := setItem q.id st t.openBatch, batches := t.batches.map (fun b => (b.1, setItem q.id st b.2)),
             peerCopies := t.peerCopies.map fun x => if x.req = q.id then { x with status := some st } else x }

/-- The status of the original's copy that a shadow's request matches, once it is known, and what it has added to the digest (R179,
R180). -/
def State.peerStatus (s : State) (q : CopyReq) : Option (Byte × BitVec 128) :=
  match s.team? q.team with
  | none => none
  | some t =>
    match s.originalOf t, t.peerCopies.findIdx? fun x => x.req == q.id with
    | some o, some k => (o.peerCopies[k]?).bind fun x => x.status.map fun st => (st, x.sum)
    | _, _ => none

/-- A status with which CPOST turns a request away (R148, R154). -/
def rejects (st : Byte) : Bool := st != 0 && st != copyDenied && st != copyUncorrectable

/-- The original's team has ended without the copy that a shadow's request matches (log 70). -/
def State.peerNever (s : State) (q : CopyReq) : Bool :=
  (s.team? q.team).any fun t =>
    match s.originalOf t, t.peerCopies.findIdx? fun x => x.req == q.id with
    | some o, some k => o.cause != 0 && o.peerCopies.length ≤ k
    | _, _ => true

/-- Counts bytes of a request down, with ERR when its status is not 0. -/
def State.countCopy (s : State) (q : CopyReq) (n : Nat) (st : Byte) : State :=
  let s := (s.countDownAt q.hitBy q.blk q.bar n).1
  if st = 0 then s else s.setErr q.blk q.bar

/-- A request stops with a status: its remaining bytes are counted down. -/
def State.abandonCopy (s : State) (core : Nat) (q : CopyReq) (st : Byte) : State :=
  (s.countCopy q (q.total - q.counted) st).completeCopy core q st

/-- The Courier's device access faults: it posts an entry and pauses the request (R152); it waits while the queue is full. -/
def State.pauseCopy (s : State) (core : Nat) (p : Process) (q : CopyReq) (access : Nat) (va : Double) (cause level : Nat) : State :=
  if !faultRoom s (dieOf core) 1 then s
  else
    let slot := ((s.team? q.team).map Team.slot).getD 0
    let (ix, s) := s.postFault (dieOf core) q.gid p.asn core slot q.team
      { vaddr := va, pc := q.pc, lanes := 0, row := 0, access := access, level := level, cause := cause }
    s.modCore core fun c => { c with courier := c.courier.map fun x => if x.id = q.id then { x with paused := some ix } else x }

/-- The first place that is not reached. -/
def firstBad (l : List CopyPlace) : Option CopyPlace := l.find? fun p => match p with | .at _ _ => false | _ => true

def placesAt (l : List CopyPlace) : List (Target × Double) := l.filterMap fun p => match p with | .at tg a => some (tg, a) | _ => none

/-- A chunk fits its request: bytes of one row that have not been written yet. -/
def CopyReq.fits (q : CopyReq) (c : CopyChunk) : Bool :=
  c.len != 0 && c.row < q.rows && c.off + c.len ≤ q.len &&
    !(q.moved.any fun m => m.1 == c.row && m.2.1 < c.off + c.len && c.off < m.2.1 + m.2.2) &&
    (q.kind != 5 || c.data.length == c.len)

/-- The bytes of the chunk's source, and a place in each unit that is uncorrectable. -/
def State.copySource (s : State) (b : Block) (places : List (Target × Double)) : List Byte × List Target :=
  let bad := places.filter fun x => s.uncorrectable b.core x.1
  let bytes := places.map fun x =>
    if s.uncorrectable b.core x.1 then markerByte x.2.toNat
    else ((if b.shadowOf.isSome then overlayPriv b x.1 (s.homeBytes x.1 1) else s.homeBytes x.1 1).headD 0)
  (bytes, bad.foldl (fun (l : List Target) x => if l.any fun y => y.space == x.1.space && y.unit == x.1.unit then l else l ++ [x.1]) [])

/-- Moves a chunk whose bytes and places are known. -/
def State.moveChunk (s : State) (b : Block) (q : CopyReq) (c : CopyChunk) (bytes : List Byte) (bad : Bool) (dst : List (Target × Double)) : State :=
  let s := (joinPieces ((dst.zip bytes).map fun x => (x.1.1, x.1.2, x.2))).foldl (fun s p => s.writePiece b q p) s
  let st : Byte := if bad then copyUncorrectable else 0
  let q' : CopyReq :=
    { q with moved := (c.row, c.off, c.len) :: q.moved, counted := q.counted + c.len, status := if q.status = 0 then st else q.status }
  let s := s.modTeam q.team fun t => { t with cbytes := t.cbytes + BitVec.ofNat 64 c.len }
  let s := s.countCopy q c.len st
  if q'.counted ≥ q.total then s.completeCopy b.core q' q'.status
  else s.modCore b.core fun k => { k with courier := k.courier.map fun x => if x.id = q.id then q' else x }

/-- The peer device, peer process and queue pair of an entry of the peer table (R303). -/
def peerOf (p : Process) (ix : Nat) : List Nat :=
  match (p.peers[ix]?).join with
  | some e => [e.device, e.process, e.queuePair]
  | none => []

/-- COURIER_COUNT_DOWN (R150, R152): moves the bytes of one chunk, makes them visible and counts the barrier object down. -/
def execCourierCountDown (core req : Nat) (c : CopyChunk) (s : State) : Out :=
  .next <| match (s.coreAt core).courier.find? fun q => q.id == req with
  | none => s
  | some q =>
    match s.block? q.blk, (s.grid? q.gid).bind fun g => s.proc? g.pid with
    | some b, some p =>
      if b.shadowOf.isSome && (q.kind == 4 || q.kind == 5) then
        match s.peerStatus q with
        | some (st, sum) =>
          let s := s.modBlock b.uid fun b => { b with digest := b.digest + sum }
          (if b.barOk q.bar || !rejects st then s.countCopy q q.total st else s).completeCopy core q st
        | none =>
          if s.peerNever q then
            ((s.modBlock b.uid fun b => { b with mismatch := true }).countCopy q q.total copyPeer).completeCopy core q copyPeer
          else s
      else if q.paused.isSome || !q.fits c || s.gridFrozen q.gid then s
      else
        let kind := q.kind.toNat
        let at_ (side : CopySide) (base : Double) (stride : Word) (need : Need) : List CopyPlace :=
          if side = .peer then [] else (List.range c.len).map fun i => s.copyPlace b p q side base stride need c.row (c.off + i)
        let src := at_ (sourceSide kind) q.src q.sstride .load
        let dst := at_ (destSide kind) q.dst q.dstride .store
        match firstBad src, firstBad dst with
        | some (.fault a cause level), _ => s.pauseCopy core p q 4 a cause level
        | some _, _ => s.abandonCopy core q copyDenied
        | none, some (.fault a cause level) => s.pauseCopy core p q 5 a cause level
        | none, some _ => s.abandonCopy core q copyDenied
        | none, none =>
          let from_ := placesAt src
          let (bytes, bad) := if kind = 5 then (c.data, []) else s.copySource b from_
          let s := bad.foldl State.consumed s
          let s := (joinPieces (from_.map fun x => (x.1, x.2, 0#8))).foldl (fun s x => s.checkWatch q.hitBy x.tg x.addr.toNat x.bytes.length .load) s
          let s := if kind = 4 then
              s.say "PEER WRITE" (peerOf p q.peer ++ (copyAddr q.dst q.dstride c.row c.off).toNat :: bytes.map BitVec.toNat)
            else s
          s.moveChunk b q c bytes (!bad.isEmpty) (placesAt dst)
    | _, _ => s

/-- COPY_FAULT_RESUME (R152). -/
def execCopyFaultResume (core req : Nat) (s : State) : Out :=
  .next <| match (s.coreAt core).courier.find? fun q => q.id == req with
  | none => s
  | some q =>
    match q.paused with
    | none => s
    | some ix =>
      match (s.dieAt (dieOf core)).faults.find? fun f => f.index == ix && f.team == q.team && f.access.toNat ≥ 4 with
      | none => s
      | some f =>
        if f.status = 1 then
          (s.freeFault (dieOf core) ix).modCore core fun c =>
            { c with courier := c.courier.map fun x => if x.id = req then { x with paused := none } else x }
        else if f.status = 2 then (s.freeFault (dieOf core) ix).abandonCopy core q copyDenied
        else s

/-- PEER_RETRY_LIMIT (R152): the bytes not yet confirmed end with PEER_UNREACHABLE. -/
def execPeerRetryLimit (core req : Nat) (s : State) : Out :=
  .next <| match (s.coreAt core).courier.find? fun q => q.id == req with
  | none => s
  | some q => if q.kind = 4 || q.kind = 5 then s.abandonCopy core q copyPeer else s

/-! ### Power tokens (R195, R199) -/

/-- Refill of a die cycle at the effective power limit. -/
def State.refill (s : State) : Int := 25 * (s.hub.effective.toNat : Int) - 25000

/-- Token floors of the grids with resident blocks on a die. -/
def State.floorsOn (s : State) (die : Nat) : List (Nat × Nat) :=
  s.grids.filterMap fun g =>
    if g.tfloor != 0 && s.blocks.any (fun b => b.gid == g.gid && b.resident && b.die == die) then some (g.gid, g.tfloor) else none

/-- What a floor of f refills when the floors sum to F against half of the refill R: f × H ÷ F, rounded down. -/
def floorRefill (f F : Nat) (R : Int) : Int := if 2 * (F : Int) ≤ R then f else (f : Int) * R / (2 * F)

/-- POOL_REFILL (R195, R199): the private pools take their floors out of the refill, and traffic of `bytes` is debited. -/
def execPoolRefill (die bytes : Nat) (s : State) : Out :=
  let R := s.refill
  let floors := s.floorsOn die
  let F := floors.foldl (fun n x => n + x.2) 0
  let own := floors.map fun x => (x, floorRefill x.2 F R)
  let taken := own.foldl (fun n x => n + x.2) 0
  .next <| if die ≥ 4 then s
  else
    ((s.ageWaits die).modHub fun h => { h with applying := h.applying.filter fun d => d != die }).modDie die fun d =>
      let up := d.pool + R - taken
      let capped := if up > 64 * R then 64 * R else up
      let moved := d.traffic + bytes
      let down := capped - 384 * (moved / 256 : Nat)
      { d with
        traffic := moved % 256, pool := if down < -(64 * R) then -(64 * R) else down,
        privPools := own.map fun x =>
          let level := (d.privPools.lookup x.1.1).getD 0 + x.2
          (x.1.1, if level > 64 * x.1.2 then 64 * x.1.2 else level) }

/-! ### Node slots (R193) -/

/-- SLOT_AGE_CLOSE: the open slot of a node has waited AGE; the number after the table's nodes is the Relay's own (R253). -/
def execSlotAgeClose (gid node : Nat) (s : State) : Out :=
  .next <| s.modGrid gid fun g =>
    if node < g.nodes.length then { g with nodes := modifyAt g.nodes node fun n => n.close true }
    else if node = g.nodes.length then
      { g with relay := g.relay.map fun r =>
          if r.waiting.isEmpty then r
          else { r with waiting := [], closed := r.closed ++ [{ proposals := r.waiting, byAge := true, order := r.since }] } }
    else g

end Sys2Proof.Machine
end

