-- ==== Sys2Proof/Machine/Launch.lean ====
section
/-! DEFINITION. The Serai launch call (spec/08 R182 to R185, R189, R192; spec/06 R155; spec/13 R250, R251; spec/19 R299): what it checks,
in which order, and the grid it makes. -/

namespace Sys2Proof.Machine

open Sys2Proof

/-! ### The relaunch policy (R250, R251) -/

/-- The 64 bytes of a policy, as a number, keep every fate. -/
def relayOk (x : Nat) : Bool :=
  let level := fieldAt x 0x1C 1
  let mut_ := fieldAt x 0x20 32
  let kind := bitsOf mut_ 3 0
  fieldAt x 0 8 % 4 == 0 && level ≤ 1 && fieldAt x 0x1D 3 == 0 && bitsOf mut_ 111 6 == 0 && kind ≤ 4 &&
    (level == 1 || (kind != 2 && kind != 3))

def parseRelay (x : Nat) (entry : Double) : Relay :=
  let pe := BitVec.ofNat 64 (fieldAt x 0 8)
  { pentry := if pe = 0 then entry else pe, chst := BitVec.ofNat 64 (fieldAt x 8 8), reca := BitVec.ofNat 64 (fieldAt x 0x10 8),
    steps := fieldAt x 0x18 4, level := BitVec.ofNat 8 (fieldAt x 0x1C 1), mutDesc := BitVec.ofNat 256 (fieldAt x 0x20 32),
    waiting := [], since := 0, closed := [], running := [] }

/-! ### The tree table (R299) -/

def entryRnd (e : Nat) : Nat := bitsOf e 66 64
def entryTout (e : Nat) : Nat := bitsOf e 95 72
def entryCore (e : Nat) : Nat := bitsOf e 31 24
def entryDie (e : Nat) : Nat := bitsOf e 23 22
def entryTree (e : Nat) : Nat := bitsOf e 21 16
def entryTtree (e : Nat) : Nat := bitsOf e 15 10
def entryIsPort (e : Nat) : Bool := bitsOf e 8 8 == 1
def entryChild (e k : Nat) : Nat := bitsOf e (39 + 8 * k) (32 + 8 * k)

/-- The used children, packed from CH0. -/
def entryChildren (e : Nat) : List Nat := ((List.range 4).map (entryChild e)).takeWhile fun c => c != 0xFF

/-- The fates of one entry's own fields. -/
def treeEntryOk (e : Nat) : Bool :=
  bitsOf e 127 96 == 0 && bitsOf e 71 67 == 0 && bitsOf e 9 9 == 0 && bitsOf e 7 0 == 0 && entryCore e < 144 &&
  (if entryIsPort e then
    entryTout e == 0 && entryRnd e == 0 && entryChild e 0 < 144 && entryChild e 1 == 0xFF && entryChild e 2 == 0xFF && entryChild e 3 == 0xFF
  else
    entryRnd e ≤ 4 && entryTtree e == 0 && (entryChildren e).all (fun c => c < 144) &&
      ((List.range 4).drop (entryChildren e).length).all fun k => entryChild e k == 0xFF)

def parseRouter (e : Nat) : Router :=
  let n := 1 + (entryChildren e).length
  { tree := entryTree e, die := entryDie e, core := entryCore e, children := entryChildren e, rnd := BitVec.ofNat 3 (entryRnd e),
    tout := if entryTout e = 0 then 0x1000000 else entryTout e, round := 0, now := emptySlots n, next := emptySlots n, held := none,
    timedOut := false, out := none }

def parsePort (e : Nat) : Port :=
  { aliasId := entryTree e, die := entryDie e, core := entryCore e, tree := entryTtree e, target := entryChild e 0 }

/-- No value of a list stands in it twice. -/
def noRepeats (l : List Nat) : Bool :=
  match l with
  | [] => true
  | x :: rest => !rest.contains x && noRepeats rest

/-- The cores that n generations of children reach. -/
def reachCores (rs : List Router) : Nat → List Nat → List Nat
  | 0, l => l
  | n + 1, l => l ++ reachCores rs n (l.flatMap fun c => ((rs.find? fun r => r.core == c).map Router.children).getD [])

/-- The routers of one id: one die, no core twice, every child one of them, one tree. -/
def oneTree (rs : List Router) : Bool :=
  let cores := rs.map Router.core
  let kids := rs.flatMap Router.children
  let roots := cores.filter fun c => !kids.contains c
  rs.all (fun r => some r.die == (rs.head?.map Router.die)) && noRepeats cores && noRepeats kids && kids.all (fun c => cores.contains c) &&
    match roots with
    | [r] => cores.all fun c => (reachCores rs rs.length [r]).contains c
    | _ => false

def treesOk (rs : List Router) (ps : List Port) : Bool :=
  ((List.range 64).all fun id =>
    let mine := rs.filter fun r => r.tree == id
    mine.isEmpty || (oneTree mine && !(ps.any fun p => p.aliasId == id))) &&
  ps.all (fun p => rs.any fun r => sameRouter r p.tree p.die p.target) &&
  noRepeats (ps.map fun p => p.aliasId * 1024 + p.die * 256 + p.core)

/-- The tree table at an address, unless it breaks a fate or a condition. -/
def State.readTrees (s : State) (p : Process) (va : Nat) : Option (List Router × List Port) :=
  if va = 0 then some ([], [])
  else
    let h := s.readVirtNat p va 16
    let n := h % 65536
    if h / 65536 != 0 || n < 1 || n > 4096 then none
    else
      let es := (List.range n).map fun i => s.readVirtNat p (va + 16 + 16 * i) 16
      let rs := (es.filter fun e => !entryIsPort e).map parseRouter
      let ps := (es.filter entryIsPort).map parsePort
      if es.all treeEntryOk && treesOk rs ps then some (rs, ps) else none

/-! ### Nodes, start-after entries, bounds (R192, R185, R155) -/

def nodeOk (ngrp x : Nat) : Bool :=
  bitsOf x 255 192 % 4 == 0 && bitsOf x 127 108 == 0 && bitsOf x 107 100 != 0 && 1 ≤ bitsOf x 99 96 && bitsOf x 99 96 ≤ 8 &&
    bitsOf x 95 64 ≤ 0x100000 && 1 ≤ bitsOf x 63 48 && bitsOf x 63 48 ≤ 32 * ngrp && bitsOf x 47 0 == 0

def parseNode (x : Nat) : Node :=
  let n := bitsOf x 107 100
  { entry := BitVec.ofNat 64 (bitsOf x 255 192), buf := BitVec.ofNat 64 (bitsOf x 191 128), nslot := n, recw := bitsOf x 99 96,
    age := if bitsOf x 95 64 = 0 then 4096 else bitsOf x 95 64, thresh := bitsOf x 63 48, slots := List.replicate n .free, openIx := 0,
    batches := 0 }

def afterGrid (e : Nat) : Nat := bitsOf e 95 64
def afterKind (e : Nat) : Nat := bitsOf e 63 62
def afterBlock (e : Nat) : Nat := bitsOf e 30 0

/-- A start-after entry of a grid of process pid. -/
def State.afterOk (s : State) (pid e : Nat) : Bool :=
  bitsOf e 127 96 == 0 && bitsOf e 61 31 == 0 && afterKind e != 3 &&
    match s.grid? (afterGrid e) with
    | some g => g.pid == pid && (afterKind e != 1 || afterBlock e < g.count)
    | none => false

/-- All of a list, if every element has a value. -/
def allSome (l : List (Option α)) : Option (List α) :=
  l.foldr (fun x acc => match x, acc with | some a, some as => some (a :: as) | _, _ => none) (some [])

/-- The bound registers at launch. -/
def State.readBounds (s : State) (p : Process) (va : Nat) : Option (Vector Bound 16) :=
  if va = 0 then some (Vector.replicate 16 .off)
  else
    (allSome ((List.range 16).map fun i => Bound.parse (s.readVirtNat p (va + 32 * i) 32))).map fun l =>
      l.zipIdx.foldl (fun v (b, i) => vput v i b) (Vector.replicate 16 .off)

/-! ### The descriptor's own fields (R184) -/

def regCountOk (n : Nat) : Bool := 8 ≤ n && n ≤ 64 && n % 8 == 0

def Grid.fieldsOk (g : Grid) : Bool :=
  g.entry.toNat % 4 == 0 && 1 ≤ g.count && g.count ≤ 2 ^ 31 && 1 ≤ g.teams && g.teams ≤ 16 && 1 ≤ g.ngrp && g.ngrp ≤ 32 &&
    regCountOk g.nvec && regCountOk g.nscal && g.scrsz % 256 == 0 && g.ntile ≤ 16 && g.nacc ≤ 8 && g.flags / 16 == 0 && g.tfloor ≤ 4096 &&
    g.nnode ≤ 256 && 16 ≤ g.cvcap && g.cvcap ≤ 4096 && g.cvcap % 16 == 0 && g.cvmode ≤ 1 && g.nafter ≤ 6 && g.field 0x03C 4 == 0 &&
    g.field 0x088 24 == 0

/-- The smallest commons contribution that the process's window allows: among the cores of its windows, or of all when it has
none (log 25). -/
def State.leastContribution (s : State) (p : Process) : Nat :=
  let cores := p.windows.flatMap fun w => w.2
  let of_ := if cores.isEmpty then List.range 576 else cores
  of_.foldl (fun m c => min m (s.coreAt c).contribution) 0x80000

/-- Blocks of the grid that an empty core holds at once (R190, R51, R130). -/
def Grid.perCore (g : Grid) (scratch : Nat) : Nat :=
  let lim (n k : Nat) : Nat := if k = 0 then 16 else n / k
  min 16 (min (64 / g.teams) (min (lim 16 g.ntile) (min (lim 8 g.nacc) (lim scratch g.scrsz))))

def State.tooLarge (s : State) (p : Process) (g : Grid) : Bool :=
  let per := g.perCore (0x200000 - s.leastContribution p)
  per == 0 || (g.gang && g.count > 576 * per)

/-- The queue's descriptors none of whose blocks has been admitted (R182, R183). -/
def State.queued (s : State) (pid queue : Nat) : Nat :=
  (s.grids.filter fun g => g.pid == pid && g.queue == queue && g.admitted == 0 && !g.done).length

/-! ### The call -/

/-- The grid of a call as it stands before its tables are read. -/
def newGrid (gid : Nat) (c : LaunchCall) (place : List (Nat × Nat)) : Grid :=
  { gid := gid, pid := c.pid, tid := c.tid, queue := c.queue.toNat, desc := (c.desc ++ List.replicate 256 0).take 256, place := place,
    debugged := c.debugged, bkptBcast := 0, admitted := 0, done := false, nextTag := 1, handlers := 0, events := [],
    completions := [], bounds := Vector.replicate 16 .off, oldBounds := [], nodes := [], routers := [], ports := [], packets := [],
    relay := none, conveying := [], handlersDue := [], heldBreaks := [], heldWatches := [] }

/-- The process that calls: Serai keeps it, with what it last said of it. -/
def State.callProcess (s : State) (c : LaunchCall) : State :=
  match s.proc? c.pid with
  | some _ => s.modProc c.pid fun p => { p with asn := c.asn, root := c.root, peers := c.peers, dumpPolicy := c.dumpPolicy }
  | none =>
    { s with procs := s.procs ++ [{ pid := c.pid, asn := c.asn, root := c.root, windows := [], peers := c.peers, dumpPolicy := c.dumpPolicy,
                                    porterHold := false, backing := [] }] }

/-- The descriptor with its tables, or the status of the call: the first cause in the order of R182. -/
def State.checkLaunch (s : State) (p : Process) (g0 : Grid) : Except String Grid :=
  let x := s.readVirtNat p g0.relayA.toNat 64
  let bounds := s.readBounds p (g0.field 0x068 8)
  let trees := s.readTrees p (g0.field 0x080 8)
  let nodes := (List.range g0.nnode).map fun i => s.readVirtNat p (g0.field 0x078 8 + 32 * i) 32
  match g0.fieldsOk && (g0.relayA == 0 || relayOk x), bounds, trees with
  | true, some bs, some (rs, ps) =>
    if !nodes.all (nodeOk g0.ngrp) then .error "BAD_NODE"
    else if !(List.range g0.nafter).all (fun i => s.afterOk g0.pid (g0.after i)) then .error "BAD_AFTER"
    else if s.tooLarge p g0 then .error "TOO_LARGE"
    else if s.queued g0.pid g0.queue ≥ 256 then .error "QUEUE_FULL"
    else
      .ok { g0 with bounds := bs, nodes := nodes.map parseNode, routers := rs, ports := ps,
                    relay := if g0.relayA = 0 then none else some (parseRelay x g0.entry) }
  | _, _, _ => .error "BAD_DESCRIPTOR"

/-- The tables that the call reads: a word of them that is uncorrectable is a consumed error (R146). -/
def State.noteTables (s : State) (p : Process) (g : Grid) : State :=
  let reads : List (Nat × Nat) :=
    (if g.relayA = 0 then [] else [(g.relayA.toNat, 64)]) ++ (if g.field 0x068 8 = 0 then [] else [(g.field 0x068 8, 512)]) ++
    (if g.field 0x080 8 = 0 then [] else [(g.field 0x080 8, 16 + 16 * (s.readVirtNat p (g.field 0x080 8) 2))]) ++
    (if g.nnode = 0 then [] else [(g.field 0x078 8, 32 * min g.nnode 256)])
  reads.foldl (fun s x => s.noteVirt p x.1 x.2) s

/-- The launch call answers the new grid's identifier, or a status with nothing launched. -/
def State.launch (s0 : State) (c : LaunchCall) (place : List (Nat × Nat)) : State :=
  let s := s0.callProcess c
  match s.proc? c.pid with
  | none => s
  | some p =>
    let g0 := newGrid s.nextGid c place
    let checked := s.checkLaunch p g0
    let s := s.noteTables p g0
    match checked with
    | .error e => s.say e []
    | .ok g => { s with grids := s.grids ++ [g], nextGid := s.nextGid + 1 }.say "LAUNCH" [g.gid]

/-- LAUNCH (R182): Serai's call, once the boot image runs. -/
def execLaunch (c : LaunchCall) (s : State) : Out := .next <| if s.hub.booted then s.launch c [] else s

end Sys2Proof.Machine
end

