-- ==== Sys2Proof/Machine/Admission.lean ====
section
/-! DEFINITION. Admission (spec/08 R183, R185, R187 to R190, R194; spec/02 R45, R46; spec/03 R51, R52, R69; spec/06 R130; spec/07 R171,
R172, R178, R179; spec/13 R237, R240, R253; spec/15 R260, R261, R269; spec/12 R232, R233; R258, R299): what a core can take, the order in
which work is offered, and how blocks, node batches, proposals and estate handlers enter. -/

namespace Sys2Proof.Machine

open Sys2Proof

/-! ### What a core holds (R190, R51, R130, R20) -/

/-- Blocks that take resources of a core. -/
def State.onCore (s : State) (core : Nat) : List Block := s.blocks.filter fun b => b.core == core && b.resident && !b.complete

/-- A conveyance of the team has begun and not ended: the team's resources are not yet freed (R42, R267). -/
def State.conveyed (s : State) (t : Team) : Bool := (s.gridOf t).any fun g => g.conveying.any fun c => c.team == t.uid

/-- Teams in quadrant slots of a core. -/
def State.slotTeams (s : State) (core : Nat) : List Team :=
  let bs := (s.onCore core).map Block.uid
  s.teams.filter fun t => (t.cause == 0 || s.conveyed t) && bs.contains t.blk

def sumOf (l : List Nat) : Nat := l.foldl (· + ·) 0

/-- What a block asks of its core. -/
structure Ask where
  teams : Nat
  ntile : Nat
  nacc : Nat
  scrsz : Nat
  deriving DecidableEq, Repr

def Grid.askBlock (g : Grid) : Ask := { teams := g.teams, ntile := g.ntile, nacc := g.nacc, scrsz := g.scrsz }

/-- A node batch, a proposal batch or an estate handler (R194, R269). -/
def Grid.askTeam (g : Grid) : Ask := { teams := 1, ntile := 0, nacc := 0, scrsz := g.scrsz }

/-- What the blocks of a core use. -/
def State.used (s : State) (core : Nat) : Ask :=
  let bs := s.onCore core
  { teams := (s.slotTeams core).length, ntile := sumOf (bs.map Block.ntile), nacc := sumOf (bs.map Block.nacc), scrsz := sumOf (bs.map Block.scrsz) }

/-- How many such blocks the core can take beside n blocks that use u. -/
def State.capacityBeside (s : State) (core n : Nat) (u a : Ask) : Nat :=
  let left (size used k : Nat) : Nat := if k = 0 then 16 else (size - used) / k
  min (16 - n) (min (left 64 u.teams a.teams) (min (left 16 u.ntile a.ntile)
    (min (left 8 u.nacc a.nacc) (left (0x200000 - (s.coreAt core).contribution) u.scrsz a.scrsz))))

/-- How many such blocks the core can still take. -/
def State.capacity (s : State) (core : Nat) (a : Ask) : Nat := s.capacityBeside core (s.onCore core).length (s.used core) a

/-- How many such blocks the core could take once a block that asks for x has entered. -/
def State.capacityAfter (s : State) (core : Nat) (x a : Ask) : Nat :=
  let u := s.used core
  s.capacityBeside core ((s.onCore core).length + 1)
    { teams := u.teams + x.teams, ntile := u.ntile + x.ntile, nacc := u.nacc + x.nacc, scrsz := u.scrsz + x.scrsz } a

/-- The grid's token floor can be granted on the die (R199): the floors sum to at most half the refill in force. -/
def State.floorFits (s : State) (g : Grid) (die : Nat) : Bool :=
  let fs := s.floorsOn die
  g.tfloor == 0 || 2 * ((sumOf (fs.map Prod.snd) + (if fs.any fun x => x.1 == g.gid then 0 else g.tfloor) : Nat) : Int) ≤ s.refill

/-- The grid has had a block on the die, and holds its entries of the die's routers (R299). -/
def State.hasDie (s : State) (gid die : Nat) : Bool := s.blocks.any fun b => b.gid == gid && b.die == die

/-- Tree entries of a grid at a core of a die. -/
def Grid.entriesAt (g : Grid) (die core : Nat) : Nat :=
  (g.routers.filter fun r => r.die == die && r.core == core).length + (g.ports.filter fun p => p.die == die && p.core == core).length

/-- Every router of the die has room for the grid's entries: 64 each over all grids that hold theirs. -/
def State.routersFit (s : State) (g : Grid) (die : Nat) : Bool :=
  (g.routers.isEmpty && g.ports.isEmpty) || s.hasDie g.gid die ||
    (List.range 144).all fun c =>
      g.entriesAt die c == 0 ||
        g.entriesAt die c + sumOf ((s.grids.filter fun h => !h.done && s.hasDie h.gid die).map fun h => h.entriesAt die c) ≤ 64

/-- The Innkeeper of the core admits a block of the grid (R190). -/
def State.admits (s : State) (g : Grid) (core : Nat) (a : Ask) : Bool :=
  core < 576 && s.capacity core a ≥ 1 && s.floorFits g (dieOf core) && s.routersFit g (dieOf core)

/-! ### What may enter (R183, R185, R172, R189, R232) -/

/-- One start-after entry is met for block b. -/
def State.afterMet (s : State) (b e : Nat) : Bool :=
  match s.grid? (afterGrid e) with
  | none => true
  | some h =>
    h.done || (match afterKind e with
      | 0 => h.completions.length ≥ h.count
      | 1 => h.completions.contains (afterBlock e)
      | _ => h.completions.contains (min b (h.count - 1)))

/-- Earlier grids of the queue have had their first block admitted. -/
def State.queueTurn (s : State) (g : Grid) : Bool :=
  s.grids.all fun h => h.pid != g.pid || h.queue != g.queue || h.gid ≥ g.gid || h.admitted != 0 || h.done

/-- The cores of a gang grid can take all its blocks at once. -/
def State.gangFits (s : State) (g : Grid) : Bool :=
  let room (c : Nat) : Nat := if s.admits g c g.askBlock then s.capacity c g.askBlock else 0
  let named (c : Nat) : Nat := (g.place.filter fun x => x.2 == c).length
  (List.range 576).all (fun c => named c ≤ room c) &&
    g.count - g.place.length ≤ sumOf ((List.range 576).map fun c => room c - named c)

/-- A gang grid whose blocks are being admitted, or resumed: it has reserved the cores for them (R189, R46). -/
def State.entering (s : State) : Option Nat :=
  (s.grids.find? fun g =>
    let bs := s.blocks.filter fun b => b.gid == g.gid && !b.complete && b.index < g.count && b.shadowOf.isNone
    g.gang && !g.done && ((g.admitted != 0 && g.admitted < g.count) ||
      (bs.any (fun b => b.resident) && bs.any (fun b => !b.resident) && !bs.any fun b => b.preempting))).map Grid.gid

/-- Only the gang that is entering is admitted to anything. -/
def State.unreserved (s : State) (gid : Nat) : Bool :=
  match s.entering with
  | some x => x == gid
  | none => true

/-- Blocks that start together with the grid's next fresh block: all of a gang grid, which reserves their cores in one step (R189). -/
def Grid.dueBlocks (g : Grid) : List Nat := if g.gang && g.admitted = 0 then List.range g.count else [g.admitted]

/-- The grid's next fresh block may start, apart from room for it: its start-after entries are met, and those of the blocks that start
with it. -/
def State.freshDue (s : State) (g : Grid) : Bool :=
  !g.done && g.admitted < g.count && s.queueTurn g && (g.dueBlocks.all fun b => (List.range g.nafter).all fun i => s.afterMet b (g.after i))

/-- The grid's next fresh block can enter on the core. A block of a gang leaves each core the room that the later blocks named for it
need (R189, R232). Of two cores that `place=` names for one block, it enters on the first, and room is kept on both (DESIGN CHOICE, log 26). -/
def State.freshFits (s : State) (g : Grid) (core : Nat) : Bool :=
  let b := g.admitted
  let named := (g.place.filter fun x => x.2 == core && b < x.1).length
  s.freshDue g && (match g.place.lookup b with | some c => c == core | none => true) && s.admits g core g.askBlock &&
    (!g.gang || (named < s.capacity core g.askBlock && (s.entering == some g.gid || s.gangFits g)))

/-- A gang grid waits for cores: its first block may start, and they cannot all be reserved (R189). -/
def State.gangWaits (s : State) (g : Grid) : Bool := g.gang && g.admitted == 0 && s.freshDue g && !s.gangFits g

/-- A block of grid g on the die would leave no room for the token floor of grid h, or for its routers, where there is room now. -/
def State.crowds (s : State) (g h : Grid) (die : Nat) : Bool :=
  let fs := s.floorsOn die
  let has (k : Grid) : Bool := fs.any fun x => x.1 == k.gid
  let after : Nat := sumOf (fs.map Prod.snd) + (if has g then 0 else g.tfloor) + (if has h then 0 else h.tfloor)
  (h.tfloor != 0 && s.floorFits h die && decide ((2 * (after : Int)) > s.refill)) ||
  (s.routersFit h die && !s.hasDie h.gid die && !s.hasDie g.gid die && (List.range 144).any fun c =>
    h.entriesAt die c != 0 &&
      decide (64 < h.entriesAt die c + g.entriesAt die c + sumOf ((s.grids.filter fun k => !k.done && s.hasDie k.gid die).map fun k => k.entriesAt die c)))

/-- Work of grid g that asks for x takes room on the core, or on its die, that a waiting gang grid of higher priority could use: it
blocks the reservation, and is not admitted (R189; log 26). -/
def State.blocksGang (s : State) (g : Grid) (core : Nat) (x : Ask) : Bool :=
  s.grids.any fun h => decide (h.prio > g.prio) && s.gangWaits h &&
    (decide (s.capacityAfter core x h.askBlock < s.capacity core h.askBlock) || s.crowds g h (dieOf core))

/-- The sampled originals of the grid whose shadow is due. -/
def State.shadowsDue (s : State) (g : Grid) : List Block :=
  s.blocks.filter fun b => b.gid == g.gid && b.sampled && !(s.blocks.any fun x => x.shadowOf == some b.uid)

/-- A shadow that is due can enter on the core, which is not its original's (R179). -/
def State.shadowFits (s : State) (g : Grid) (o : Block) (core : Nat) : Bool := core != o.core && s.admits g core g.askBlock

/-- The team has a core's matrix unit, or had it when its block was pre-empted (R179, R280). -/
def Team.holdsMatrix (t : Team) : Bool := t.shadowUnit || t.estate.toList.any fun e => e.kind == 3

/-- A pre-empted block of the grid can resume on the core (R54, R172); the matrix unit that one of its teams holds must be free
there, and its teams' slots and the rest as at admission. -/
def State.resumeFits (s : State) (g : Grid) (b : Block) (core : Nat) : Bool :=
  let live := (s.teamsOf b.uid).filter fun t => t.cause == 0
  let holds := live.any Team.holdsMatrix
  b.gid == g.gid && !b.resident && !b.complete && !b.preempting && b.die == dieOf core &&
    (!holds || (s.coreAt core).reservation.isNone) && core < 576 &&
    s.capacity core { teams := live.length, ntile := b.ntile, nacc := b.nacc, scrsz := b.scrsz } ≥ 1 && s.floorFits g (dieOf core) &&
    (!g.ordered || b.index ≥ g.count || s.blocks.all fun x => x.gid != g.gid || x.resident || x.complete || x.index ≥ b.index || x.shadowOf.isSome)

/-- A gang grid resumes only when its dies can take all its pre-empted blocks. -/
def State.gangResumes (s : State) (g : Grid) : Bool :=
  (List.range 4).all fun d =>
    let want := (s.blocks.filter fun b => b.gid == g.gid && b.die == d && !b.resident && !b.complete).length
    want ≤ sumOf ((List.range 144).map fun c => if s.floorFits g d then s.capacity (144 * d + c) g.askBlock else 0)

/-! ### Node, proposal and handler batches (R194, R253, R269) -/

/-- A pending batch of a grid: its node (the number after the last is the Relay's own) and slot, how it closed, the time of its
first record, its count, its number in closing order. -/
structure Batch where
  node : Nat
  slot : Nat
  byAge : Bool
  order : Nat
  count : Nat
  q : Nat
  deriving DecidableEq, Repr

def Grid.batches (g : Grid) : List Batch :=
  (g.nodes.zipIdx.flatMap fun (n, k) => n.slots.zipIdx.filterMap fun (x, i) =>
    match x with
    | .closed c a o q => some { node := k, slot := i, byAge := a, order := o, count := c, q := q }
    | _ => none) ++
  (match g.relay with
    | some r => r.closed.zipIdx.map fun (b, i) =>
        { node := g.nodes.length, slot := i, byAge := b.byAge, order := b.order, count := b.proposals.length, q := i }
    | none => [])

/-- Batch x goes before y. -/
def Batch.before (x y : Batch) : Bool :=
  if x.byAge && y.byAge then x.order < y.order
  else if x.byAge != y.byAge then x.byAge
  else x.count > y.count || (x.count == y.count && x.order < y.order)

/-- The grid's batch whose turn it is. -/
def Grid.firstBatch (g : Grid) : Option Batch :=
  g.batches.foldl (fun best x => match best with
    | some y => if x.before y then some x else some y
    | none => some x) none

/-- No batch of another grid of the priority that the core can take goes before the grid's batch x; two that neither goes before the
other go in the order of submission (R187, R194). -/
def State.batchTurn (s : State) (g : Grid) (x : Batch) (core : Nat) : Bool :=
  s.grids.all fun h => h.gid == g.gid || h.prio != g.prio || !s.admits h core h.askTeam ||
    match h.firstBatch with
    | none => true
    | some y => !y.before x && (x.before y || decide (g.gid < h.gid))

/-- A handler due may be admitted on the core. -/
def HandlerDue.mayGo (h : HandlerDue) (core : Nat) : Bool :=
  (match h.needCore with | some c => c == core | none => true) && (match h.needDie with | some d => d == dieOf core | none => true)

/-- No grid of the priority submitted earlier has an estate handler due that the core can take: handlers are admitted as node batches,
and between them, or a handler and a batch, R194 gives no order, so the earlier grid goes first (R187, R269). -/
def State.handlersBefore (s : State) (g : Grid) (core : Nat) : Bool :=
  s.grids.any fun h => h.gid < g.gid && h.prio == g.prio && s.admits h core h.askTeam && h.handlersDue.any fun x => x.mayGo core

/-- No batch of a grid of the priority submitted earlier waits for the core either. -/
def State.batchesBefore (s : State) (g : Grid) (core : Nat) : Bool :=
  s.grids.any fun h => h.gid < g.gid && h.prio == g.prio && s.admits h core h.askTeam && !h.batches.isEmpty

/-! ### The order of offers (R187) -/

/-- Whether the grid has work of a class for the core: 0 pre-empted blocks, 1 batches, 2 fresh blocks. -/
def State.hasWork (s : State) (g : Grid) (core cls : Nat) : Bool :=
  match cls with
  | 0 => s.blocks.any fun b => s.resumeFits g b core && (!g.gang || s.entering == some g.gid || s.gangResumes g)
  | 1 => s.admits g core g.askTeam && (!g.batches.isEmpty || g.handlersDue.any fun h => h.mayGo core)
  | _ => s.freshFits g core || (s.shadowsDue g).any fun o => s.shadowFits g o core

/-- The core is offered to work of a class of the grid: the core has nothing to offer first to a higher priority, to an earlier
class of its own, or, among pre-empted or fresh blocks, to a grid submitted earlier; and what it asks for does not block a waiting
gang's reservation (R189). -/
def State.offered (s : State) (g : Grid) (core cls : Nat) : Bool :=
  s.unreserved g.gid && !s.blocksGang g core (if cls = 1 then g.askTeam else g.askBlock) &&
  (s.entering.isSome || s.grids.all fun h =>
    (List.range 3).all fun k =>
      let first := h.prio > g.prio || (h.prio == g.prio && (k < cls || (k == cls && cls != 1 && h.gid < g.gid)))
      !first || !s.hasWork h core k)

/-! ### Regions that the launch manager assigns (R52, R128, R238) -/

def noOverlap (l : List (Nat × Nat)) : Bool :=
  match l with
  | [] => true
  | x :: rest => rest.all (fun y => x.1 + x.2 ≤ y.1 || y.1 + y.2 ≤ x.1) && noOverlap rest

/-- Regions of the images that exist in a process; those of ended teams are the launch manager's again (R56). -/
def State.regions (s : State) (pid : Nat) : List (Nat × Nat) :=
  let mine (gid : Nat) : Option Grid := (s.grid? gid).filter fun g => g.pid == pid
  ((s.teams.filter s.keepsImage).flatMap fun t =>
    match mine t.gid with
    | some g =>
      (t.imga.toNat, 0x91000) :: (t.spillBase.toNat, 32768 * t.ngrp) ::
        t.real.threads.map fun th => (th.cv.loga.toNat, 0x140 + 16 * g.cvcap)
    | none => []) ++
  s.blocks.flatMap fun b =>
    if (mine b.gid).isSome && !b.complete then
      (b.bimga.toNat, 0x51000) :: if b.saveAssigned then [(b.saveBase.toNat, b.scrsz)] else []
    else []

/-- Every page of a region that the process's tables map lies in near memory of one of the dies (R52, R128, R133, R213, R238; log 16). -/
def State.nearOn (s : State) (pr : Process) (dies : List Nat) (r : Nat × Nat) : Bool :=
  (List.range ((r.1 % 4096 + r.2 + 4095) / 4096)).all fun i =>
    match s.engineAddr pr .load (r.1 - r.1 % 4096 + 4096 * i) with
    | .ok pa => dies.contains (pa / 0x2000000000)
    | .error _ => true

/-- The regions of a placement: block image, images, spill regions, logs. -/
def Grid.placeRegions (g : Grid) (ngrp : Nat) (p : Placement) : List (Nat × Nat) :=
  ((p.bimga.toNat, 0x51000) :: p.imgas.map fun a => (a.toNat, 0x91000)) ++
    (p.spills.map fun a => (a.toNat, 32768 * ngrp)) ++ (p.logs.map fun a => (a.toNat, 0x140 + 16 * g.cvcap))

/-- The places assigned to n teams of G groups on a core: aligned, apart from one another and from the images of the process, and in
near memory of the core's die. -/
def State.placeOk (s : State) (g : Grid) (core n ngrp : Nat) (p : Placement) : Bool :=
  p.imgas.length == n && p.spills.length == n && p.logs.length == n * 32 * ngrp && (p.bimga :: p.imgas).all (fun a => a.toNat % 4096 == 0) &&
    p.logs.all (fun a => a.toNat % 64 == 0) && (p.bimga :: (p.imgas ++ p.spills ++ p.logs)).all canonical &&
    noOverlap (g.placeRegions ngrp p ++ s.regions g.pid) &&
    match s.proc? g.pid with
    | some pr => (g.placeRegions ngrp p).all fun r => s.nearOn pr [dieOf core] r
    | none => true

/-- The save areas assigned to blocks that have none yet: SCRSZ bytes of near memory each, apart from the images of the process (R213). -/
def State.savesOk (s : State) (g : Grid) (bs : List Block) (saves : List (Nat × Double)) : Bool :=
  let new := bs.filter fun b => !b.saveAssigned
  let rs := new.filterMap fun b => (saves.lookup b.uid).map fun a => (a.toNat, b.scrsz)
  rs.length == new.length && (new.all fun b => (saves.lookup b.uid).all canonical) && noOverlap (rs ++ s.regions g.pid) &&
    match s.proc? g.pid with
    | some pr => rs.all fun r => s.nearOn pr [0, 1, 2, 3] r
    | none => true

/-! ### Entering (R69, R190, R260) -/

/-- Of a core that holds these teams, the quadrant with the most free slots, the lowest on a tie. -/
def quadFor (ts : List Team) : Nat :=
  let load (q : Nat) : Nat := (ts.filter fun t => t.quad == q).length
  (List.range 4).foldl (fun best q => if load q < load best then q else best) 0

/-- The lowest free team slot (log 26). -/
def slotFor (ts : List Team) : Nat :=
  let used := ts.map Team.slot
  ((List.range 64).find? fun k => !used.contains k).getD 0

/-- The next team tag of a grid that no team not yet ended has, and never 0. -/
def nextTagFrom (used : List Word) : Nat → Word → Word
  | 0, t => t
  | n + 1, t => if t = 0 || used.contains t then nextTagFrom used n (t + 1) else t

/-- Takes a tag from the grid's counter (R260). -/
def State.takeTag (s : State) (gid : Nat) : Word × State :=
  match s.grid? gid with
  | none => (0, s)
  | some g =>
    let used := ((s.teams.filter fun t => t.gid == gid && t.cause == 0).map Team.tag) ++ g.handlersDue.map HandlerDue.tag
    let t := nextTagFrom used (used.length + 2) g.nextTag
    (t, s.modGrid gid fun g => { g with nextTag := t + 1 })

/-- Choice-vector state at team entry (R237). -/
def entryChoice (g : Grid) (stream loga : Double) : ChoiceState :=
  { ChoiceState.zero with
    stream := stream, loga := loga, cap := BitVec.ofNat 16 g.cvcap, sta := if g.cvmode = 1 then 1#8 <<< staSEQ else 0 }

/-- What a team brings to its entry. -/
structure Entry where
  kind : TeamKind
  tix : Nat
  tag : Word
  ngrp : Nat
  pc : Double
  imga : Double
  spill : Double
  logs : List Double
  stream : Nat → Double

/-- A team at entry with the registers of R69, in block b on its core. -/
def Grid.entryTeam (g : Grid) (b : Block) (uid quad slot : Nat) (e : Entry) : Team :=
  let lo (x : Double) : Word := x.setWidth 32
  let hi (x : Double) : Word := x.extractLsb' 32 32
  let s0 := [(0, lo g.param), (1, hi g.param), (2, BitVec.ofNat 32 b.index), (3, BitVec.ofNat 32 e.tix), (4, BitVec.ofNat 32 g.count)].foldl
    (fun v x => vput v x.1 x.2) (Vector.replicate 64 (0 : Word))
  { uid := uid, gid := g.gid, blk := b.uid, kind := e.kind, tix := e.tix, tag := e.tag, core := b.core, quad := quad, slot := slot,
    imga := e.imga, ngrp := e.ngrp, nvec := g.nvec, nscal := g.nscal, pc := e.pc, mode := 0, cause := 0, mask := fullMask e.ngrp,
    threads := (List.range (32 * e.ngrp)).map fun h =>
      let th := Thread.entry h
      { th with v := vput th.v 0 (BitVec.ofNat 32 (e.tix * 32 * e.ngrp + h)), cv := entryChoice g (e.stream h) (e.logs[h]?.getD 0) },
    s := s0, stack := [], rq := Vector.replicate 8 .free, frame := .zero, estate := Vector.replicate 32 (.free (if g.heirDef then 2 else 1)),
    ssp := e.spill, sspImage := e.spill, spillBase := e.spill, spill := [], auxDirty := 0, fDirty := 0, dirty := 0,
    tags := entryTags g.nvec e.ngrp, absent := 0, auxAbsent := 0, fAbsent := 0, image := entryImage e.tix e.ngrp, mapWritten := [],
    storeQ := [], inflight := [], recent := [], run := .ready, replay := [], resumed := false, atomrN := 0, openBatch := [], batches := [],
    batchCount := 0, peerCopies := [], outSums := [], gbarGen := 0, waitEntry := .free, waitRte := none, sysc := .idle, tokenWait := none, shadowUnit := false, insn := 0, passes := 0, tokw := 0,
    rcmiss := 0, split := 0, cbytes := 0, aside := none, header := [], fatal := [], stop := none, grant := false, passBreak := none, since := 0,
    lastWords := [], focus := none, history := [], issuedN := 0, exitChecked := false, preempted := false, mustFinish := none, faultAt := none }

/-- A block as it enters a core: scratchpad, accumulators and flags 0 (R130, R74, R63). -/
def Grid.entryBlock (g : Grid) (uid index core : Nat) (a : Ask) (p : Placement) : Block :=
  { uid := uid, gid := g.gid, index := index, core := core, die := dieOf core, bimga := p.bimga, scrsz := a.scrsz, ntile := a.ntile,
    nacc := a.nacc, scratch := [], sdirty := [], tfull := 0, loaded := 0, tiles := [], strays := [], accs := [], mflags := 0, image := .none,
    saveArea := [], saveBase := 0, saveAssigned := false, jobs := [], nextJob := 0, published := false, resident := true,
    preempting := false, saving := false, resuming := false, complete := false, sampled := false, shadowOf := none, privDevice := [], privCommons := [], digest := 0,
    digestDone := false, mismatch := false }

/-- Adds a team, which goes to the quadrant with the most free slots, and its first acquire at system scope (R171). -/
def State.enter (s : State) (g : Grid) (b : Block) (e : Entry) (f : Team → Team) : State :=
  let t := f (g.entryTeam b s.nextUid (quadFor (s.slotTeams b.core)) (slotFor (s.slotTeams b.core)) e)
  ({ s with teams := s.teams ++ [t], nextUid := s.nextUid + 1 }).acquire b.core 5

/-- Adds a block and answers it. -/
def State.addBlock (s : State) (g : Grid) (index core : Nat) (a : Ask) (p : Placement) (f : Block → Block) : Block × State :=
  let b := f (g.entryBlock s.nextUid index core a p)
  (b, { s with blocks := s.blocks ++ [b], nextUid := s.nextUid + 1 })

/-! ### Breakpoints and watchpoints held until admission (R233, R258, R284) -/

/-- The lowest free instruction breakpoint of a core. -/
def CoreState.freeBreak (c : CoreState) : Option Nat := c.breaks.toList.findIdx? Option.isNone

/-- Writes a breakpoint of the grid on a core, once; without a free one xanori says so. -/
def State.writeBreak (s : State) (gid core : Nat) (addr : Double) (bcast : BitVec 2) : State :=
  let c := s.coreAt core
  let b : Breakpoint := { addr := addr, gid := gid, bcast := bcast }
  if c.breaks.toList.contains (some b) then s
  else
    match c.freeBreak with
    | some k => s.modCore core fun c => { c with breaks := vput c.breaks k (some b) }
    | none => s.say "refused: no free breakpoint on core" [core]

/-- The lowest watchpoint of a core whose EN is 0. -/
def State.freeWatch (s : State) (core : Nat) : Option Nat := (List.range 4).find? fun k => !(Table.get s.watches (4 * core + k)).getLsbD 0

/-- Writes a watch command's value, for the grid, to the lowest free watchpoint of its home core. -/
def State.writeWatch (s : State) (gid core : Nat) (v : BitVec 128) : State :=
  match s.freeWatch core with
  | some k =>
    { s with
      watches := Table.set s.watches (4 * core + k) v,
      watchGrids := (4 * core + k, gid) :: s.watchGrids.filter fun x => x.1 != 4 * core + k }.say "watch" [core, k]
  | none => s.say "refused: no free watchpoint on core" [core]

/-- What xanori writes when work of the grid enters a core, before its teams issue. -/
def State.writeHeld (s : State) (g : Grid) (core : Nat) : State :=
  let s := (g.heldBreaks.filter fun x => x.core.isNone || x.core == some core).foldl (fun s x => s.writeBreak g.gid core x.addr x.bcast) s
  (g.heldWatches.foldl (fun s x => s.writeWatch g.gid (x.1.getD core) x.2) s).modGrid g.gid fun g => { g with heldWatches := [] }

/-! ### Blocks (R187, R178, R179) -/

/-- sampled(seed, b) of R178. -/
def sampledBlock (seed : Double) (b : Nat) : Bool :=
  (mix64 (seed ^^^ (BitVec.ofNat 64 b * 0xA24BAED4963EE407#64))).extractLsb' 0 10 == 0

/-- Team ti of a block of the grid. -/
def State.enterGridTeam (s : State) (g : Grid) (b : Block) (p : Placement) (ti : Nat) : State :=
  let n := 32 * g.ngrp
  let (tag, s) := if b.shadowOf.isSome then (0, s) else s.takeTag g.gid
  s.enter g b
    { kind := .grid, tix := ti, tag := tag, ngrp := g.ngrp, pc := g.entry, imga := p.imgas[ti]?.getD 0, spill := p.spills[ti]?.getD 0,
      logs := (p.logs.drop (ti * n)).take n, stream := fun h => g.cvbase + BitVec.ofNat 64 (g.threadIndex b.index ti h) } id

def State.enterTeams (s : State) (g : Grid) (b : Block) (p : Placement) : State :=
  (List.range g.teams).foldl (fun s ti => s.enterGridTeam g b p ti) s

/-- A fresh block enters. -/
def State.admitBlock (s : State) (g : Grid) (core : Nat) (p : Placement) : State :=
  let s := s.writeHeld g core
  let ix := g.admitted
  let (b, s) := s.addBlock g ix core g.askBlock p fun b => { b with sampled := g.ordered && sampledBlock g.seed ix }
  (s.enterTeams g b p).modGrid g.gid fun g => { g with admitted := ix + 1 }

/-- The shadow of a sampled block enters, on another core. -/
def State.admitShadow (s : State) (g : Grid) (o : Block) (core : Nat) (p : Placement) : State :=
  let s := s.writeHeld g core
  let (b, s) := s.addBlock g o.index core g.askBlock p fun b => { b with shadowOf := some o.uid }
  s.enterTeams g b p

/-- The sampled original of an index that has no shadow yet. -/
def State.shadowDue (s : State) (g : Grid) (index : Nat) : Option Block := (s.shadowsDue g).find? fun b => b.index == index

/-- BLOCK_ADMISSION (R187): the grid's next fresh block, or the shadow of a sampled one. -/
def execBlockAdmission (gid block core : Nat) (p : Placement) (s : State) : Out :=
  .next <| match s.grid? gid with
  | none => s
  | some g =>
    if !s.placeOk g core g.teams g.ngrp p || !s.offered g core 2 then s
    else if block = g.admitted then (if s.freshFits g core then s.admitBlock g core p else s)
    else
      match s.shadowDue g block with
      | some o => if s.shadowFits g o core then s.admitShadow g o core p else s
      | none => s

/-! ### Batches -/

/-- Lanes at or above the count are exited at entry. -/
def Team.enterLanes (t : Team) (count : Nat) : Team :=
  { t with threads := t.threads.zipIdx.map (fun (th, h) => if h < count then th else { th with life := .exitedAtEntry }),
           mask := maskMinus t.mask (maskOf ((List.range (32 * t.ngrp)).drop count)) }

def Team.setScalars (t : Team) (l : List (Nat × Word)) : Team := { t with s := l.foldl (fun v x => vput v x.1 x.2) t.s }

/-- A node batch enters (R194). -/
def State.admitNode (s : State) (g : Grid) (n : Node) (x : Batch) (core : Nat) (p : Placement) : State :=
  let ix := 0x80000000 + x.node
  let (b, s) := (s.writeHeld g core).addBlock g ix core g.askTeam p id
  let (tag, s) := s.takeTag g.gid
  let slotA := BitVec.ofNat 64 (n.recordAt x.slot 0)
  let base := g.cvbase + BitVec.ofNat 64 (2 ^ 63 + x.node * 2 ^ 40 + x.q * 2 ^ 10)
  (s.enter g b
    { kind := .node x.node x.slot, tix := 0, tag := tag, ngrp := g.ngrp, pc := n.entry, imga := p.imgas.headD 0, spill := p.spills.headD 0,
      logs := p.logs, stream := fun h => base + BitVec.ofNat 64 h }
    fun t => (t.enterLanes x.count).setScalars
      [(0, slotA.setWidth 32), (1, slotA.extractLsb' 32 32), (2, BitVec.ofNat 32 ix), (3, 0), (4, BitVec.ofNat 32 x.count)]).modGrid g.gid
    fun g => { g with nodes := modifyAt g.nodes x.node fun n => { n with slots := n.slots.set x.slot (.running x.count) } }

/-- The choice-vector state of a proposal lane (R253). -/
def Proposal.choice (q : Proposal) (c : ChoiceState) : ChoiceState :=
  { c with
    source := q.source.zipIdx.foldl (fun t (e, i) => Table.set t i e) [], sn := BitVec.ofNat 16 q.source.length,
    rn := BitVec.ofNat 16 q.source.length, gen := BitVec.ofNat 32 q.step, sta := c.sta ||| (1#8 <<< staPROP), chain := BitVec.ofNat 32 q.chain }

/-- The lanes of a proposal team: v0 the chain, v1 the step. The new image holds their lines in the forms that R61 chooses. -/
def Team.enterProposals (t : Team) (qs : List Proposal) : Team :=
  let t1 := { t with threads := t.threads.zipIdx.map fun (th, h) =>
      match qs[h]? with
      | some q => { th with v := vput (vput th.v 0 (BitVec.ofNat 32 q.chain)) 1 (BitVec.ofNat 32 q.step), cv := q.choice th.cv }
      | none => th }
  (List.range t.ngrp).foldl (fun t g => (t.packSlot g).packSlot (32 + g)) t1

/-- A batch of the Relay enters (R253). -/
def State.admitProposals (s : State) (g : Grid) (r : Relay) (x : Batch) (core : Nat) (p : Placement) : State :=
  let qs := ((r.closed[x.slot]?).map ProposalBatch.proposals).getD []
  let (b, s) := (s.writeHeld g core).addBlock g 0xC0000000 core g.askTeam p id
  let (tag, s) := s.takeTag g.gid
  let uid := s.nextUid
  (s.enter g b
    { kind := .proposal x.slot, tix := 0, tag := tag, ngrp := g.ngrp, pc := r.pentry, imga := p.imgas.headD 0, spill := p.spills.headD 0,
      logs := p.logs, stream := fun h => g.cvbase + BitVec.ofNat 64 ((qs[h]?.map Proposal.chain).getD 0) }
    fun t => ((t.enterLanes qs.length).enterProposals qs).setScalars [(2, 0xC0000000#32), (3, 0), (4, BitVec.ofNat 32 qs.length)]).modGrid g.gid
    fun g => { g with relay := g.relay.map fun r =>
                 { r with closed := r.closed.eraseIdx x.slot, running := r.running ++ [(uid, qs)] } }

/-- NODE_BATCH_ADMISSION (R187, R194): the batch of the grid whose turn it is. -/
def execNodeBatchAdmission (gid core : Nat) (p : Placement) (s : State) : Out :=
  .next <| match s.grid? gid with
  | none => s
  | some g =>
    if !s.placeOk g core 1 g.ngrp p || !s.offered g core 1 || !s.admits g core g.askTeam then s
    else
      match g.firstBatch with
      | none => s
      | some x =>
        if !s.batchTurn g x core || s.handlersBefore g core then s
        else match g.nodes[x.node]?, g.relay with
        | some n, _ => s.admitNode g n x core p
        | none, some r => s.admitProposals g r x core p
        | none, none => s

/-! ### Estate handlers (R269) -/

/-- The frame of a handler of a heirless holding. -/
def heirlessFrame (dead : Team) (h : HandlerDue) : TrapFrame :=
  { TrapFrame.zero with
    cause := 0x0E, detail := BitVec.ofNat 8 h.holding.kind.toNat, vaddr := h.holding.addr,
    info := BitVec.ofNat 64 (h.slot + dead.cause.toNat % 8 * 0x100) }

/-- The handler team's own values. -/
def Team.enterHandler (t : Team) (h : HandlerDue) (dead : Team) : Team :=
  let lo (x : Double) : Word := x.setWidth 32
  let hi (x : Double) : Word := x.extractLsb' 32 32
  { (t.enterLanes 1).setScalars
      [(2, 0xA0000000#32), (3, if h.heirless then 1 else 0), (4, dead.tag), (5, BitVec.ofNat 32 h.slot), (6, lo dead.imga), (7, hi dead.imga)] with
    estate := h.estate, frame := if h.heirless then heirlessFrame dead h else .zero }

/-- The matrix unit that a handler due holds is then held by its team. -/
def State.passUnit (s : State) (core old new : Nat) : State :=
  if (s.coreAt core).reservation == some old then s.modCore core fun c => { c with reservation := some new } else s

def State.admitHandler (s : State) (g : Grid) (h : HandlerDue) (dead : Team) (core : Nat) (p : Placement) : State :=
  let (b, s) := (s.writeHeld g core).addBlock g 0xA0000000 core g.askTeam p id
  let base := g.cvbase + BitVec.ofNat 64 (2 ^ 63 + 2 ^ 62 + g.handlers * 2 ^ 10)
  let s := s.passUnit core h.number s.nextUid
  (s.enter g b
    { kind := .handler h.dead, tix := 0, tag := h.tag, ngrp := 1, pc := g.esth, imga := p.imgas.headD 0, spill := p.spills.headD 0,
      logs := p.logs, stream := fun k => base + BitVec.ofNat 64 k }
    fun t => t.enterHandler h dead).modGrid g.gid
    fun g => { g with handlers := g.handlers + 1, handlersDue := g.handlersDue.filter fun x => x.number != h.number }

/-- ESTATE_HANDLER_ADMISSION (R269): as a node batch. -/
def execEstateHandlerAdmission (gid core : Nat) (p : Placement) (s : State) : Out :=
  .next <| match s.grid? gid with
  | none => s
  | some g =>
    if !s.placeOk g core 1 1 p || !s.offered g core 1 || !s.admits g core g.askTeam || s.handlersBefore g core || s.batchesBefore g core then s
    else
      match g.handlersDue.find? fun h => h.mayGo core with
      | none => s
      | some h =>
        match s.team? h.dead with
        | some dead => s.admitHandler g h dead core p
        | none => s

end Sys2Proof.Machine
end

