-- ==== Sys2Proof/Machine/ChoiceOps.lean ====
section
/-! DEFINITION. Class A, choice vectors (spec/13 R242 to R249, R257; R346, R352, R398). The draws and edits themselves stand in
Choice.lean. -/

namespace Sys2Proof.Machine

open Sys2Proof

/-- Class A ignores LUA and LUB (R245). -/
def Mods.noFrees (m : Mods) : Mods := { m with lua := false, lub := false }

/-- An instruction of class A that writes vd in each live lane; no helper lane executes it (R38). -/
def drawAlu (m : Mods) (c : Ctx) (d : Reg) (illegal : Bool) (reads : Option LogReads) (f : ChoiceState → Word × ChoiceState) : Alu :=
  { m := Mods.noFrees m, x := Srcs.none, dst := .v d.toNat false, lat := none, check := Check.operand (!illegal), fmt := modeType c.mode,
    f := fun pin p =>
      let r := f (pin.th p).cv
      { val := r.1.setWidth 64, flags := 0, cv := some r.2 },
    helps := false, logReads := reads }

/-- Where SOURCE[i] lies in a log region (R238). -/
def sourceOff (cap i : Nat) : Nat := 0x140 + 8 * cap + 8 * i

/-- What a draw at a site reads of its log region: SITES; the source entry of its ordinal, or those among which it looks for its key; and
the entry that its record entry is compared with (R241, R242, R249). -/
def drawReads (site : Nat) : LogReads := fun cap cv =>
  let occ := (ChoiceState.occurrence { cv with ord := cv.ord + 1 } site cv.ord).occ.toNat
  (List.range 8).map (32 * ·) ++
    (if cv.sta? staSEQ then (if cv.ord.toNat < cv.sn.toNat then [sourceOff cap cv.ord.toNat] else [])
      else if occ < 4096 then (List.range cv.sn.toNat).map (sourceOff cap) else []) ++
    (if cv.sta? staPROP && !cv.sta? staDIVD && cv.n.toNat < cv.rn.toNat then [sourceOff cap cv.n.toNat] else [])

/-- What CVSET reads of its log region: outside sequential mode, and with ACC 0, the source entries among which it looks for its key
(R246, R346). -/
def cvsetReads (key : Word) : LogReads := fun cap cv =>
  if key.getLsbD 31 || cv.sta? staSEQ then [] else (List.range cv.sn.toNat).map (sourceOff cap)

/-- Site of a draw: a holds bits [11:6], b bits [5:0] (R245). -/
def siteOf (a b : Reg) : Nat := a.toNat * 64 + b.toNat

/-- DRAW (R352). -/
def execDraw (m : Mods) (d a b : Reg) (s : State) : Out :=
  execAlu (.draw m d a b) s fun c _ _ => drawAlu m c d (siteOf a b ≥ 4093) (some (drawReads (siteOf a b))) fun cv =>
    let r := cv.drawRecorded (siteOf a b)
    (drawF32 r.1, r.2)

/-- DRAWI (R352). -/
def execDrawi (m : Mods) (d a b : Reg) (s : State) : Out :=
  execAlu (.drawi m d a b) s fun c _ _ =>
    drawAlu m c d (siteOf a b ≥ 4093) (some (drawReads (siteOf a b))) fun cv => cv.drawRecorded (siteOf a b)

/-- RBITS (R243). -/
def execRbits (m : Mods) (d : Reg) (s : State) : Out :=
  execAlu (.rbits m d) s fun c _ _ => drawAlu m c d false none ChoiceState.drawBits

/-- CVSTA (R245). -/
def execCvsta (m : Mods) (d : Reg) (s : State) : Out :=
  execAlu (.cvsta m d) s fun c _ _ => drawAlu m c d false none fun cv => (cv.status, cv)

/-- The passes of CVCFG and CVSET, the second of which reads the log region: a pass with a lane that `bad` names raises ILLEGAL_OPERAND and changes no lane (R246, R247). -/
def choicePasses (c : Ctx) (x : Srcs) (reads : Team → Nat → Nat → LogReads) (t : Team) (live : Mask) (s : State) (bad : Team → Nat → Nat → Bool)
    (f : Team → Nat → Nat → ChoiceState → ChoiceState) : State :=
  let tick := s.tick
  let pass (pa : PassArgs) (s : State) : PassEnd :=
    let hit := filterMask pa.live (bad pa.t tick)
    if hit != 0 then .stop (s.takeTrap c illegalOperand hit (some (c.capture pa.t tick x (pa.live ||| pa.rest))) c.next)
    else
      match s.consumeMask c pa.t pa.live x .none pa.rest (filterMask pa.live fun p => s.badLogs pa.t (reads pa.t tick p) (maskOne p) != 0) with
      | (s, none) => .stop s
      | (s, some (t, live)) =>
        .go (s.modTeam c.uid fun u => u.modLanes live fun th => { th with cv := f t tick th.pos th.cv }) pa.mine
  match runPasses c live x .none (fun _ _ => 0) pass (maskRows (c.lanes t ||| live)) none s with
  | .stop s => s
  | .go s _ => s.finish c c.next

/-- CVCFG (R247). -/
def execCvcfg (m : Mods) (l : LCvcfg) (s : State) : Out :=
  issue (.cvcfg m l) s fun c t s =>
    let cap := l.cap.toNat
    let top := ((s.gridOf t).map Grid.cvcap).getD 0
    checked true Srcs.none (Check.operand (16 ≤ cap && cap ≤ top && cap % 16 == 0)) (fun c t live s =>
      choicePasses c Srcs.none (fun _ _ _ _ _ => []) t live s (fun t _ p => (t.thread (t.home p)).cv.busy) fun _ _ _ cv => cv.cvcfg l.cap l.mode) c t s

/-- CVSET (R246). -/
def execCvset (m : Mods) (a b : Reg) (s : State) : Out :=
  issue (.cvset m a b) s fun c t s =>
    let x : Srcs := { a := .v a.toNat false, b := .v b.toNat false, d := .none }
    checked true x Check.none (fun c t live s =>
      let key (t : Team) (tick p : Nat) : Word := (c.read t tick x 0 p).setWidth 32
      choicePasses c x (fun t tick p => cvsetReads (key t tick p)) t live s (fun t tick p => (t.thread (t.home p)).cv.badKey (key t tick p)) fun t tick p cv =>
        cv.cvset (key t tick p) ((c.read t tick x 1 p).setWidth 32)) c t s

/-- A mutation descriptor that RLCH refuses (R257). -/
def badMutation (x : Nat) : Bool := bitsOf x 3 0 ≥ 5 || bitsOf x 111 6 != 0

/-- The cause that RLCH's descriptor raises at issue, checks 2 to 4 of R257. -/
def Block.mutationFault (b : Block) (off : Nat) : Option TrapInfo :=
  match b.scratchCheck off 32 32 with
  | some ti => some ti
  | none => if badMutation (b.formatAt off) then some illegalOperand else none

/-- RLCH (R257): the descriptor is read and checked once, with the word (R78), before any lane changes; where no lane is live, the running
mask stands for the lanes that pass the guard (log 45). -/
def execRlch (m : Mods) (a : Reg) (s : State) : Out :=
  issue (.rlch m a) s fun c t s =>
    let x := scalars (some a) none
    let basic := ((s.gridOf t).bind Grid.relay).any fun r => r.level == 0
    let fault : Option TrapInfo :=
      if basic || !x.ok t then none
      else ((s.release c.uid).blockOf t).bind fun b => b.mutationFault (c.readTeam t s.tick x 0).toNat
    checked true x { Check.operand (!basic) with extra := fault } (fun c t live s =>
      let s := s.release c.uid
      s.withBlock t fun b =>
        let off := (c.readTeam t s.tick x 0).toNat
        let s := s.watchScratch c t (if live = 0 then c.lanes t else live) off 32
        (s.modTeam c.uid fun u => (u.passed (maskRows (c.lanes t ||| live)).length).modLanes live fun th =>
          { th with cv := { th.cv with pending := BitVec.ofNat 256 (b.formatAt off), rwc := th.cv.rwc ||| 0x80 } }).finish c c.next) c t s

end Sys2Proof.Machine
end

