-- ==== Sys2Proof/Machine/Faults.lean ====
section
/-! DEFINITION. What comes to faults and errors from outside the core: Serai's resolutions and mappings (spec/06 R132, R139, R143,
R144; R32, R208, R219), patrol reads and soft errors (R145 to R147, R209). -/

namespace Sys2Proof.Machine

open Sys2Proof

/-! ### Resolutions (R143) -/

/-- The process of an entry's grid holds the Porter back (R219). -/
def State.held (s : State) (f : FaultEntry) : Bool :=
  ((s.grid? f.grid.toNat).bind fun g => s.proc? g.pid).any Process.porterHold

/-- Writes STATUS to the pending entry of an index; its place in the order of resolutions is the clock's. -/
def State.resolveFault (s : State) (die idx : Nat) (status : BitVec 2) : State :=
  if (s.dieAt die).faults.any fun f => f.index.toNat == idx && f.status == 0 then
    { s.modDie die fun d => { d with faults := d.faults.map fun f =>
        if f.index.toNat = idx && f.status = 0 then { f with status := status, order := s.clock } else f } with clock := s.clock + 1 }
  else s

/-! ### Pages that Serai maps and evicts (R219, R220, R137) -/

/-- A virtual page's number. -/
def pageNumber (va : Nat) : Nat := va % 2 ^ 57 / 4096

/-- Where the level-0 entry of an address stands, when the levels above it lead to one. -/
def State.leafSlotFrom (s : State) (va : Nat) : Nat → Nat → Option Nat
  | 0, _ => none
  | level + 1, t =>
    let a := t + 8 * bitsOf va (20 + 9 * level) (12 + 9 * level)
    let e := Memory.readNat s.mem a 8
    if level = 0 then some a
    else if e % 2 = 0 || e / 2 % 2 = 1 || s.malformed e level va then none
    else State.leafSlotFrom s va level (bitsOf e 47 12 * 4096)

def State.leafSlot (s : State) (p : Process) (va : Nat) : Option Nat := s.leafSlotFrom (va % 2 ^ 57) 5 p.root

/-- The entry that maps an address: a level-0 entry, or a valid leaf of a large page with its level. -/
inductive LeafPlace where
  | small (a : Nat)
  | large (a level : Nat)
  deriving DecidableEq, Repr

/-- A page of zeros. -/
def State.clearPage (s : State) (k : Nat) : State :=
  (List.range 128).foldl (fun s i => s.writeHome (.phys (k * 4096 + 32 * i)) (List.replicate 32 0) true) s

/-- Walks to the entry that maps an address. Serai puts an empty page table, of the list of physical pages, where the walk finds no
valid entry that leads on (R136, R219; log 58). -/
def State.openTables (va : Nat) : Nat → Nat → List Nat → State → Option (LeafPlace × State)
  | 0, _, _, _ => none
  | level + 1, t, tables, s =>
    let a := t + 8 * bitsOf va (20 + 9 * level) (12 + 9 * level)
    let e := Memory.readNat s.mem a 8
    if level = 0 then some (.small a, s)
    else if e % 2 = 1 && !s.malformed e level va then
      if e / 2 % 2 = 1 then some (.large a level, s) else State.openTables va level (bitsOf e 47 12 * 4096) tables s
    else
      match tables with
      | [] => none
      | k :: rest =>
        if s.populated (k * 4096) 4096 then
          State.openTables va level (k * 4096) rest ((s.clearPage k).writeHome (.phys a) (leBytes 8 (k * 4096 + 1)) false)
        else none

/-- The entry that maps a page at an address: an evicted page's keeps its permissions, any other is open to every access; CH and GL stay,
and C64 when the page does, unless the entry would then be malformed (R137, R220; log 58). -/
def State.mappingEntry (s : State) (old page va : Nat) : Nat :=
  let far := (s.physRange (page * 4096)).any fun r => r.2.2
  let base := page * 4096 + (if far then 0x80 else 0) + 3
  let open_ := if old % 2 = 0 && old / 2 % 2 = 1 then Nat.land old 0x70 else 0x70
  let kept := Nat.land old (if page = bitsOf old 47 12 then 0xF00 else 0xE00)
  if s.malformed (base + open_ + kept) 0 (va % 2 ^ 57) then base + 0x70 + Nat.land old 0x200 else base + open_ + kept

/-- Serai asks for an invalidation of n bytes of a process's addresses. -/
def State.invalidate (s : State) (p : Process) (va n : Nat) : State :=
  { s with invalidating := s.invalidating ++ [{ asn := p.asn, va := BitVec.ofNat 64 va, len := n }] }

/-- Serai maps the page of an address to a physical page, or to the one its entry names, with the contents of its eviction if it was
evicted; a page that is mapped already it opens to every access. Without the tables or a populated page it cannot. -/
def State.mapPage (s : State) (p : Process) (va : Nat) (page : Option Nat) (tables : List Nat) : Option State :=
  match State.openTables (va % 2 ^ 57) 5 p.root tables s with
  | none => none
  | some (.large a level, s) =>
    some ((s.writeHome (.phys a) (leBytes 8 (Nat.lor (Memory.readNat s.mem a 8) 0x70)) false).invalidate p
      (va / leafSize level * leafSize level) (leafSize level))
  | some (.small a, s) =>
    let old := Memory.readNat s.mem a 8
    let k := page.getD (bitsOf old 47 12)
    if old % 2 = 1 && !s.malformed old 0 (va % 2 ^ 57) then
      some ((s.writeHome (.phys a) (leBytes 8 (Nat.lor old 0x70)) false).invalidate p (va / 4096 * 4096) 4096)
    else if !(s.populated (k * 4096) 4096) || (page.isNone && old / 2 % 2 = 0) then none
    else
      let s := s.writeHome (.phys a) (leBytes 8 (s.mappingEntry old k va)) false
      let s := if old % 2 = 1 then s.invalidate p (va / 4096 * 4096) 4096 else s
      some <| match p.backing.lookup (pageNumber va) with
      | some m =>
        ((List.range 128).foldl (fun s i => s.writeHome (.phys (k * 4096 + 32 * i)) (Memory.readBytes m (32 * i) 32) true) s).modProc p.pid fun p =>
          { p with backing := p.backing.filter fun x => x.1 != pageNumber va }
      | none => s

/-- The pending entry of an index. -/
def State.pendingFault (s : State) (die idx : Nat) : Option FaultEntry :=
  (s.dieAt die).faults.find? fun f => f.index.toNat == idx && f.status == 0

def State.faultProc (s : State) (f : FaultEntry) : Option Process := (s.grid? f.grid.toNat).bind fun g => s.proc? g.pid

/-- A resolution of an entry whose page was evicted maps it again (R220). -/
def State.restorePage (s : State) (f : FaultEntry) : State :=
  match s.faultProc f with
  | some p =>
    if f.cause = 0 && (p.backing.lookup (pageNumber f.vaddr.toNat)).isSome then (s.mapPage p f.vaddr.toNat none []).getD s else s
  | none => s

/-- Serai's own write, which waits while the process's Porter is held. -/
def State.porterWrites (s : State) (die idx : Nat) (status : BitVec 2) : State :=
  match s.pendingFault die idx with
  | none => s
  | some f =>
    if die ≥ 4 || s.held f then s
    else (if status = 1 then s.restorePage f else s).resolveFault die idx status

/-- FAULT_STATUS_RESOLVED (R143). -/
def execFaultStatusResolved (die idx : Nat) (s : State) : Out := .next (s.porterWrites die idx 1)

/-- FAULT_STATUS_DENIED (R143). -/
def execFaultStatusDenied (die idx : Nat) (s : State) : Out := .next (s.porterWrites die idx 2)

/-! ### Resumption (R32, R144, R208) -/

/-- A team that nothing holds where it stands: it lives on its core, and no debugger, pre-emption or dump has it. A pre-emption has it
only once what it has issued has finished (R212). -/
def State.moves (s : State) (t : Team) : Bool :=
  t.cause == 0 && t.stop.isNone && !s.dumpStops t.gid &&
    (s.blockOf t).any fun b => b.resident && !b.resuming && (!b.preempting || (!b.saving && t.finishing))

/-- The faults that a whole path waits for have been resolved: the denied ones, with their lanes, or none while one is pending. -/
def State.pathFaults (s : State) (t : Team) (l : List (BitVec 12 × Mask)) : Option (List (Mask × BitVec 12)) :=
  l.foldr (fun x r =>
    match s.faultOf t x.1, r with
    | some f, some r => if f.status = 1 then some r else if f.status = 2 then some ((x.2, x.1) :: r) else none
    | none, some r => some r
    | _, none => none) (some [])

/-- The replay owed by a whole path, with the lanes that were denied; a fetch that was denied owes the fetch alone. -/
def Team.ownDenied (t : Team) (l : List (Mask × BitVec 12)) : List PendingReplay :=
  match l, t.replay with
  | [], rs => rs
  | l, r :: rs => { r with denied := l } :: rs
  | l, [] => [{ slot := none, entry := { ReplayEntry.free with pc := t.pc, pmask := t.running, mode := t.mode }, denied := l, rte := false, again := false }]

/-- DEFERRED_PATH_RESUME: a path whose fault is resolved resumes; of several, the first resolved. -/
def execDeferredPathResume (team : Nat) (s : State) : Out :=
  .next <| s.onTeam team fun t =>
    if !s.moves t then s
    else
      match t.run with
      | .choosing park =>
        match takeNext (s.resolvedOrder t) t.stack with
        | .path e rest =>
          let stack := match park with
            | some pc => pathEntry pc t.mask :: rest
            | none => rest
          if s.pathReady t e then State.resume team (t.stack.length + 2) (s.modTeam team fun u => { u with stack := stack }) e else s
        | .fatal => s.endTeam team causeFATAL
        | _ => s
      | .wholePath l =>
        match s.pathFaults t l with
        | none => s
        | some denied =>
          (l.foldl (fun s x => s.takeFault t x.1) s).modTeam team fun u =>
            { u with run := .ready, replay := u.ownDenied denied }
      | _ => s

/-- FAULT_POST_AFTER_WAIT (R144): an entry has been freed; the pass is made again, and posts its entries. -/
def execFaultPostAfterWait (team : Nat) (s : State) : Out :=
  .next <| s.onTeam team fun t =>
    if t.run = .queueFull && s.moves t && faultRoom s (dieOf t.core) 1 then s.modTeam team fun u => { u with run := .ready } else s

/-! ### Translations and the commons (R132, R139) -/

/-- TRANSLATION_INVALIDATION: Serai writes page-table entries and asks for the range to be invalidated. -/
def execTranslationInvalidation (r : TransRange) (ptes : List (Nat × BitVec 64)) (s : State) : Out :=
  let s := ptes.foldl (fun s x => s.writeHome (.phys x.1) (leBytes 8 x.2.toNat) false) s
  .next { s with invalidating := s.invalidating ++ [r] }

/-- A cached translation lies in a range. -/
def rangeCovers (r : TransRange) (t : Translation) : Bool :=
  (t.global || t.asn == r.asn) && r.va.toNat % 2 ^ 57 < t.va + t.size && t.va < r.va.toNat % 2 ^ 57 + r.len

/-- Neither a core nor a die holds a translation of the range, and its entries count as unread (R138, R139). -/
def State.purge (s : State) (r : TransRange) : State :=
  { s with
    cores := s.cores.map fun c => { c with tlb := c.tlb.filter fun t => !rangeCovers r t },
    dies := s.dies.map fun d => { d with dtlb := d.dtlb.filter fun t => !rangeCovers r t },
    walked := s.walked.filter fun t => !rangeCovers r t }

/-- The team has a queued store that was translated in the range: under its own number, or another's where the entry is global. -/
def Team.storesIn (t : Team) (r : TransRange) : Bool :=
  t.storeQ.any fun e => e.space == .device && within (e.addr.toNat % 2 ^ 57) (r.va.toNat % 2 ^ 57) r.len

/-- INVALIDATION_COMPLETE: no core holds a translation of the range, and every access through an old one has been performed. -/
def execInvalidationComplete (r : TransRange) (s : State) : Out :=
  .next <| if !s.invalidating.contains r || s.teams.any fun t => t.storesIn r then s
  else { s with invalidating := s.invalidating.erase r }.purge r

/-- COMMONS_WINDOW_GRANT: whole contributions of one die (R132). -/
def execCommonsWindowGrant (pid die : Nat) (cores : List Nat) (s : State) : Out :=
  .next <| if die ≥ 4 || cores.any (fun c => c ≥ 576 || dieOf c != die) then s
  else s.modProc pid fun p => { p with windows := (die, cores) :: p.windows.filter fun w => w.1 != die }

/-- COMMONS_CONTRIBUTION_SET (R132). -/
def execCommonsContributionSet (core size : Nat) (s : State) : Out :=
  .next <| if core ≥ 576 || size % 0x10000 != 0 || size > 0x80000 || s.blocks.any (fun b => b.core == core && b.resident) then s
  else s.modCore core fun c => { c with contribution := size }

/-! ### Errors (R145 to R147, R209) -/

/-- PATROL_READ (R146, R147): a sector of populated memory; far memory takes no marker. -/
def execPatrolRead (sector : Nat) (found : SectorFinding) (s : State) : Out :=
  let pa := 32 * sector
  let near := decide (pa < 0x200000000000)
  let latent (s : State) : State := (s.count 3).modHub fun h => { h with latent := logInc h.latent (controllerOf pa) }
  .next <| if !s.populated pa 32 then s
  else
    match found with
    | .clean =>
      if near then (if s.badSector pa then latent s else s) else { s with poison := s.poison.filter fun x => x != sector }
    | .correctable =>
      if s.badSector pa then latent s else s.modHub fun h => { h with corrected := logInc h.corrected (controllerOf pa) }
    | .uncorrectable =>
      let s := latent s
      let s := if near then { s with mem := Memory.writeBytes s.mem pa ((List.range 32).map markerByte) } else s
      if s.badSector pa then s else { s with poison := sector :: s.poison }

/-- A site exists. -/
def State.siteOk (s : State) : SoftErrorSite → Bool
  | .scratch b w => (s.block? b).any fun x => 4 * w < x.scrsz
  | .commons c w => c < 576 && 4 * w < (s.coreAt c).contribution
  | .l1 c w => c < 576 && (s.coreAt c).l1.any fun l => l.line == w / 32
  | .l2 w => s.populated (4 * w) 4 && (s.dieAt (homeDie (4 * w))).l2.contains (w / 32)
  | .reg u h i => (s.team? u).any fun t => h < t.threads.length && t.hasV i.toNat
  | .scalar u i => (s.team? u).any fun t => t.hasS i.toNat
  | .pred u i g => (s.team? u).any fun t => i != 0 && g < t.ngrp && t.hasP i.toNat
  | .tile b t w => w < 0x1000 && (s.block? b).any fun x => t < x.ntile
  | .acc b a e => (s.block? b).any fun x => a < x.nacc && e < 1024
  | .sector n => s.populated (32 * n) 32

/-- A word is uncorrectable from now on. A sector of device memory is found so by its next read: in near memory the controller then
rewrites it with the marker, in far memory the expander reports it (R146, R147). -/
def State.spoil (s : State) (c : SoftErrorSite) : State :=
  match c with
  | .sector n =>
    if s.poison.contains n then s
    else
      { s with poison := n :: s.poison,
               mem := if 32 * n < 0x200000000000 then Memory.writeBytes s.mem (32 * n) ((List.range 32).map markerByte) else s.mem }
  | c => if s.soft.contains c then s else { s with soft := c :: s.soft }

/-- UNCORRECTABLE_SOFT_ERROR (R209): the word stays so until it is written whole. -/
def execUncorrectableSoftError (c : SoftErrorSite) (s : State) : Out :=
  .next <| if s.siteOk c then s.spoil c else s

end Sys2Proof.Machine
end

