-- ==== Sys2Proof/Machine/Completion.lean ====
section
/-! DEFINITION. Completion (spec/08 R186, R193; spec/07 R181; spec/11 R231; spec/19 R299; R256): digests compared, blocks and grids that
complete, the Waybill. -/

namespace Sys2Proof.Machine

open Sys2Proof

/-! ### Digests (R181) -/

/-- Every team of a block has ended, with its conveyance, and the Courier holds no copy of it (R42, R267). -/
def State.blockOver (s : State) (b : Block) : Bool :=
  (s.teamsOf b.uid).all (fun t => t.cause != 0 && !s.conveyed t) && !s.hasCopies b

/-- The team of the original that waits at its EXIT. -/
def State.atDigest (s : State) (b : Block) : Option Team := (s.teamsOf b.uid).find? fun t => t.run == .waiting .digest

/-- The EXIT may complete: it issues again, without the arrival check, and passes. -/
def Team.passDigest (t : Team) : Team := { t with run := .ready, waitEntry := .free, exitChecked := true, resumed := true }

/-- Both digests are complete and are compared: a difference is counted, and under the strict policy the EXIT of the team that waits
at it traps. -/
def State.compareDigests (s : State) (g : Grid) (b sh : Block) (waits : Option Team) : State :=
  let s := s.modBlock b.uid fun b => { b with digestDone := true }
  let same := b.digest == sh.digest && !sh.mismatch
  let s := if same then s else s.count 0
  match waits with
  | none => s
  | some t =>
    if !same && g.strict then
      let c := { t.waitCtx with rp := t.replay.head? }
      (s.modTeam t.uid Team.passDigest).takeTrap c (orderViolation 3) t.waitEntry.pmask (some t.waitEntry) c.next
    else s.modTeam t.uid Team.passDigest

/-- DIGEST_COMPARE (R181): when the original's last team waits at its EXIT, or has ended without one (log 70). -/
def execDigestCompare (gid blk : Nat) (s : State) : Out :=
  .next <| match s.grid? gid, s.block? blk, s.blocks.find? (fun x => x.shadowOf == some blk) with
  | some g, some b, some sh =>
    if b.gid != gid || b.digestDone || !s.blockOver sh || s.hasCopies b then s
    else
      match s.atDigest b with
      | some t => if s.moves t then s.compareDigests g b sh (some t) else s
      | none => if s.blockOver b then s.compareDigests g b sh none else s
  | _, _, _ => s

/-! ### Blocks (R186) -/

/-- Largest death cause of the block's teams. -/
def State.outcome (s : State) (blk : Nat) : Nat := (s.teamsOf blk).foldl (fun m t => max m t.cause.toNat) 0

/-- The completion-event entry. -/
def eventEntry (outcome : Nat) (value : Word) : Nat := 2 ^ 63 + outcome % 8 * 2 ^ 32 + value.toNat

/-- A block of the grid completes: its entry is written, and the last one closes the open slots of the table's nodes (R193). -/
def State.completeBlock (s : State) (g : Grid) (b : Block) (p : Process) : State :=
  let value := ((g.events.lookup b.index).getD 0xFFFFFFFF#32)
  let s := s.modBlock b.uid fun b => { b with complete := true, resident := false }
  let s := if g.eventsA = 0 then s else s.writeVirtNat p (g.eventsA.toNat + 8 * b.index) 8 (eventEntry (s.outcome b.uid) value)
  s.modGrid g.gid fun g =>
    let done := g.completions ++ [b.index]
    { g with completions := done, nodes := if done.length ≥ g.count then g.nodes.map (Node.close · false) else g.nodes }

/-- BLOCK_COMPLETION (R186). The block of a shadow, a batch or a handler has no entry; it leaves its core. -/
def execBlockCompletion (gid blk : Nat) (s : State) : Out :=
  .next <| match s.grid? gid, s.block? blk with
  | some g, some b =>
    if b.gid != gid || b.complete || !b.resident || b.preempting || b.resuming || !s.blockOver b then s
    else if b.index < g.count && b.shadowOf.isNone then
      match s.proc? g.pid with
      | some p => if b.published && (!b.sampled || b.digestDone) then s.completeBlock g b p else s
      | none => s
    else s.modBlock blk fun b => { b with complete := true, resident := false }
  | _, _ => s

/-! ### Grids (R186, R256, R299) and the Waybill (R231) -/

def SlotState.isFree : SlotState → Bool
  | .free => true
  | _ => false

/-- Every block has completed, and no coalescing node, nor the Relay's, holds records or runs a team. -/
def Grid.over (g : Grid) : Bool :=
  g.completions.length ≥ g.count && g.nodes.all (fun n => n.slots.all SlotState.isFree) &&
    (match g.relay with | some r => r.waiting.isEmpty && r.closed.isEmpty && r.running.isEmpty | none => true)

/-- Cycles at a rate in Hz as nanoseconds, rounded toward zero. -/
def nanoseconds (cycles rate : Nat) : Nat := cycles * 1000000000 / rate

/-- The 64 bytes of a Waybill. -/
def waybill (h : Hub) (w : WaybillTimes) : List Byte :=
  let sys (n : Nat) : Nat := nanoseconds n h.sysRate
  let lm (n : Nat) : Nat := nanoseconds n h.lmRate
  let segs := [sys w.syscall, lm w.queue, sys w.fault, sys w.iowait, lm w.engine]
  let wall := sys w.wall
  let transit : Int := (wall : Int) - (segs.foldl (· + ·) 0 : Nat)
  leBytes 8 wall ++ segs.flatMap (leBytes 8) ++ leBytes 8 (BitVec.ofInt 64 transit).toNat ++ List.replicate 8 0

/-- GRID_COMPLETION (R186): the process is notified with the Waybill, and the grid's entries at the routers are freed. -/
def execGridCompletion (gid : Nat) (w : WaybillTimes) (s : State) : Out :=
  .next <| match s.grid? gid with
  | none => s
  | some g =>
    if g.done || !g.over then s
    else
      (s.modGrid gid fun g => { g with done := true, routers := [], ports := [], packets := [] }).say "WAYBILL"
        (gid :: (waybill s.hub w).map BitVec.toNat)

end Sys2Proof.Machine
end

