-- ==== Sys2Proof/Machine/Control.lean ====
section
/-! DEFINITION. Class 0, control (spec/04 R79; spec/02 R28 to R36): branches and regrouping, calls, arrival points, the ends
of threads and teams, the mode register, STALL. -/

namespace Sys2Proof.Machine

open Sys2Proof

/-- Target of a branch (R85). -/
def Ctx.target (c : Ctx) (l : LB) : Double := c.pc + (l.offset.signExtend 64 <<< 2)

/-- NOP: one pass, nothing else (R387). -/
def execNop (m : Mods) (s : State) : Out :=
  issue (.nop m) s fun c _ s => s.finishTeam c id c.next

/-- BRA (R331). -/
def execBra (m : Mods) (l : LB) (s : State) : Out :=
  issue (.bra m l) s fun c _ s => s.finishTeam c id (c.target l)

/-- The predicate operand of a conditional branch. -/
def predSrc (a : Reg) : Srcs := { a := .p a.toNat, b := .none, d := .none }

/-- The taken and not-taken sets of a conditional branch (R332). -/
def Ctx.takenSet (c : Ctx) (t : Team) (tick : Nat) (a : Reg) (sense : Bool) : Mask × Mask :=
  let run := c.lanes t
  let tk := filterMask run fun p => (c.read t tick (predSrc a) 0 p != 0) != sense
  (tk, maskMinus run tk)

/-- Goes one way, or divides: pushes the not-taken set F and continues with T (R28). -/
def State.divide (s : State) (c : Ctx) (tk nt : Mask) (target : Double) (rows : Nat) : State :=
  if tk != 0 && nt != 0 then
    (s.modTeam c.uid fun t => { t.passed rows with stack := pathEntry c.next nt :: t.stack, mask := tk }).finish c target
  else (s.modTeam c.uid fun t => t.passed rows).finish c (if tk != 0 then target else c.next)

def pathStackOverflow : TrapInfo := trapOf 0x11

/-- BRC (R332). -/
def execBrc (m : Mods) (d a : Reg) (l : LB) (s : State) : Out :=
  issue (.brc m d a l) s fun c t s =>
    checked false (predSrc a) (Check.operand (d.toNat ≤ 1)) (fun c t live s =>
      let (tk, nt) := c.takenSet t s.tick a (d == 1)
      if tk != 0 && nt != 0 && t.stack.length ≥ 256 then s.trapAtIssue c t (predSrc a) live pathStackOverflow (c.lanes t)
      else s.divide c tk nt (c.target l) (maskRows live).length) c t s

/-- The new arrangement of BRM: taken, not-taken and retired threads fill, in that order, the positions that hold running
or retired threads (R34). The retired threads keep their order (log 69). It answers old and new positions. -/
def repack (tk nt retired : Mask) : List (Nat × Nat) :=
  (maskLanes tk ++ maskLanes nt ++ maskLanes retired).zip (maskLanes (tk ||| nt ||| retired))

/-- Moves threads; the lines of the rows that change are written (R35, R62, R73). -/
def Team.moveThreads (t : Team) (mv : List (Nat × Nat)) : Team :=
  let rows := (mv.filter fun x => x.1 != x.2).map fun x => x.2 / 32
  let seat (th : Thread) : Thread :=
    match mv.find? (fun x => x.1 == th.pos) with
    | some x => { th with pos := x.2 }
    | none => th
  let written := mv.foldl (fun (m : Table 17) x => Table.set m x.2 (Table.get t.mapWritten x.1)) t.mapWritten
  let t1 := { t with threads := t.threads.map seat, mapWritten := written }
  if rows.isEmpty then t1
  else
    (List.range t.nvec).foldl (fun t i => rows.eraseDups.foldl (fun t g => t.markV i g) t)
      ((List.range 16).foldl (fun t i => t.markP i) (rows.eraseDups.foldl (fun t g => t.markF g) t1))

/-- BRM (R334): in-flight write-backs have completed when it reads its predicate. Its checks at issue come first, STALL_CHECK among
them (log 69). Entries in STATE 3, of lanes that wait for faults and do not move, stay in the replay queue, and BRM does not wait for
them (DESIGN CHOICE, log 69). -/
def execBrm (m : Mods) (d a : Reg) (l : LB) (s : State) : Out :=
  issue (.brm m d a l) s fun c t s =>
    checked false (predSrc a) (Check.operand (d.toNat ≤ 1)) (fun c t live s =>
      let t := { t with recent := [] }
      let (tk, nt) := c.takenSet t s.tick a (d == 1)
      if tk != 0 && nt != 0 && t.stack.length ≥ 256 then s.trapAtIssue c t (predSrc a) live pathStackOverflow (c.lanes t)
      else
        let mv := repack tk nt t.retiredMask
        let nk := (maskLanes tk).length
        let spots := mv.map Prod.snd
        let tk' := maskOf (spots.take nk)
        let nt' := maskOf ((spots.drop nk).take (maskLanes nt).length)
        let s := s.setTeam { t.moveThreads mv with mask := tk' ||| nt' }
        s.divide c tk' nt' (c.target l) (maskRows live).length) c t s

/-- Distinct addresses, ascending. -/
def insertAsc (x : Nat) : List Nat → List Nat
  | [] => [x]
  | y :: r => if x < y then x :: y :: r else if x = y then y :: r else y :: insertAsc x r

/-- BRX (R336). -/
def execBrx (m : Mods) (a : Reg) (s : State) : Out :=
  issue (.brx m a) s fun c t s =>
    let x : Srcs := { a := .v a.toNat true, b := .none, d := .none }
    checked false x Check.none (fun c t live s =>
      let go (p : Nat) : Nat := (c.read t s.tick x 0 p).toNat
      let bad := filterMask live fun p => go p % 4 != 0
      if bad != 0 then
        s.trapAtIssue c t x live { trapOf 0x0A with vaddr := BitVec.ofNat 64 (go ((lowestLane bad).getD 0)) } bad
      else
        let targets := (maskLanes live).foldl (fun l p => insertAsc (go p) l) []
        let path (k : Nat) : PathEntry := pathEntry (BitVec.ofNat 64 k) (filterMask live fun p => go p == k)
        match targets with
        | [] => s.finish c c.next
        | low :: others =>
          if t.stack.length + others.length > 256 then s.trapAtIssue c t x live pathStackOverflow (c.lanes t)
          else
            let frees := if m.lua then x.a.vregs else []
            (s.modTeam c.uid fun u =>
              { ((u.passed (maskRows live).length).freeLanes live frees) with
                stack := others.map path ++ u.stack, mask := (path low).gmask }).finish c (BitVec.ofNat 64 low)) c t s

/-- BRVD (R335). -/
def execBrvd (m : Mods) (l : LB) (s : State) : Out :=
  issue (.brvd m l) s fun c t s => s.finishTeam c id (if t.stack.isEmpty then c.next else c.target l)

/-- CALL (R337); a save or restore handler context has no s62:s63 (R213). -/
def execCall (m : Mods) (l : LB) (s : State) : Out :=
  issue (.call m l) s fun c t s =>
    checked false Srcs.none (Check.operand (t.hasSP 62)) (fun c _ _ s =>
      s.finishTeam c (fun t => t.putSP 62 c.next) (c.target l)) c t s

/-- RET (R402). -/
def execRet (m : Mods) (s : State) : Out :=
  issue (.ret m) s fun c t s =>
    let x : Srcs := { a := .s 62 true, b := .none, d := .none }
    checked false x Check.none (fun c t live s =>
      let dest := c.readTeam t s.tick x 0
      if dest.toNat % 4 != 0 then s.trapAtIssue c t x live { trapOf 0x0A with vaddr := dest } (c.lanes t)
      else if !canonical dest then s.trapAtIssue c t x live { trapOf 0x0C with vaddr := dest } (c.lanes t)
      else s.finishTeam c id dest) c t s

/-- JOIN: an arrival point and nothing else (R369). -/
def execJoin (m : Mods) (s : State) : Out :=
  issue (.join m) s fun c _ s =>
    match s.arrive c with
    | (s, true) => s.finishTeam c id c.next
    | (s, false) => s

/-- YIELD: an arrival point and nothing else (R419). -/
def execYield (m : Mods) (s : State) : Out :=
  issue (.yield m) s fun c _ s =>
    match s.arrive c with
    | (s, true) => s.finishTeam c id c.next
    | (s, false) => s

/-- EXIT and EXITR in a handler raise PRIVILEGE (R357). -/
def exitCheck (t : Team) (illegal : Bool) : Check :=
  { priv := t.frame.active != 0 || t.aside.isSome, illegal := illegal, unsupported := none }

/-- The EXIT that would end the last team of a sampled original block waits for both digests (R181). -/
def State.awaitsDigest (s : State) (t : Team) : Bool :=
  !t.exitChecked &&
  (t.stack.all fun e => maskMinus e.gmask t.retiredMask == 0) &&
  (match s.block? t.blk with
    | some b => b.sampled && b.shadowOf.isNone && (s.teamsOf b.uid).all fun u => u.uid == t.uid || u.cause != 0
    | none => false)

/-- The team waits at its EXIT for the digests; the EXIT issues again afterwards. -/
def State.waitDigest (s : State) (c : Ctx) (e : ReplayEntry) : State :=
  s.modTeam c.uid fun t => { t with run := .waiting .digest, waitEntry := e, recent := [],
                                    replay := match c.rp with | some r => r :: t.replay | none => t.replay }

/-- Every lane of the instruction becomes exited, after n passes (R357, R24). -/
def State.exitLanes (s : State) (c : Ctx) (lanes : Mask) (n : Nat) : State :=
  ((s.modTeam c.uid fun t => t.passed n).retire c.uid lanes .exited).finish c c.next

/-- EXIT (R357). -/
def execExit (m : Mods) (s : State) : Out :=
  issue (.exit m) s fun c t s =>
    checked false Srcs.none (exitCheck t false) (fun c _ _ s =>
      match s.arrive c with
      | (s, false) => s
      | (s, true) =>
        match s.team? c.uid with
        | none => s
        | some t =>
          if s.awaitsDigest t then s.waitDigest c (c.capture t s.tick Srcs.none (c.lanes t)) else s.exitLanes c (c.lanes t) 1) c t s

/-- The result record of EXITR in one lane (R248, R249). -/
def ChoiceState.putResult (cv : ChoiceState) (ws : List Word) (target : Nat) : ChoiceState :=
  let r := ws.zipIdx.foldl (fun r (w, i) => vput r i w) cv.result
  ChoiceState.divergenceAtExit
    { cv with result := r, rwc := (cv.rwc &&& 0x80#8) ||| BitVec.ofNat 8 (ws.length + 16 * target) }

/-- The chain work of EXITR: a proposal's lanes are settled, and a first run's, with PROP 0, begin their chains (R253); a shadow feeds
no chain (R256). -/
def State.exitChains (s : State) (t : Team) (homes : List Nat) : State :=
  match t.kind with
  | .proposal _ => s.settleLanes t homes true
  | .grid =>
    if s.isShadow t then s
    else
      match s.grid? t.gid, s.block? t.blk with
      | some g, some b =>
        (homes.filter fun h => !(t.thread h).cv.sta? staPROP).foldl (fun s h => s.beginChain g (g.threadIndex b.index t.tix h) (t.thread h).cv) s
      | _, _ => s
  | _ => s

/-- EXITR (R248, R358). -/
def execExitr (m : Mods) (d a b : Reg) (s : State) : Out :=
  issue (.exitr m d a b) s fun c t s =>
    let n := b.toNat
    let x : Srcs := { a := .vs a.toNat n, b := .none, d := .none }
    checked false x (exitCheck t (n = 0 || n > 8 || d.toNat ≥ n)) (fun c _ _ s =>
      match s.arrive c with
      | (s, false) => s
      | (s, true) =>
        match s.team? c.uid with
        | none => s
        | some t =>
          let lanes := c.lanes t
          if s.awaitsDigest t then s.waitDigest c (c.capture t s.tick x lanes)
          else
            let t1 := (t.modLanes lanes fun th =>
              { th with cv := th.cv.putResult (c.readWords t s.tick x 0 a.toNat n th.pos) d.toNat }).freeLanes lanes (freesOf m x)
            ((s.setTeam t1).exitChains t1 ((maskLanes lanes).map t1.home)).exitLanes c lanes (maskRows lanes).length) c t s

/-- KILL (R370). -/
def execKill (m : Mods) (s : State) : Out :=
  issue (.kill m) s fun c _ s =>
    (s.modTeam c.uid fun t => { t.passed 1 with insn := t.insn + 1 }).endTeam c.uid causeKILLED

/-- MODE, guard form (R379). -/
def execModeGuard (m : Mods) (d a : Reg) (s : State) : Out :=
  issue (.modeGuard m d a) s fun c t s =>
    checked false Srcs.none (Check.operand (d.toNat ≤ 1 && t.hasP a.toNat)) (fun c _ _ s =>
      s.finishTeam c (fun t =>
        { t with mode := (t.mode &&& ~~~0x1F#32) ||| BitVec.ofNat 32 (a.toNat % 16 + d.toNat % 2 * 16) }) c.next) c t s

/-- The bits of the mode register that the select bits name (R86). -/
def modeSelect (a b : Reg) : Word :=
  let on (x : Bool) (v : Word) : Word := if x then v else 0
  on (b.getLsbD 0) 0xF#32 ||| on (b.getLsbD 1) 0x10#32 ||| on (b.getLsbD 2) 0xE0#32 ||| on (b.getLsbD 3) 0x700#32 |||
    on (b.getLsbD 4) 0x800#32 ||| on (b.getLsbD 5) 0x1000#32 ||| on (a.getLsbD 0) 0x20000#32 ||| on (a.getLsbD 1) 0x10000#32 |||
    on (a.getLsbD 2) 0x8000#32 ||| on (a.getLsbD 3) 0x4000#32 ||| on (a.getLsbD 4) 0x2000#32 ||| on (a.getLsbD 5) 0x40000#32

/-- MODE, field form (R379, R86). -/
def execModeField (m : Mods) (a b : Reg) (l : LM) (s : State) : Out :=
  issue (.modeField m a b l) s fun c t s =>
    let sel := modeSelect a b
    let new : Word := l.mode.setWidth 32
    checked false Srcs.none (Check.operand (!(b.getLsbD 3 && modeRnd new ≥ 6) && !(t.aside.isSome && b.getLsbD 0 && modeGuard new > 3)))
      (fun c _ _ s => s.finishTeam c (fun t => { t with mode := (t.mode &&& ~~~sel) ||| (new &&& sel) }) c.next) c t s

/-- GMODE (R367): the old mode goes to s[d], s[a] to the mode register. -/
def execGmode (m : Mods) (d a : Reg) (s : State) : Out :=
  issue (.gmode m d a) s fun c t s =>
    let x : Srcs := { a := .s a.toNat false, b := .none, d := .none }
    checked false x (Check.operand (t.hasS d.toNat)) (fun c t live s =>
      let new : Word := (c.readTeam t s.tick x 0).setWidth 32
      if (new >>> 19) != 0 then s.trapAtIssue c t x live illegalEncoding (c.lanes t)
      else if modeRnd new ≥ 6 then s.trapAtIssue c t x live illegalOperand (c.lanes t)
      else s.finishTeam c (fun t => { t.putS d.toNat t.mode with mode := new }) c.next) c t s

/-- STALL (R413): older instructions have finished and replies have landed, so no window stays open. -/
def execStall (m : Mods) (s : State) : Out :=
  issue (.stall m) s fun c _ s => s.finishTeam c (fun t => { t with recent := [] }) c.next

end Sys2Proof.Machine
end

