-- ==== Sys2Proof/Machine/Conveyance.lean ====
section
/-! DEFINITION. Conveyance (spec/15 R267 to R269; R425, R424, R280, R294): what becomes of a dead team's holdings. -/

namespace Sys2Proof.Machine

open Sys2Proof

/-! ### Heirs (R267) -/

/-- Who takes a holding: a live team, an estate-handler team that is due, or a new one. -/
inductive Heir where
  | team (h : Team)
  | due (number : Nat)
  | fresh

/-- Live teams of the grid that can inherit: a shadow's have no tag and hold nothing (R179). -/
def State.heirTeams (s : State) (gid : Nat) : List Team := s.teams.filter fun t => t.gid == gid && t.cause == 0 && !s.isShadow t

def Team.isHandler (t : Team) : Bool :=
  match t.kind with
  | .handler _ => true
  | _ => false

/-- A new handler may be started for holdings of X (R269). -/
def mayHandle (g : Grid) (x : Team) : Bool := g.esth != 0 && !x.isHandler

/-- heir(s). A holding that an estate handler still holds at its death has none (R269). -/
def State.heirOf (s : State) (g : Grid) (x : Team) (e : EstateSlot) : Option Heir :=
  if x.isHandler then none
  else match e.hkind.toNat with
  | 0 =>
    match (s.heirTeams g.gid).find? fun t => t.tag == e.htag with
    | some t => some (.team t)
    | none => (g.handlersDue.find? fun h => h.tag == e.htag).map fun h => .due h.number
  | 1 =>
    let mates := (s.heirTeams g.gid).filter fun t => t.blk == x.blk && t.uid != x.uid
    (((List.range g.teams).map fun i => (x.tix + 1 + i) % g.teams).findSome? fun k => mates.find? fun t => t.tix == k).map .team
  | 2 => if mayHandle g x then some .fresh else none
  | _ => none

/-- acceptable(H, s), and H has a free slot. A team of a block that is off its core runs on none. -/
def State.acceptable (s : State) (g : Grid) (x : Team) (e : EstateSlot) : Heir → Bool
  | .team h =>
    (Estate.freeSlot h.estate).isSome &&
      (match e.kind.toNat with
        | 3 => h.core == x.core && (s.blockOf h).any fun b => b.resident
        | 4 => dieOf h.core == dieOf x.core
        | _ => true)
  | .due n =>
    (g.handlersDue.find? fun h => h.number == n).any fun h =>
      (Estate.freeSlot h.estate).isSome &&
        (match e.kind.toNat with
          | 3 => h.needCore == some x.core
          | 4 => h.needDie == some (dieOf x.core) || h.needCore.any fun c => dieOf c == dieOf x.core
          | _ => true)
  | .fresh => true

/-! ### Estate handlers that become due (R269) -/

/-- Creates an estate-handler team, with its tag. -/
def State.dueHandler (s : State) (g : Grid) (x : Team) (slot : Nat) (e : EstateSlot) (heirless : Bool) (estate : Estate) : State :=
  let (tag, s) := s.takeTag g.gid
  let h : HandlerDue :=
    { dead := x.uid, slot := if heirless then slot else 0, tag := tag, heirless := heirless, number := s.nextUid, holding := e,
      needCore := if !heirless && e.kind = 3 then some x.core else none,
      needDie := if !heirless && e.kind = 4 then some (dieOf x.core) else none, estate := estate }
  { s.modGrid g.gid fun g => { g with handlersDue := g.handlersDue ++ [h] } with nextUid := s.nextUid + 1 }

/-- The estate handler of a holding that is heirless. -/
def State.heirlessHandler (s : State) (g : Grid) (x : Team) (slot : Nat) (e : EstateSlot) : State :=
  let s := s.count 4
  if !e.quiet && mayHandle g x then s.dueHandler g x slot e true (Vector.replicate 32 (.free (s.heirKind x))) else s

/-! ### Words (R265, R266, R425) -/

/-- A change of a word, which an uncorrectable one does not take (R424). -/
def State.changeWord (s : State) (core : Nat) (tg : Target) (f : Nat → Nat) : State :=
  if s.uncorrectableAt core tg 8 then s.consumed tg else (s.putWord core tg (f (s.wordAt tg))).ticked

def conveyedLock (tag : Word) (waits : Bool) (tick w : Nat) : Nat :=
  mkLock tag.toNat (lockPoisoned w) true (if waits then fewerWaiters tick (lockWaiters w) else lockWaiters w)

def poisonedLock (w : Nat) : Nat := mkLock 0 true (lockBereaved w) (lockWaiters w)

def conveyedPromise (w : Nat) : Nat := mkPromise (w / 2 ^ 32) (promiseState w) true

def brokenPromise (w : Nat) : Nat := mkPromise (w / 2 ^ 32) 2 (promiseBereaved w)

/-! ### An heir that waits in LOCK on the word -/

/-- It waits there. -/
def Team.waitsOn (t : Team) (va : Double) : Option (BitVec 4 × Mask) :=
  match t.run with
  | .waiting (.lock d a lanes) => if a = va then some (d, lanes) else none
  | _ => none

/-- A LOCK on the word that pre-emption has stopped, and that is to be re-executed (R317). -/
def lockParked (t : Team) (tick : Nat) (va : Double) (r : PendingReplay) : Bool :=
  let c : Ctx := { i := .nop { lua := false, lub := false, stall := 0 }, word := r.entry.word, lit := r.entry.lit, len := 4, pc := r.entry.pc,
                   uid := t.uid, mode := r.entry.mode, rp := some r }
  r.again && (fieldsOf r.entry.word).op == 0x2C2 && c.readTeam t tick (wordSrcs (fieldsOf r.entry.word).a none) 0 == va

/-- The replays a team owes, where a handler context has set them aside. -/
def Team.owed (t : Team) : List PendingReplay :=
  match t.aside with
  | some a => a.replay
  | none => t.replay

def Team.dropOwed (t : Team) (r : PendingReplay) : Team :=
  let t := match t.aside with
    | some a => { t with aside := some { a with replay := a.replay.erase r } }
    | none => { t with replay := t.replay.erase r }
  match r.slot with
  | some k => { t with rq := vput t.rq k { vget t.rq k .free with state := 0 } }
  | none => t

/-- The heir's LOCK completes with pd true, an acquire at device scope, whether it waits or pre-emption has stopped it. -/
def State.completeLock (s : State) (h : Team) (va : Double) : State :=
  match h.waitsOn va with
  | some (d, lanes) => s.lockDone h d lanes true
  | none =>
    match h.owed.find? (lockParked h s.tick va) with
    | some r =>
      let s := (s.acquire h.core 4).logReal h.uid ((maskLanes r.entry.pmask).map fun p => (p, [1#32]))
      s.modTeam h.uid fun t =>
        (t.putReal (t.real.putP (maskMinus r.entry.pmask t.real.retiredMask) (((fieldsOf r.entry.word).d).setWidth 4).toNat true)).dropOwed r
    | none => s

/-! ### One holding (R267) -/

/-- What a fault of a word means. -/
structure WordFault where
  va : Double
  cause : Nat
  level : Nat

/-- Runs f on the place of a lock or promise word; a holding of another kind has none. -/
def State.atWord (s : State) (x : Team) (e : EstateSlot) (f : Target → State) : Except WordFault State :=
  match (s.procOf x).map fun p => s.wordPlace p e.addr with
  | some (.ok tg) => .ok (f tg)
  | some (.error (cause, level)) => .error { va := e.addr, cause := cause, level := level }
  | none => .ok s

/-- Enters the holding in its heir, with BRV and the heir fields of the heir's slot. -/
def State.conveyTo (s : State) (g : Grid) (x : Team) (slot : Nat) (e : EstateSlot) (h : Heir) : State :=
  let enter (es : Estate) : Estate := ((Estate.enter es e.kind e.addr e.count.toNat true).map Prod.snd).getD es
  match h with
  | .team t => s.modTeam t.uid fun u => { u with estate := enter u.estate }
  | .due n => s.modGrid g.gid fun g => { g with handlersDue := g.handlersDue.map fun d => if d.number = n then { d with estate := enter d.estate } else d }
  | .fresh => s.dueHandler g x slot e false (enter (Vector.replicate 32 (.free (s.heirKind x))))

/-- Tag and number of the heir; a new handler's are the next. -/
def State.heirTag (s : State) (g : Grid) : Heir → Word × Nat
  | .team t => (t.tag, t.uid)
  | .due n => (((g.handlersDue.find? fun h => h.number == n).map HandlerDue.tag).getD 0, n)
  | .fresh => ((s.takeTag g.gid).1, s.nextUid)

/-- The word change of a holding that is conveyed, or its effect on the core's matrix unit. -/
def State.conveyEffect (s : State) (g : Grid) (x : Team) (e : EstateSlot) (h : Heir) : Except WordFault State :=
  let (tag, number) := s.heirTag g h
  match e.kind.toNat with
  | 1 =>
    let waits := match h with | .team t => (t.waitsOn e.addr).isSome | _ => false
    s.atWord x e fun tg => s.changeWord x.core tg (conveyedLock tag waits s.tick)
  | 2 => s.atWord x e fun tg => s.changeWord x.core tg conveyedPromise
  | 3 => .ok (s.passUnit x.core x.uid number)
  | _ => .ok s

/-- heirless(s). Of a ticket range only the samples that are still PENDING go (R293). -/
def State.heirlessEffect (s : State) (x : Team) (e : EstateSlot) : Except WordFault State :=
  match e.kind.toNat with
  | 1 => s.atWord x e fun tg => s.changeWord x.core tg poisonedLock
  | 2 => s.atWord x e fun tg => s.changeWord x.core tg brokenPromise
  | 3 => .ok (if (s.coreAt x.core).reservation == some x.uid then s.modCore x.core fun c => { c with reservation := none } else s)
  | _ => .ok (s.modDie (dieOf x.core) fun d => { d with tapster := d.tapster.freeWhere fun y => y.state == .pending && y.range.setWidth 64 == e.addr })

/-- Conveys the holding of one slot and frees it, or answers the fault of its word. -/
def State.conveySlot (s : State) (g : Grid) (x : Team) (slot : Nat) : Except WordFault State :=
  let e := Estate.slot x.estate slot
  let free (s : State) : State := s.modTeam x.uid fun t => { t with estate := Estate.release t.estate slot (s.heirKind x) }
  match (s.heirOf g x e).filter fun h => s.acceptable g x e h with
  | some h =>
    match s.conveyEffect g x e h with
    | .error f => .error f
    | .ok s1 =>
      let s2 := free (s1.conveyTo g x slot e h)
      .ok (match h, e.kind.toNat with
        | .team t, 1 => s2.completeLock ((s2.team? t.uid).getD t) e.addr
        | _, _ => s2)
  | none =>
    match s.heirlessEffect x e with
    | .error f => .error f
    | .ok s1 => .ok (free (s1.heirlessHandler g x slot e))

/-- The occupied slot of largest SEQ. -/
def Estate.last (e : Estate) : Option Nat :=
  (e.toList.zipIdx.foldl (fun (b : Option (Nat × Nat)) (x, i) =>
    if x.kind = 0 then b else match b with
      | some (q, _) => if x.seq.toNat > q then some (x.seq.toNat, i) else b
      | none => some (x.seq.toNat, i)) none).map Prod.snd

/-! ### The conveyance unit (R267, R425) -/

def State.modConvey (s : State) (gid uid : Nat) (f : Conveyance → Conveyance) : State :=
  s.modGrid gid fun g => { g with conveying := g.conveying.map fun c => if c.team = uid then f c else c }

/-- Posts the fault of a word; a full queue leaves the conveyance to be tried again (R144). -/
def State.postConvey (s : State) (gid : Nat) (x : Team) (slot : Nat) (f : WordFault) : State :=
  let die := dieOf x.core
  if !faultRoom s die 1 then s
  else
    let (ix, s) := s.postFault die gid (((s.procOf x).map Process.asn).getD 0) x.core x.slot x.uid
      { vaddr := f.va, pc := 0, lanes := 0, row := 0, access := 6, level := f.level, cause := f.cause }
    s.modConvey gid x.uid fun c => { c with fault := some (ix, slot) }

/-- The dead team's conveyance is over: its waits are discarded. -/
def State.endConvey (s : State) (gid uid : Nat) : State :=
  (s.modTeam uid fun t => { t with run := .ready }).modGrid gid fun g => { g with conveying := g.conveying.filter fun c => c.team != uid }

/-- WAITERS − 1 of the lock that the dead team waited on; number 32 stands for it in a fault. -/
def State.conveyWait (s : State) (gid : Nat) (x : Team) : State :=
  match x.run with
  | .waiting (.lock _ va _) =>
    match (s.procOf x).map fun p => s.wordPlace p va with
    | some (.ok tg) => (s.changeWord x.core tg fun w => lockWithWaiters w (fewerWaiters s.tick (lockWaiters w))).endConvey gid x.uid
    | some (.error (cause, level)) => s.postConvey gid x 32 { va := va, cause := cause, level := level }
    | none => s.endConvey gid x.uid
  | _ => s.endConvey gid x.uid

/-- convey(X), as far as it comes: n bounds the slots. -/
def State.conveyFrom (gid uid : Nat) : Nat → State → State
  | 0, s => s
  | n + 1, s =>
    match s.grid? gid, s.team? uid with
    | some g, some x =>
      match Estate.last x.estate with
      | none => s.conveyWait gid x
      | some k =>
        match s.conveySlot g x k with
        | .ok s => State.conveyFrom gid uid n s
        | .error f => s.postConvey gid x k f
    | _, _ => s

/-- CONVEY (R267): the grid's oldest conveyance, unless it waits for a fault or a dump freezes the grid. -/
def execConvey (gid : Nat) (s : State) : Out :=
  .next <| match (s.grid? gid).bind fun g => g.conveying.head? with
  | none => s
  | some c => if c.fault.isSome || s.gridFrozen gid then s else State.conveyFrom gid c.team 33 s

/-- A denied write: the slot is freed and the heir receives nothing (R425). -/
def State.denyConvey (s : State) (g : Grid) (x : Team) (slot : Nat) : State :=
  if slot ≥ 32 then s.endConvey g.gid x.uid
  else
    let e := Estate.slot x.estate slot
    (s.modTeam x.uid fun t => { t with estate := Estate.release t.estate slot (s.heirKind x) }).heirlessHandler g x slot e

/-- CONVEYANCE_WRITE_RETRY (R425): the entry has been resolved or denied. -/
def execConveyanceWriteRetry (gid : Nat) (s : State) : Out :=
  .next <| match (s.grid? gid).bind fun g => g.conveying.head?.map fun c => (g, c) with
  | none => s
  | some (g, c) =>
    match c.fault, s.team? c.team with
    | some (ix, slot), some x =>
      if s.gridFrozen gid then s
      else
        match s.faultOf x ix with
        | some f =>
          if f.status = 0 then s
          else
            let s := (s.freeFault (dieOf x.core) ix).modConvey gid x.uid fun c => { c with fault := none }
            if f.status = 1 then State.conveyFrom gid x.uid 33 s
            else
              let s := s.denyConvey g x slot
              if slot ≥ 32 then s else State.conveyFrom gid x.uid 33 s
        | none => s.modConvey gid x.uid fun c => { c with fault := none }
    | _, _ => s

end Sys2Proof.Machine
end

