-- ==== Sys2Proof/Machine/Dump.lean ====
section
/-! DEFINITION. Core dumps (spec/09 R215 to R218): the records that the dump writer makes of a frozen team, and what follows. -/

namespace Sys2Proof.Machine

open Sys2Proof

/-- Bytes padded with 0 to a multiple of 32. -/
def padTo32 (bs : List Byte) : List Byte := bs ++ List.replicate ((32 - bs.length % 32) % 32) 0

/-- A record of fault number seq: its header, and its payload padded to 32 bytes (R216). -/
def dumpRecordOf (seq kind : Nat) (base : Double) (payload : List Byte) : List Byte :=
  leBytes 32 (kind + seq % 2 ^ 24 * 2 ^ 8 + payload.length % 2 ^ 32 * 2 ^ 32 + base.toNat * 2 ^ 64) ++ padTo32 payload

/-- A record of the primary fault. -/
def dumpRecord (kind : Nat) (base : Double) (payload : List Byte) : List Byte := dumpRecordOf 0 kind base payload

/-- The trap frames of the team's fatal faults, the primary first; a death that no trap brought has the image's own (log 33). -/
def Team.fatalFrames (t : Team) : List TrapFrame :=
  (if t.fatal.isEmpty then [t.frame] else t.fatal).map fun f => { f with rqn := BitVec.ofNat 8 t.rqn }

/-- A fault-queue entry as its 32 bytes (R142). -/
def FaultEntry.pack (f : FaultEntry) : Nat :=
  f.index.toNat + f.status.toNat * 2 ^ 14 + f.cause.toNat * 2 ^ 16 + f.level.toNat * 2 ^ 20 + f.access.toNat * 2 ^ 24 + f.row.toNat * 2 ^ 27 +
    f.tslot.toNat * 2 ^ 32 + f.core.toNat * 2 ^ 38 + f.asn.toNat * 2 ^ 48 + f.grid.toNat * 2 ^ 64 + f.lmask.toNat * 2 ^ 96 +
    f.pc.toNat * 2 ^ 128 + f.vaddr.toNat * 2 ^ 192

/-- A copy request as its 32 bytes (R148). -/
def CopyReq.pack (q : CopyReq) : Nat :=
  q.kind.toNat + q.peer % 8 * 2 ^ 3 + q.bar / 16 % 2 ^ 17 * 2 ^ 7 + q.rows % 2 ^ 16 * 2 ^ 24 + q.len % 2 ^ 24 * 2 ^ 40 +
    q.sstride.toNat * 2 ^ 64 + q.dstride.toNat * 2 ^ 96 + q.src.toNat * 2 ^ 128 + q.dst.toNat * 2 ^ 192

/-- Consecutive groups of at most 8 bytes, each with its offset. -/
def eights : Nat → List Byte → List (Nat × List Byte)
  | 0, _ => []
  | n + 1, bs => if bs.isEmpty then [] else (0, bs.take 8) :: (eights n (bs.drop 8)).map fun x => (x.1 + 8, x.2)

/-- The entries of one queued store (R217). -/
def storeRecords (t : Team) (e : StoreEntry) : List (List Byte) :=
  (eights (e.bytes.length + 1) e.bytes).map fun x =>
    leBytes 32 (e.pos % 32 * 2 ^ 22 + e.row % 32 * 2 ^ 27 + t.slot % 64 * 2 ^ 32 + e.core % 1024 * 2 ^ 38 +
      (match e.space with | .scratch => 1 | .commons => 2 | _ => 0) * 2 ^ 54 + (2 ^ x.2.length - 1) * 2 ^ 56 + e.pc.toNat * 2 ^ 64 +
      leNat x.2 * 2 ^ 128 + (e.addr.toNat + x.1) % 2 ^ 64 * 2 ^ 192)

/-- Stores of the grid that have been issued and not performed: the dumped team's own, then the other teams' (log 32). -/
def State.heldStores (s : State) (t : Team) : List (Team × StoreEntry) :=
  let own := t.storeQ.map fun e => (t, e)
  own ++ (s.teams.filter fun u => u.gid == t.gid && u.uid != t.uid).flatMap fun u => u.storeQ.map fun e => (u, e)

/-- The pages of 4 KiB that an address range touches. -/
def pagesOf (base size : Nat) : List Nat :=
  if size = 0 then [] else (List.range ((base + size - 1) / 4096 - base / 4096 + 1)).map fun i => base / 4096 + i

/-- The pages that policy 2 records: of the grid's enabled bound registers, of VADDR, and of the store list; each once, and only
those whose page can be read. -/
def State.dumpPages (s : State) (g : Grid) (t : Team) (p : Process) : List Nat :=
  let bounds := (g.bounds.toList.filter fun b => b.size != 0 && b.space == 0).flatMap fun b => pagesOf b.base.toNat b.size.toNat
  let stores := ((s.heldStores t).filter fun x => x.2.space == .device || x.2.space == .image).flatMap fun x => pagesOf x.2.addr.toNat x.2.bytes.length
  ((bounds ++ (t.fatalFrames.flatMap fun f => pagesOf f.vaddr.toNat 1) ++ stores).eraseDups).filter fun k =>
    match s.engineAddr p .load (4096 * k) with
    | .ok _ => true
    | .error _ => false

/-- n bytes of a process's memory, its images and spill stacks among them. -/
def State.viewVirt (s : State) (p : Process) (va n : Nat) : List Byte :=
  (List.range n).map fun i => match s.findImage p.pid (va + i) with
    | some (r, off) => s.imageByte r off
    | none => (s.readVirt p (va + i) 1).headD 0

/-- The records in the order of their kinds, those of memory as it stood at the fault; a second fault in the same context adds a kind 1 record (R218). -/
def State.dumpRecords (s : State) (g : Grid) (t : Team) (b : Block) (p : Process) : List (List Byte) :=
  let entries := (s.dieAt (dieOf t.core)).faults.filter fun f => f.team == t.uid
  let copies := (s.coreAt t.core).courier.filter fun q => q.team == t.uid
  let faults := t.fatalFrames.zipIdx.map fun (f, k) => dumpRecordOf k 1 0 (leBytes 512 f.pack)
  faults.take 1 ++
  [dumpRecord 2 0 ((List.range 0x91000).map t.imageByte),
   dumpRecord 3 0 ((List.range 0x51000).map b.imageByte),
   dumpRecord 4 0 (entries.flatMap fun f => leBytes 32 f.pack),
   dumpRecord 5 0 (Memory.readBytes ((t.faultAt.map Prod.snd).getD b.scratch) 0 b.scrsz),
   dumpRecord 6 0 (((s.heldStores t).flatMap fun x => storeRecords x.1 x.2).flatten)] ++
  (if p.dumpPolicy = 2 then (s.dumpPages g t p).map fun k => dumpRecord 7 (BitVec.ofNat 64 (4096 * k)) (s.viewVirt p (4096 * k) 4096) else []) ++
  [dumpRecord 8 0 (copies.flatMap fun q => leBytes 32 q.pack ++ leBytes 32 q.status.toNat)] ++ faults.drop 1

/-- The dump of a team. -/
def State.dumpOf (s : State) (g : Grid) (t : Team) (b : Block) (p : Process) : List Byte :=
  let rs := s.dumpRecords g t b p
  [0x53#8, 0x47#8, 0x44#8, 0x55#8, 0x4D#8, 0x50#8] ++ leBytes 2 1 ++ leBytes 4 g.gid ++ leBytes 4 p.pid ++ leBytes 4 g.tid ++
    leBytes 2 t.core ++ leBytes 1 t.slot ++ leBytes 1 p.dumpPolicy ++ leBytes 8 ((t.faultAt.map Prod.fst).getD 0).toNat ++ leBytes 4 rs.length ++
    leBytes 4 (vget s.hub.counters 1 0).toNat ++ List.replicate 88 0 ++ rs.flatten

/-- DUMP_CAPTURE (R215, R218): the dump of the first frozen team is written and kept, and its death proceeds. -/
def execDumpCapture (team : Nat) (s : State) : Out :=
  .next <| match s.team? team with
  | none => s
  | some t =>
    if s.hub.dumpQueue.head? != some team || t.run != .frozen then s
    else
      let s1 := s.modHub fun h => { h with dumpQueue := h.dumpQueue.drop 1 }
      let s2 := match s.gridOf t, s.blockOf t, s.procOf t with
        | some g, some b, some p =>
          let d : Dump := { gid := t.gid, bytes := s.dumpOf g t b p }
          (s1.modHub fun h => { h with dumps := d :: h.dumps }).say "DUMP" [t.gid]
        | _, _, _ => s1
      let t' := { t with run := .ready }
      (s2.setTeam t').die t' causeFATAL

end Sys2Proof.Machine
end

