-- ==== Sys2Proof/Machine/Manage.lean ====
section
/-! DEFINITION. Reset, boot and management (spec/19 R304 to R309; R230, R290): what the boot ROM, the security engine and the firmware
do. -/

namespace Sys2Proof.Machine

open Sys2Proof

/-! ### Images and reset (R305) -/

/-- The ROM accepts an image. -/
def imageOk (img : List Byte) : Bool := Config.imageSigned img && Config.fusedVersion ≤ Config.imageVersion img

/-- An image is loaded: its digest joins those since reset (R306). -/
def Hub.noteImage (h : Hub) (img : List Byte) : Hub := { h with digests := h.digests ++ [Config.shake256 img] }

/-- The image is loaded and begins to run. -/
def Hub.runImage (h : Hub) (img : List Byte) : Hub :=
  { h.noteImage img with booted := true, firmware := Config.shake256 img, version := some (Config.imageVersion img) }

/-- The ROM tries the image it fetches; without an acceptable one it waits. -/
def Hub.tryImage (h : Hub) (img : Option (List Byte)) : Hub :=
  match img with
  | some i => if imageOk i then h.runImage i else h
  | none => h

/-- After a reset the image that a load-image command left runs, else the one the ROM fetches (R305, R307). -/
def Hub.startImage (h : Hub) (img : Option (List Byte)) : Hub :=
  { h with nextImage := none }.tryImage (h.nextImage.orElse fun _ => img)

/-- What the security engine's non-volatile storage keeps over every reset (R307, R308), and the image for the next one. -/
def Hub.afterReset (h : Hub) : Hub :=
  { Hub.reset with
    lastSeq := h.lastSeq, corrected := h.corrected, latent := h.latent, consumed := h.consumed, partialWrites := h.partialWrites,
    thermalResets := h.thermalResets, bootCount := h.bootCount, thermal := h.thermal, nextImage := h.nextImage }

/-- A full reset: everything as at power-on, but for the non-volatile storage; the schedule goes on (log 1). -/
def State.fullReset (s : State) : State :=
  { State.reset with hub := s.hub.afterReset, inputs := s.inputs, turn := s.turn, tick := s.tick, replies := s.replies }

/-- The boot ROM: it counts the boot, calibrates the clocks (R230), enumerates the expanders (R304), and tries an image. Serai's
place for each die's cache region goes with it (R290). -/
def State.boot (s : State) (b : BootFetch) : State :=
  let s := s.modHub fun h =>
    Hub.startImage { h with bootCount := h.bootCount + 1, romRan := true, farPorts := b.farPorts, sysRate := b.sysRate, lmRate := b.lmRate } b.image
  (b.rcBases.zipIdx.take 4).foldl (fun s (x, d) => s.modDie d fun y => { y with rcBase := some x }) s

/-- A place for a die's cache region: aligned to 64 KiB, and the whole region in a contribution that the die's commons have after
reset (R131, R132, R290). -/
def regionOk (x : Word) : Bool :=
  x.toNat % 0x10000 == 0 && bitsOf x.toNat 31 27 == 0 && bitsOf x.toNat 25 18 < 144 &&
    bitsOf x.toNat 26 26 * 0x40000 + bitsOf x.toNat 17 0 + rcRegion ≤ CoreState.reset.contribution

/-- Serai's places for the four cache regions. -/
def bootOk (b : BootFetch) : Bool := b.rcBases.length == 4 && b.rcBases.all regionOk

/-- PART_RESET (R305). -/
def execPartReset (b : BootFetch) (s : State) : Out := .next <| if bootOk b then s.fullReset.boot b else s

/-- BOOT_IMAGE_RETRY (R305): the waiting ROM fetches again. An image that load-image left waits for the next reset. -/
def execBootImageRetry (image : Option (List Byte)) (s : State) : Out :=
  .next <| if s.hub.booted || !s.hub.romRan then s else s.modHub fun h => h.tryImage image

/-- Serai restarts: its processes and their grids are gone; memory and the hub's storage stay, and the image for the next reset
runs. -/
def State.warmReset (s : State) : State :=
  let keep (c : CoreState) : CoreState :=
    { c with reservation := none, breaks := Vector.replicate 4 none, courier := [], l1 := [], icache := [], tlb := [], notices := [] }
  let firmware (h : Hub) : Hub := { h with digests := if h.nextImage.isNone && h.booted then [h.firmware] else [] }
  { s with
    teams := [], blocks := [], grids := [], procs := [], watches := [], watchGrids := [], hits := [], heldBreaks := [], heldWatches := [], prompting := [],
    invalidating := [], walked := [], cores := s.cores.map keep,
    dies := s.dies.map (fun d => { d with faults := [], dtlb := [], l2 := [], privPools := [] }),
    hub := (firmware { s.hub with bootCount := s.hub.bootCount + 1, dumps := [], dumpQueue := [] }).startImage none }

/-! ### Management datagrams (R307) -/

def statusNames : List String := ["OK", "BAD_REQUEST", "UNAUTHORISED", "OUT_OF_RANGE", "NOT_FOUND", "BAD_SIGNATURE", "BUSY"]

/-- A reply: code, status and sequence of its header, and its body. -/
def State.answer (s : State) (code status : Nat) (q : Datagram) (body : List Nat) : State :=
  s.say ((statusNames[status]?).getD "OK") (code :: status :: q.seq.toNat :: body)

/-- The header and body that the signature covers. -/
def requestBytes (q : Datagram) (code : Nat) : List Byte :=
  leBytes 4 q.magic.toNat ++ leBytes 1 code ++ [q.flags] ++ leBytes 2 q.len.toNat ++ leBytes 8 q.seq.toNat ++ q.body

def isSigned (q : Datagram) : Bool := q.flags.getLsbD 0

/-- The header is that of a request. -/
def isRequest (q : Datagram) : Bool := q.magic == 0x534D4347#32 && q.len.toNat == q.body.length

/-- Why a request is turned away, if it is: its form, a signature that is missing or does not verify, a sequence that is not new. -/
def State.turnedAway (s : State) (code : Nat) (needs : Bool) (q : Datagram) : Option Nat :=
  if !(isRequest q) then some 1
  else if isSigned q then
    if q.sig.length != 114 || !Config.ownerSigned (requestBytes q code) q.sig then some 5
    else if q.seq ≤ s.hub.lastSeq then some 1
    else none
  else if needs then some 2 else none

/-- An accepted signed request raises the last accepted sequence. -/
def State.accepted (s : State) (q : Datagram) : State := if isSigned q then s.modHub fun h => { h with lastSeq := q.seq } else s

/-- Answers one request: while the ROM waits for an image, only the commands `rom` allows are answered (R305). -/
def State.request (s : State) (code : Nat) (needs rom : Bool) (q : Datagram) (f : State → State) : State :=
  if !s.hub.booted && !rom then s
  else
    match s.turnedAway code needs q with
    | some st => s.answer code st q []
    | none => f s

def byteNats (bs : List Byte) : List Nat := bs.map BitVec.toNat

/-- The security version of the image that runs, else the least that the ROM accepts. -/
def Hub.securityVersion (h : Hub) : Word := h.version.getD Config.fusedVersion

/-- IDENTIFY (R307). -/
def execIdentify (q : Datagram) (s : State) : Out :=
  .next <| s.request 1 false true q fun s =>
    let s := s.accepted q
    s.answer 1 0 q ([Config.serial.toNat, s.hub.securityVersion.toNat, s.hub.farPorts.toNat] ++ byteNats s.hub.firmware ++
      [s.hub.lastSeq.toNat])

/-- The report of R306, and its signature. -/
def Hub.report (h : Hub) (nonce : List Byte) : List Byte :=
  let r := nonce ++ leBytes 8 Config.serial.toNat ++ leBytes 4 h.securityVersion.toNat ++ h.digests.flatten
  r ++ Config.attestSign r

/-- ATTEST (R306, R307). -/
def execAttest (q : Datagram) (s : State) : Out :=
  .next <| s.request 2 false true q fun s =>
    if q.body.length != 32 then s.answer 2 1 q []
    else (s.accepted q).answer 2 0 q (byteNats (s.hub.report q.body))

/-- LOAD_IMAGE (R307): the image runs after the next reset. -/
def execLoadImage (q : Datagram) (image : Option (List Byte)) (s : State) : Out :=
  .next <| s.request 3 true true q fun s =>
    match image.filter imageOk with
    | some i =>
      ((s.accepted q).modHub fun h => { h.noteImage i with nextImage := some i }).answer 3 0 q []
    | none => s.ticked.answer 3 (Config.imageStatus s.tick % 6 + 1) q []

/-- RESET_WARM (R307): kind 0; a reset of kind 1 is RESET_FULL's. -/
def execResetWarm (q : Datagram) (s : State) : Out :=
  .next <| if leNat q.body = 1 then s
  else s.request 4 true false q fun s =>
    if leNat q.body != 0 || q.body.isEmpty then s.answer 4 3 q []
    else ((s.accepted q).answer 4 0 q []).warmReset

/-- RESET_FULL (R307): kind 1. The boot ROM then runs (PART_RESET). -/
def execResetFull (q : Datagram) (s : State) : Out :=
  .next <| if leNat q.body != 1 then s
  else s.request 4 true false q fun s => ((s.accepted q).answer 4 0 q []).fullReset

/-- READ_COUNTERS (R307). -/
def execReadCounters (q : Datagram) (s : State) : Out :=
  .next <| s.request 5 false false q fun s => (s.accepted q).answer 5 0 q (s.hub.counters.toList.map BitVec.toNat)

/-- A new commanded limit (R309): the effective limit falls to a lower one at once; it follows a higher one at once unless it has
been throttled below the old one. -/
def Hub.setLimit (h : Hub) (w : Word) : Hub :=
  { h with commanded := w, effective := if w < h.effective then w else if h.throttling.isNone && h.effective = h.commanded then w else h.effective,
           applying := [0, 1, 2, 3] }

/-- SET_POWER_LIMIT (R307, R309). -/
def execSetPowerLimit (q : Datagram) (s : State) : Out :=
  .next <| s.request 6 true false q fun s =>
    let w := leNat q.body
    if w < 1200 || w > 2600 then s.answer 6 3 q []
    else if !s.hub.applying.isEmpty then s.answer 6 6 q []
    else ((s.accepted q).modHub fun h => h.setLimit (BitVec.ofNat 32 w)).answer 6 0 q [w]

/-- RETRIEVE_DUMP (R307): the newest dump kept of the grid. -/
def execRetrieveDump (q : Datagram) (s : State) : Out :=
  .next <| s.request 7 true false q fun s =>
    match s.hub.dumps.find? fun d => d.gid == leNat q.body with
    | some d => (s.accepted q).answer 7 0 q (byteNats d.bytes)
    | none => s.answer 7 4 q []

/-- A thermal record (R308). -/
def ThermalRecord.bytes (r : ThermalRecord) : List Byte :=
  leBytes 4 0 ++ [r.kind, r.die] ++ leBytes 2 r.temp.toNat ++ leBytes 4 r.limit.toNat ++ leBytes 4 r.boot.toNat

/-- The body of the error log (R308). -/
def Hub.errorLog (h : Hub) : List Byte :=
  (List.range 144).flatMap (fun k =>
    leBytes 8 (Table.get h.corrected k).toNat ++ leBytes 8 (Table.get h.latent k).toNat ++ leBytes 8 (Table.get h.consumed k).toNat ++
      leBytes 8 (Table.get h.partialWrites k).toNat) ++
    leBytes 8 h.thermalResets.toNat ++ leBytes 4 h.bootCount.toNat ++ leBytes 4 h.thermal.length ++ h.thermal.flatMap ThermalRecord.bytes

/-- READ_ERROR_LOG (R307, R308). -/
def execReadErrorLog (q : Datagram) (s : State) : Out :=
  .next <| s.request 8 true false q fun s => (s.accepted q).answer 8 0 q (byteNats s.hub.errorLog)

/-- MANAGEMENT_BAD_REQUEST (R307): a code of no command, or a header that is none. -/
def execManagementBadRequest (code : BitVec 8) (q : Datagram) (s : State) : Out :=
  let n := code.toNat
  .next <| if !s.hub.booted && !(n == 1 || n == 2 || n == 3) then s
  else if (1 ≤ n && n ≤ 8) && isRequest q then s
  else s.answer n 1 q []

/-! ### Temperature (R309) -/

/-- A junction reading in units of 0.125 °C against a whole number of °C. -/
def hotterThan (t : BitVec 16) (deg : Int) : Bool := deg * 8 < t.toInt

def atLeast (t : BitVec 16) (deg : Int) : Bool := deg * 8 ≤ t.toInt

/-- Records a thermal event; the log keeps the 16 newest. -/
def Hub.record (h : Hub) (die : Nat) (temp : BitVec 16) (kind : Byte) : Hub :=
  { h with thermal := ({ boot := h.bootCount, limit := h.effective, temp := temp, die := BitVec.ofNat 8 die, kind := kind } :: h.thermal).take 16 }

/-- Throttling begins, at the first die that exceeds 105 °C. -/
def Hub.beginThrottle (h : Hub) (die : Nat) (temp : BitVec 16) : Hub :=
  if h.throttling.isNone then Hub.record { h with throttling := some die } die temp 0 else h

/-- THERMAL_THROTTLE_START (R309): a die's junction exceeds 105 °C. -/
def execThermalThrottleStart (die : Nat) (temp : BitVec 16) (s : State) : Out :=
  .next <| if die < 4 && hotterThan temp 105 then s.modHub fun h => h.beginThrottle die temp else s

/-- The effective limit after 10 ms. -/
def Hub.thermalStep (h : Hub) (temps : List (BitVec 16)) : Hub :=
  if temps.any fun t => hotterThan t 105 then
    let d := (temps.findIdx? fun t => hotterThan t 105).getD 0
    let h := h.beginThrottle d (temps[d]?.getD 0)
    { h with effective := if h.effective.toNat < 1300 then 1200 else h.effective - 100 }
  else if temps.any fun t => atLeast t 95 then h
  else
    let up : Word := if h.effective.toNat + 100 ≥ h.commanded.toNat then h.commanded else h.effective + 100
    match h.throttling with
    | some d => Hub.record { h with effective := up, throttling := none } d (temps[d]?.getD 0) 1
    | none => { h with effective := up }

/-- THROTTLE_STEP (R309): every 10 ms, with the junction reading of each die. -/
def execThrottleStep (temps : List (BitVec 16)) (s : State) : Out :=
  .next <| if temps.length = 4 then s.modHub fun h => h.thermalStep temps else s

/-- THERMAL_RESET (R309): a die reaches 115 °C. -/
def execThermalReset (die : Nat) (temp : BitVec 16) (b : BootFetch) (s : State) : Out :=
  .next <| if die < 4 && atLeast temp 115 && bootOk b then
    ((s.fullReset).modHub fun h => Hub.record { h with thermalResets := satInc h.thermalResets } die temp 2).boot b
  else s

end Sys2Proof.Machine
end

