-- ==== Sys2Proof/Machine/Preempt.lean ====
section
/-! DEFINITION. Pre-emption and resumption of blocks (spec/08 R187, R188; spec/09 R212, R213; spec/03 R54, R63, R75; R46, R172, R283,
R317): the events that begin them. -/

namespace Sys2Proof.Machine

open Sys2Proof

/-! ### When a block may be pre-empted (R188) -/

/-- No core passes the test. -/
def noCore (fits : Nat → Bool) : Bool := !(List.range 576).any fits

/-- Some pending block of the grid, pre-empted, of a batch, of an estate handler, fresh or a shadow, fits on no core. -/
def State.waitsForCore (s : State) (h : Grid) : Bool :=
  let team (core : Nat) : Bool := s.admits h core h.askTeam
  (s.blocks.any fun b => b.gid == h.gid && !b.resident && !b.complete && !b.preempting &&
    noCore fun c => s.resumeFits h b c && (!h.gang || s.entering == some h.gid || s.gangResumes h)) ||
  (!h.batches.isEmpty && noCore team) || h.handlersDue.any (fun x => noCore fun c => x.mayGo c && team c) ||
  (s.freshDue h && noCore (s.freshFits h)) || (s.shadowsDue h).any fun o => noCore (s.shadowFits h o)

/-- Some pending block of a priority above p fits on no core. -/
def State.starved (s : State) (p : Nat) : Bool := s.grids.any fun h => h.prio > p && s.waitsForCore h

/-- The block can be pre-empted now: neither the debugger nor a dump holds its teams, and it is not still resuming. One that cannot is
passed over (DESIGN CHOICE, log 38). -/
def State.yields (s : State) (b : Block) : Bool :=
  b.resident && !b.complete && !b.preempting && !b.resuming && !s.gridFrozen b.gid &&
    ((s.teamsOf b.uid).all fun t => t.stop.isNone) && (s.teamsOf b.uid).any fun t => t.cause == 0

/-- The blocks that go with b: all the resident ones of a gang grid. -/
def State.together (s : State) (g : Grid) (b : Block) : List Block :=
  if g.gang then s.blocks.filter fun x => x.gid == g.gid && x.resident && !x.complete else [b]

/-- No other block goes first: of a lower priority, or of the same one and admitted later. A block that was pre-empted and resumed counts
by its first admission (DESIGN CHOICE, log 38). -/
def State.lastIn (s : State) (g : Grid) (b : Block) : Bool :=
  s.blocks.all fun x =>
    match s.grid? x.gid with
    | some h =>
      !(s.yields x && (!h.gang || (s.together h x).all s.yields) &&
        (h.prio < g.prio || (h.prio == g.prio && h.gid != g.gid && x.uid > b.uid) || (h.gid == g.gid && !g.gang && x.uid > b.uid)))
    | none => true

/-! ### Pre-emption (R212, R213) -/

/-- Every dirty scratchpad line goes to the save area. -/
def Block.saveLines (b : Block) : Block :=
  { b with saveArea := b.sdirty.foldl (fun m k => Memory.writeBytes m (256 * k) (Memory.readBytes b.scratch (256 * k) 256)) b.saveArea }

/-- Every instruction that the block's teams had issued has finished (R212). -/
def State.allFinished (s : State) (blk : Nat) : Bool := (s.teamsOf blk).all fun t => !t.finishing

/-- Once every issued instruction and every copy of a block that is being pre-empted is complete, the part writes SDIRTY, and the save handlers begin or the part
saves the scratchpad itself; once they have ended, pre-emption ends (R212). -/
def State.goOnPreempt (s : State) (g : Grid) (blk : Nat) : State :=
  match s.block? blk with
  | none => s
  | some b =>
    if b.saving then s.finishPreempt blk
    else if s.hasCopies b || !s.allFinished blk then s
    else
      let s := (s.teamsOf blk).foldl (fun s t => if t.mustFinish.isSome && t.cause = 0 then s.quiesce t.uid else s) s
      let s := s.modBlock blk fun b => { b.saveDirty with saving := true }
      if g.saveh = 0 then (s.modBlock blk Block.saveLines).finishPreempt blk
      else
        (s.teamsOf blk).foldl (fun s t => if t.cause = 0 then s.modTeam t.uid fun t => t.enterContext b g false g.saveh else s) s

/-- The block has its save area, which reads zero when it is assigned, at its first pre-emption (R213). -/
def Block.assignSave (b : Block) (saves : List (Nat × Double)) : Block :=
  if b.saveAssigned then b else { b with saveAssigned := true, saveBase := (saves.lookup b.uid).getD 0 }

/-- The block's teams stop; its matrix instructions stay unfinished (R283). -/
def State.beginPreempt (s : State) (g : Grid) (saves : List (Nat × Double)) (blk : Nat) : State :=
  let s := (s.teamsOf blk).foldl (fun s t => if t.cause = 0 then s.quiesce t.uid else s) s
  (s.modBlock blk fun b => { b.assignSave saves with preempting := true }).goOnPreempt g blk

/-- PREEMPT (R188): pre-emption begins, unless another block is still being pre-empted; on one that is, it goes on as soon as nothing
is left to wait for. -/
def execPreempt (gid : Nat) (call : PreemptCall) (s : State) : Out :=
  .next <| match s.grid? gid, s.block? call.block with
  | some g, some b =>
    if b.gid != gid then s
    else if b.preempting then s.goOnPreempt g b.uid
    else if s.blocks.any Block.preempting then s
    else
      let bs := s.together g b
      if s.yields b && bs.all s.yields && s.starved g.prio && s.lastIn g b && s.savesOk g bs call.saves then
        bs.foldl (fun s x => s.beginPreempt g call.saves x.uid) s
      else s
  | _, _ => s

/-! ### Resumption (R212, R54, R190) -/

/-- Quadrants and slots of teams that enter a core which holds others, in their order. -/
def placeTeams (held : List Team) : List Team → List (Nat × Nat × Nat)
  | [] => []
  | t :: rest =>
    let q := quadFor held
    let k := slotFor held
    (t.uid, q, k) :: placeTeams ({ t with quad := q, slot := k } :: held) rest

/-- The holding of the matrix unit is of the core that the team runs on (R261). -/
def Team.moveUnit (t : Team) (core : Nat) : Team :=
  { t with estate := t.estate.map fun e => if e.kind = 3 then { e with addr := BitVec.ofNat 64 core } else e }

/-- Every dirty line of the team is written back, and its lines are dropped from the core that it leaves (R54). -/
def Team.leaveCore (t : Team) : Team := t.lines.foldl Team.evict t

/-- The block stands on the core, with its image reloaded and its scratchpad zero. -/
def State.reenter (s : State) (b : Block) (core : Nat) : State :=
  let live := (s.teamsOf b.uid).filter fun t => t.cause == 0
  let s := (placeTeams (s.slotTeams core) live).foldl (fun s x =>
    s.modTeam x.1 fun t =>
      let t := if t.core = core then t else t.leaveCore
      (({ t with core := core, quad := x.2.1, slot := x.2.2 } : Team)).moveUnit core) s
  let s := match live.find? Team.holdsMatrix with
    | some t => s.modCore core fun c => { c with reservation := some t.uid }
    | none => s
  s.modBlock b.uid fun b => { b.reload with core := core, resident := true, resuming := true, scratch := [] }

/-- Resumption begins: the restore handlers run, or the part restores the scratchpad itself. -/
def State.beginResume (s : State) (g : Grid) (b : Block) (core : Nat) : State :=
  let s := (s.writeHeld g core).reenter b core
  if g.resth = 0 then (s.modBlock b.uid fun b => { b with scratch := b.saveArea }).finishResume b.uid
  else
    match s.block? b.uid with
    | none => s
    | some b =>
      (s.teamsOf b.uid).foldl (fun s t => if t.cause = 0 then s.modTeam t.uid fun t => t.enterContext b g true g.resth else s) s

/-- PREEMPT_RESUME (R187, R54): a pre-empted block resumes, or, on one that is resuming, resumption ends when nothing is left to
wait for. -/
def execPreemptResume (gid blk core : Nat) (s : State) : Out :=
  .next <| match s.grid? gid, s.block? blk with
  | some g, some b =>
    if b.gid != gid then s
    else if b.resuming then s.finishResume blk
    else if s.resumeFits g b core && s.offered g core 0 && (!g.gang || s.entering == some gid || s.gangResumes g) then
      s.beginResume g b core
    else s
  | _, _ => s

end Sys2Proof.Machine
end

