-- ==== Sys2Proof/Machine/Debug.lean ====
section
/-! DEFINITION. xanori, the debugger, and what it moves in the part (spec/11 R219 to R229; spec/12 R232 to R236; spec/14 R258; R284 to
R286, R310, R313). A command's output is a reply. -/

namespace Sys2Proof.Machine

open Sys2Proof

/-! ### Watchpoints (R223, R224, R234, R235) -/

/-- The value keeps every fate of R223. An ADDR that is not a multiple of 2^LOG2LEN has no fate there: it is taken, and the range begins
at it (DESIGN CHOICE, log 30). -/
def watchOk (v : BitVec 128) : Bool :=
  let f (hi lo : Nat) : Nat := bitsOf v.toNat hi lo
  f 63 58 == 0 && f 57 56 != 3 && f 55 52 ≤ 12 && (f 51 49 != 0 || f 0 0 == 0) && f 48 47 != 3 && f 46 1 == 0

/-- WATCHPOINT_WRITE (R223). -/
def execWatchpointWrite (core idx : Nat) (v : BitVec 128) (s : State) : Out :=
  .next <| if core ≥ 576 || idx ≥ 4 then s
  else if watchOk v then
    { s with watches := Table.set s.watches (4 * core + idx) v, watchGrids := s.watchGrids.filter fun x => x.1 != 4 * core + idx }
  else s.say "BAD_WATCH" [core, idx]

/-- Hits of one access: of the same watchpoint and instruction. -/
def WatchHit.same (x y : WatchHit) : Bool :=
  x.home == y.home && x.team == y.team && x.index == y.index && x.pc == y.pc && x.after == y.after

/-- The team's grid has a debugger. -/
def State.debugs (s : State) (t : Team) : Bool := (s.gridOf t).any Grid.debugged

/-- A WATCHPOINT trap of team t0 leaves SKID in the frame that it wrote: the image's, or the one that its dump keeps (R203, R216). -/
def Team.withSkid (t0 t : Team) (n : Nat) : Team :=
  let put (f : TrapFrame) : TrapFrame := { f with skid := BitVec.ofNat 16 n }
  if t.fatal.length != t0.fatal.length then { t with fatal := t.fatal.mapIdx fun i f => if i = t0.fatal.length then put f else f }
  else if t.frame.active != t0.frame.active then { t with frame := put t.frame }
  else t

/-- The requester takes its WATCHPOINT: SKID counts what it has committed since the access. A debugged grid's team stops (R234);
another's enters its trap handler (R201, R203); the younger instructions that have issued are captured after the event (R202). -/
def State.takeHit (s : State) (t : Team) (h : WatchHit) (lanes : Mask) (vaddr : Double) : State :=
  let c : Ctx := { i := .nop { lua := false, lub := false, stall := 0 }, word := h.word, lit := h.lit, len := 4, pc := h.pc, uid := t.uid,
                   mode := t.mode, rp := none }
  let ti : TrapInfo := { trapOf 0x12 with vaddr := vaddr, info := BitVec.ofNat 64 h.index }
  let skid := (t.insn - h.after).toNat
  if s.debugs t then s.setTeam (t.stopFor c ti lanes t.pc skid true)
  else (s.takeTrap c ti lanes none t.pc).modTeam t.uid fun u => t.withSkid u skid

/-- A hit's team can take it now: a debugged grid's at once, another's between two instructions (log 30). -/
def State.hitMayGo (s : State) (t : Team) : Bool := s.debugs t || (s.moves t && t.run == .ready && t.replay.isEmpty)

/-- No earlier hit of the home core waits to be listed (R235). -/
def State.firstHit (s : State) (h : WatchHit) : Bool :=
  match s.hits.find? fun x => x.home == h.home && (s.team? x.team).any s.debugs with
  | some x => x.same h
  | none => true

/-- WATCHPOINT_HIT (R224, R235): the report of a performed access reaches its team. xanori lists the hits of a debugged grid by home
core, and those of one core in its cycle order: home core, watchpoint, team and lanes. Of a team that a dump has frozen, and that its trap would end, it is a second
fault of the same context (R218). -/
def execWatchpointHit (hit : Nat) (s : State) : Out :=
  .next <| match s.hits[hit]? with
  | none => s
  | some h =>
    let all := s.hits.filter h.same
    let homes := all.foldl (fun m x => m ||| x.homes) 0
    let s1 := { s with hits := s.hits.filter fun x => !h.same x }
    match s.team? h.team with
    | some t =>
      if s.debugs t && !s.firstHit h then s
      else
        let s1 := if s.debugs t then s1.say "hit" (h.home :: h.index :: t.uid :: maskLanes homes) else s1
        if t.cause != 0 then s1
        else if t.run == .frozen then
          (if s.trapsFatal t then s1.takeHit t h (t.placesOf homes) (all.foldl (fun a x => if x.vaddr < a then x.vaddr else a) h.vaddr) else s1)
        else if s.hitMayGo t then s1.takeHit t h (t.placesOf homes) (all.foldl (fun a x => if x.vaddr < a then x.vaddr else a) h.vaddr)
        else s
    | none => s1

/-! ### Stop and resume notices (R225 to R227) -/

/-- Skid of each row: the instructions issued since, with a pass for the row. -/
def Team.skids (t : Team) (since : Nat) : List Nat :=
  let l := t.history.take (t.issuedN - since)
  (List.range t.ngrp).map fun g => (l.filter fun w => w.getLsbD g).length

/-- The team waits at a barrier, an event or a fault, or for a token (R227). -/
def Team.waitsThere (t : Team) : Bool :=
  match t.run with
  | .waiting (.bar _ _) | .waiting (.barw _ _) | .waiting (.gbar _) | .waiting (.evwait _ _) | .waiting (.mloop _) => true
  | .choosing _ | .wholePath _ | .queueFull => true
  | _ => false

/-- A team stops at a notice; one that is stopped already is left alone, and one that waits at a barrier, event, fault or token has
skid 0 (R227). -/
def Team.stopAt (t : Team) (since : Option (List (Nat × Nat))) : Team :=
  if t.stop.isSome || t.cause != 0 then t
  else
    let skid := match since with
      | some l => if t.waitsThere then List.replicate t.ngrp 0 else t.skids ((l.lookup t.uid).getD t.issuedN)
      | none => List.replicate t.ngrp 0
    { t with stop := some { reason := 2, skid := skid, exact := since.isSome, row := none, kept := none } }

/-- Applies f to the teams of a grid on a core. -/
def State.onGridTeams (s : State) (gid core : Nat) (f : Team → Team) : State :=
  { s with teams := s.teams.map fun t => if t.gid = gid ∧ t.core = core then f t else t }

def State.dropNotice (s : State) (core : Nat) (n : Notice) : State := s.modCore core fun c => { c with notices := c.notices.erase n }

/-- STOP_NOTICE (R225): the core stops issue for every team of the debugged grid. -/
def execStopNotice (core : Nat) (s : State) : Out :=
  .next <| match (s.coreAt core).notices.find? fun n => !n.resume with
  | none => s
  | some n => (s.dropNotice core n).onGridTeams n.gid core fun t => t.stopAt n.since

/-- The team stands at an instruction breakpoint that stopped it (R258). -/
def Team.atBreak (t : Team) : Bool :=
  match t.stop with
  | some st => st.reason == 0 && ((st.kept.getD t.frame).info.toNat < 4)
  | none => false

/-- The address at which a stopped team issues once without the breakpoint check: that of the breakpoint that stopped it, when it still
stands there (R258). -/
def Team.breakToPass (t : Team) : Option Double :=
  if t.atBreak && t.stop.any (fun st => (st.kept.getD t.frame).tpc == t.pc) then some t.pc else none

/-- RESUME_NOTICE (R227): the core's teams of the grid go on. -/
def execResumeNotice (core : Nat) (s : State) : Out :=
  .next <| match (s.coreAt core).notices.find? fun n => n.resume with
  | none => s
  | some n => (s.dropNotice core n).onGridTeams n.gid core fun t =>
      if t.stop.isSome then { t with stop := none, grant := false, passBreak := t.breakToPass } else t

/-- Resume notices go to the cores that hold stopped teams of the grid (R227). -/
def State.sendResume (s : State) (gid : Nat) : State :=
  (List.range 576).foldl (fun s n =>
    if s.teams.any fun t => t.gid == gid && t.core == n && t.stop.isSome && t.cause == 0 then
      s.modCore n fun c => { c with notices := c.notices ++ [{ gid := gid, resume := true, since := none }] }
    else s) s

/-- The entry is pending: of the team's accesses, or of its copies (R142, R152). -/
def State.pendingOfTeam (s : State) (t : Team) (ftag : BitVec 12) (copy : Bool) : Bool :=
  (s.dieAt (dieOf t.core)).faults.any fun f =>
    f.index == ftag && f.team == t.uid && f.status == 0 && (if copy then 4 ≤ f.access.toNat else f.access.toNat < 4)

/-- Copies of the batches up to number n that are not complete. -/
def Team.openCopies (t : Team) (n : Word) : List Nat :=
  match t.batchOf n with
  | none => []
  | some k => ((t.batches.filter fun b => b.1 ≤ k).flatMap Prod.snd).filterMap fun i => if i.done then none else some i.req

/-- The pending fault-queue entries on which alone a team waits: those of the run of DEFERRED entries on top of its stack, none of them
resolved; those of the pass whose whole path waits; or those at which every copy that CWAIT still waits for is paused (R29, R141, R152). -/
def State.waitedFaults (s : State) (t : Team) : List Nat :=
  match t.run with
  | .choosing _ =>
    let tags := (deferredRun t.stack).map PathEntry.ftag
    if tags.all fun x => s.pendingOfTeam t x false then tags.map BitVec.toNat else []
  | .wholePath l => (l.filter fun x => s.pendingOfTeam t x.1 false).map fun x => x.1.toNat
  | .waiting (.cwait n) =>
    let paused := (t.openCopies n).map fun r => ((s.coreAt t.core).courier.find? fun q => q.id == r).bind CopyReq.paused
    if paused.all fun x => x.any fun ix => s.pendingOfTeam t ix true then paused.filterMap fun x => x.map BitVec.toNat else []
  | _ => []

/-- Those entries, when its process's Porter is held (R219). -/
def State.heldFaults (s : State) (t : Team) : List Nat := if (s.procOf t).any Process.porterHold then s.waitedFaults t else []

/-- What a waiting team waits on, as xanori lists it: an event, a barrier, a promise, a lock, or held fault entries (R285). -/
def State.waitsOn (s : State) (t : Team) : Option (String × List Nat) :=
  match t.run with
  | .waiting (.evwait _ b) => some ("waiting: event", [t.uid, b])
  | .waiting (.bar o _) => some ("waiting: barrier", [t.uid, o])
  | .waiting (.barw o _) => some ("waiting: barrier", [t.uid, o])
  | .waiting (.gbar n) => some ("waiting: grid barrier", [t.uid, n])
  | .waiting (.await _ w) => some ("waiting: promise", [t.uid, w.toNat])
  | .waiting (.lock _ w _) => some ("waiting: lock", [t.uid, w.toNat])
  | _ => if (s.heldFaults t).isEmpty then none else some ("waiting: fault", t.uid :: s.heldFaults t)

/-- A block, a batch or a handler of the grid waits for admission, or a pre-empted block for a core. -/
def State.awaitsAdmission (s : State) (g : Grid) : Bool :=
  g.admitted < g.count || !g.batches.isEmpty || !g.handlersDue.isEmpty || !(s.shadowsDue g).isEmpty ||
    s.blocks.any fun b => b.gid == g.gid && !b.resident && !b.complete

/-- `run` and `continue` return to the prompt: every team of the grid is stopped, has ended or waits only on held entries (R219); or
nothing of the grid waits for admission and every team that is neither stopped nor ended waits (R285). -/
def State.returnsToPrompt (s : State) (g : Grid) : Bool :=
  let going := s.teams.filter fun t => t.gid == g.gid && t.cause == 0 && t.stop.isNone
  (g.done || s.teams.any fun t => t.gid == g.gid) && going.all (fun t => !(s.heldFaults t).isEmpty) ||
    !s.awaitsAdmission g && going.all fun t => (s.waitsOn t).isSome

/-- xanori is back at the prompt, and lists each waiting team with what it waits on (R285). -/
def State.toPrompt (s : State) (g : Grid) : State :=
  let going := s.teams.filter fun t => t.gid == g.gid && t.cause == 0 && t.stop.isNone
  (going.filterMap s.waitsOn).foldl (fun s x => s.say x.1 x.2)
    ({ s with prompting := s.prompting.filter fun x => x != g.gid }.say "prompt" [g.gid])

/-- CONTINUE (R219, R227, R258, R285): at the prompt, resume notices go to the cores that hold stopped teams of the grid; while a `run` or a
`continue` has not returned, it returns to the prompt as soon as its condition holds (log 57). -/
def execXanContinue (gid : Nat) (s : State) : Out :=
  .next <| match s.grid? gid with
  | none => s
  | some g =>
    if !g.debugged then s
    else if s.prompting.contains gid then (if s.returnsToPrompt g then s.toPrompt g else s)
    else { s.sendResume gid with prompting := s.prompting ++ [gid] }

/-! ### run (R232, R310) -/

/-- Each parameter is a word or a float. -/
def paramOk (p : ParamEdit) : Bool := p.kind == .word || p.kind == .float

/-- The blocks named are the grid's, and no core is named for more than it admits. -/
def State.placementOk (s : State) (g : Grid) : Bool :=
  g.place.all fun x =>
    x.1 < g.count && x.2 < 576 &&
      (g.place.filter fun y => y.2 == x.2).length ≤ g.perCore (0x200000 - (s.coreAt x.2).contribution)

/-- Serai grants a commons window over every contribution of each die that holds a named core. -/
def State.grantPlaces (s : State) (pid : Nat) (place : List (Nat × Nat)) : State :=
  ((place.map fun x => dieOf x.2).eraseDups).foldl (fun s d =>
    s.modProc pid fun p =>
      { p with windows := (d, (List.range 144).map fun c => 144 * d + c) :: p.windows.filter fun w => w.1 != d }) s

/-- The grid of a debug launch takes the break and watch commands given before it (R233, R258, R284), and `run` waits for it. -/
def State.adopt (s : State) (gid : Nat) : State :=
  if (s.grid? gid).isNone then s
  else
    { s.modGrid gid (fun g => { g with heldBreaks := s.heldBreaks, heldWatches := s.heldWatches }) with
      heldBreaks := [], heldWatches := [], prompting := s.prompting ++ [gid] }

/-- RUN (R232, R310): a debug launch. -/
def execXanRun (r : RunCommand) (s0 : State) : Out :=
  let c := { r.call with debugged := true }
  let g := newGrid s0.nextGid c r.place
  .next <| if !s0.hub.booted then s0
  else if !r.params.all paramOk then s0.say "refused: parameter" []
  else if !s0.placementOk g then s0.say "refused: placement" []
  else
    let s := s0.callProcess c
    match s.proc? c.pid with
    | none => s
    | some p =>
      let s := r.params.foldl (fun s x => s.writeVirtNat p (g.param.toNat + x.offset) 4 x.value.toNat) s
      ((s.grantPlaces c.pid r.place).launch c r.place).adopt s0.nextGid

/-! ### The Porter and pages (R219, R220) -/

/-- PORTER_HOLD (R219). -/
def execXanPorterHold (pid : Nat) (s : State) : Out := .next (s.modProc pid fun p => { p with porterHold := true })

/-- What an entry's access needs of its page (R140, R142). -/
def FaultEntry.need (f : FaultEntry) : Need := if f.access = 3 then .fetch else if f.access = 0 || f.access = 4 then .load else .store

/-- Maps the page of an entry, if it can be mapped; one that its access can use already, or that has been mapped since the entry found it
not valid, stays as it is. -/
def State.porterMap (s : State) (f : FaultEntry) (page : Option Nat) (tables : List Nat) : Option State :=
  match s.faultProc f with
  | none => some s
  | some p =>
    match s.engineAddr p f.need f.vaddr.toNat, s.walk p.root f.vaddr.toNat with
    | .ok _, _ => some s
    | .error _, .page _ => if f.cause = 0 then some s else s.mapPage p f.vaddr.toNat page tables
    | .error _, .fault _ _ => s.mapPage p f.vaddr.toNat page tables

/-- Maps the page of a pending entry and writes STATUS 1. -/
def State.porterResolve (s : State) (die idx : Nat) (page : Option Nat) (tables : List Nat) : State :=
  match s.pendingFault die idx with
  | none => s
  | some f =>
    match s.porterMap f page tables with
    | some s => s.resolveFault die idx 1
    | none => s

/-- PORTER_RESOLVE (R219): with the physical page, and pages for the tables that the walk lacks. -/
def execXanPorterResolve (die idx : Nat) (page : Nat × List Nat) (s : State) : Out :=
  .next <| if die ≥ 4 then s else s.porterResolve die idx (some page.1) page.2

/-- Pending entries of a process as (index, die), in ascending INDEX order. -/
def State.pendingOf (s : State) (pid : Nat) : List (Nat × Nat) :=
  (List.range 4096).flatMap fun i =>
    ((List.range 4).filter fun d => (s.pendingFault d i).any fun f => (s.faultProc f).any fun p => p.pid == pid).map fun d => (i, d)

/-- Resolves a pending entry with STATUS 1, its page mapped where that can be. -/
def State.releaseOne (s : State) (die idx : Nat) (page : Option (Nat × List Nat)) : State :=
  match s.pendingFault die idx with
  | none => s
  | some f => ((s.porterMap f (page.map Prod.fst) ((page.map Prod.snd).getD [])).getD s).resolveFault die idx 1

/-- PORTER_RELEASE (R219): every pending entry is resolved, each with its page of the list, and the hold ends. -/
def execXanPorterRelease (pid : Nat) (pages : List (Nat × List Nat)) (s : State) : Out :=
  .next (((s.pendingOf pid).zipIdx.foldl (fun s x => s.releaseOne x.1.2 x.1.1 pages[x.2]?) s).modProc pid fun p => { p with porterHold := false })

/-- The queued stores of a range are performed, as an invalidation of it asks (R139). -/
def State.drainRange (s : State) (r : TransRange) : State :=
  (s.teams.filter fun t => t.storesIn r).foldl (fun s t => s.drainAll t.uid) s

/-- Evicts one page (R220): its queued stores are performed, its contents kept, its entry made not valid, and the range invalidated. A
page that a larger leaf maps has no level-0 entry, and stays (DESIGN CHOICE, log 58). Of an uncorrectable sector the backing store keeps
the bytes that memory holds, and they come back as good data (DESIGN CHOICE, log 58). -/
def State.evictPage (s : State) (pid va : Nat) : State :=
  match s.proc? pid with
  | none => s
  | some p =>
    match s.leafSlot p va with
    | none => s
    | some a =>
      let e := Memory.readNat s.mem a 8
      if e % 2 = 0 || s.malformed e 0 (va % 2 ^ 57) then s
      else
        let r : TransRange := { asn := p.asn, va := BitVec.ofNat 64 (va / 4096 * 4096), len := 4096 }
        let s := (s.drainRange r).noteVirt p (va / 4096 * 4096) 4096
        let kept := Memory.writeBytes [] 0 (Memory.readBytes s.mem (bitsOf e 47 12 * 4096) 4096)
        let s := (s.writeHome (.phys a) (leBytes 8 (e - 1)) false).modProc pid fun p =>
          { p with backing := (pageNumber va, kept) :: p.backing.filter fun x => x.1 != pageNumber va }
        s.purge r

/-- PAGE_EVICT (R220): only while every team of the process is stopped, and no dump holds stores of one (R215). -/
def execXanPageEvict (pid : Nat) (pages : List Double) (s : State) : Out :=
  let running := s.teams.any fun t => t.cause == 0 && (t.stop.isNone || s.gridFrozen t.gid) && (s.procOf t).any fun p => p.pid == pid
  .next <| if running then s.say "refused: process running" [] else pages.foldl (fun s va => s.evictPage pid va.toNat) s

/-! ### Lane focus and stepping (R47, R228, R236) -/

/-- Forces the mask to `keep`; the other running threads go into a FOCUS entry, if there are any. -/
def Team.focusOn (t : Team) (keep : Mask) (alone : Bool) : Team :=
  let rest := maskMinus t.running keep
  { t with mask := keep, focus := some alone,
           stack := if rest = 0 then t.stack else { pathEntry t.pc rest with kind := 2 } :: t.stack }

/-- Lane focus of a stopped team. A team that owes a replay performs it first, for the lanes that it captured: xanori refuses until then
(DESIGN CHOICE, log 57). -/
def State.focusLane (s : State) (team lane : Nat) (alone : Bool) : State :=
  match s.team? team with
  | none => s
  | some t =>
    if t.stop.isNone || t.run != .ready || t.cause != 0 || lane ≥ t.threads.length then s
    else
      let p := (t.thread lane).pos
      let keep := t.running &&& (if alone then maskOne p else onlyRow t.running (p / 32))
      if !maskHas t.running p then s.say "refused: lane not running" [lane]
      else if !t.replay.isEmpty then s.say "refused: replay owed" [lane]
      else if maskMinus t.running keep != 0 && t.stack.length ≥ 256 then s.say "refused: pending-path stack full" [lane]
      else s.setTeam (t.focusOn keep alone)

/-- FOCUS_LANE (R228). -/
def execXanFocusLane (team lane : Nat) (s : State) : Out := .next (s.focusLane team lane false)

/-- FOCUS_LANE_ALONE (R228, R236). -/
def execXanFocusLaneAlone (team lane : Nat) (s : State) : Out := .next (s.focusLane team lane true)

/-- FOCUS_OFF (R228): FOCUS entries become PATH entries. -/
def execXanFocusOff (team : Nat) (s : State) : Out :=
  .next <| s.modTeam team fun t =>
    if t.focus.isNone then t
    else { t with focus := none, stack := t.stack.map fun e => if e.kind = 2 then { e with kind := 0 } else e }

/-- BAR, BARW or GBAR. -/
def isBarrier (w : Word) : Bool := (fieldsOf w).op == 0x1C1 || (fieldsOf w).op == 0x1C3 || (fieldsOf w).op == 0x1C4

/-- A focused step concerns the row of the focused lane; any other step the whole team (R221). -/
def Team.stepRow (t : Team) (st : StopState) : StopState :=
  { st with row := if t.focus.isSome then (lowestLane t.running).map (· / 32) else none }

/-- A stopped team may issue one instruction. -/
def State.stepTeam (s : State) (team : Nat) (force : Bool) : State :=
  match s.team? team with
  | none => s
  | some t =>
    if t.stop.isNone || t.cause != 0 then s
    else if !force && t.focus == some true && (s.nextWord t).any isBarrier then s.say "barrier ahead: focus alone would not return" [team]
    else s.setTeam { t with grant := true, passBreak := t.breakToPass, stop := t.stop.map t.stepRow }

/-- STEP (R228, R236). -/
def execXanStep (team : Nat) (s : State) : Out := .next (s.stepTeam team false)

/-- STEP_FORCE (R236). -/
def execXanStepForce (team : Nat) (s : State) : Out := .next (s.stepTeam team true)

/-! ### set (R229) -/

/-- The registers that a write of a name and lanes writes. -/
def namedRefs (r : RegName) (lanes : List Nat) : List RegRef :=
  match r with
  | .v i => lanes.map fun h => .v h i
  | .s i => [.s i]
  | .p i => lanes.map fun h => .p h i

def regExists (t : Team) : RegRef → Bool
  | .v h i => h < t.threads.length && t.hasV i.toNat
  | .s i => t.hasS i.toNat
  | .p h i => h < t.threads.length && t.hasP i.toNat

/-- A load or an atomic reply is on its way to one of the registers. -/
def Team.awaits (t : Team) (refs : List RegRef) : Bool := t.inflight.any fun f => f.writes.any fun w => refs.contains w.1

/-- Cancels the write-backs to these registers. -/
def Team.cancelWrites (t : Team) (refs : List RegRef) : Team :=
  { t with inflight := (t.inflight.map fun f => { f with writes := f.writes.filter fun w => !refs.contains w.1 }).filter fun f => !f.writes.isEmpty }

def Team.debugWrite (t : Team) (refs : List RegRef) (v : Word) : Team :=
  refs.foldl (fun t r => { t.lateWrite r v with recent := dropRefs t.recent r }) t

def State.setRegister (s : State) (team : Nat) (r : RegName) (lanes : List Nat) (v : Word) (force : Bool) : State :=
  match s.team? team with
  | none => s
  | some t =>
    let refs := namedRefs r lanes
    if t.stop.isNone || t.cause != 0 || !refs.all (regExists t) then s
    else if !force && t.awaits refs then s.say "BUSY" [team]
    else (s.setTeam ((t.cancelWrites refs).debugWrite refs v)).scrubRegs t refs

/-- SET (R229). -/
def execXanSet (team : Nat) (r : RegName) (lanes : List Nat) (v : Word) (s : State) : Out := .next (s.setRegister team r lanes v false)

/-- SET_FORCE (R229). -/
def execXanSetForce (team : Nat) (r : RegName) (lanes : List Nat) (v : Word) (s : State) : Out := .next (s.setRegister team r lanes v true)

/-! ### watch and break (R222, R233, R258, R284) -/

def powerOfTwo (n : Nat) : Option Nat := (List.range 13).find? fun k => 2 ^ k == n

/-- The value that a watch command writes. -/
def watchValue (c : WatchCommand) (log2 : Nat) : BitVec 128 :=
  BitVec.ofNat 128 (1 + c.bcast.toNat * 2 ^ 47 + c.kinds.toNat * 2 ^ 49 + log2 * 2 ^ 52 + c.space.toNat * 2 ^ 56 + c.addr.toNat * 2 ^ 64)

/-- The home core of a watch command; none stands for that of the grid's first block. -/
def watchHome (c : WatchCommand) : Option Nat :=
  if c.space = 2 then c.die.map fun d => d * 144 + bitsOf c.addr.toNat 25 18 else c.core

/-- The cores that a watch command names exist, and a commons address's CORE is one of its die's (R131, R233). -/
def watchCoresOk (c : WatchCommand) : Bool :=
  c.die.all (fun d => d < 4) && c.core.all (fun n => n < 576) && (c.space != 2 || bitsOf c.addr.toNat 25 18 < 144)

/-- A watch command goes to the watchpoint of its home core, or is held until the grid's first block is admitted. -/
def State.placeWatch (s : State) (c : WatchCommand) (v : BitVec 128) : State :=
  match s.grid? c.gid with
  | none => { s with heldWatches := s.heldWatches ++ [(watchHome c, v)] }
  | some g =>
    if g.admitted = 0 then s.modGrid c.gid fun g => { g with heldWatches := g.heldWatches ++ [(watchHome c, v)] }
    else
      let first := ((s.blocks.find? fun b => b.gid == c.gid).map Block.core).getD 0
      s.writeWatch c.gid (if c.space = 2 then c.die.getD (dieOf first) * 144 + bitsOf c.addr.toNat 25 18 else c.core.getD first) v

/-- The grid of a debugger's command: it is debugged, or not launched yet. -/
def State.debugTarget (s : State) (gid : Nat) : Bool := (s.grid? gid).all Grid.debugged

/-- No block of the grid has been admitted yet. -/
def State.notBegun (s : State) (gid : Nat) : Bool := (s.grid? gid).all fun g => g.admitted == 0

/-- WATCH (R233). A commons watch that is held names its die (log 57). -/
def execXanWatch (c : WatchCommand) (s : State) : Out :=
  .next <| if c.space = 3 || c.bcast = 3 || !s.debugTarget c.gid then s
  else match powerOfTwo c.len with
    | none => s.say "refused: length" [c.len]
    | some k =>
      if c.addr.toNat % c.len != 0 then s.say "refused: alignment" []
      else if c.kinds = 0 then s.say "refused: kinds" []
      else if (c.space = 0 && c.core.isNone) || !watchCoresOk c then s
      else if c.space = 2 && c.die.isNone && s.notBegun c.gid then s.say "refused: die" []
      else s.placeWatch c (watchValue c k)

/-- WATCH_DELETE (R233): EN := 0. -/
def execXanWatchDelete (core idx : Nat) (s : State) : Out :=
  .next <| if core ≥ 576 || idx ≥ 4 then s
  else { s with watches := Table.set s.watches (4 * core + idx) (Table.get s.watches (4 * core + idx) &&& ~~~1#128) }

/-- Cores that hold blocks of the grid. -/
def State.gridCores (s : State) (gid : Nat) : List Nat :=
  (List.range 576).filter fun n => s.blocks.any fun b => b.gid == gid && b.core == n && b.resident && !b.complete

/-- A breakpoint command is written on the cores of these that the grid has, and held for those it is admitted to afterwards; before
the launch it is held alone. -/
def State.placeBreak (s : State) (gid : Nat) (x : HeldBreak) : State :=
  match s.grid? gid with
  | none => { s with heldBreaks := s.heldBreaks ++ [x] }
  | some _ =>
    let cores := (s.gridCores gid).filter fun n => x.core.isNone || x.core == some n
    match cores.find? fun n => (s.coreAt n).freeBreak.isNone with
    | some n => s.say "refused: no free breakpoint on core" [n]
    | none =>
      (cores.foldl (fun s n => s.writeBreak gid n x.addr x.bcast) s).modGrid gid fun g => { g with heldBreaks := g.heldBreaks ++ [x] }

/-- BREAK (R222, R258): on every core that the grid has, and on those it is admitted to afterwards. -/
def execXanBreak (gid : Nat) (addr : Double) (bcast : BitVec 2) (s : State) : Out :=
  .next <| if bcast = 3 || !s.debugTarget gid then s else s.placeBreak gid { addr := addr, bcast := bcast, core := none }

/-- BREAK_CORE (R284): on one core alone. -/
def execXanBreakCore (gid : Nat) (addr : Double) (core : Nat) (bcast : BitVec 2) (s : State) : Out :=
  .next <| if bcast = 3 || core ≥ 576 || !s.debugTarget gid then s else s.placeBreak gid { addr := addr, bcast := bcast, core := some core }

/-- BKPT_BCAST (R222). -/
def execXanBkptBcast (gid : Nat) (bcast : BitVec 2) (s : State) : Out :=
  .next <| if bcast = 3 then s else s.modGrid gid fun g => { g with bkptBcast := bcast }

/-! ### Readers, which change nothing of the part (R258, R286, R313) -/

/-- CV (R258): the state of R237, the site counters, the record and the source. -/
def execXanCv (team lane : Nat) (s : State) : Out :=
  .next <| match s.team? team with
  | none => s
  | some t =>
    let c := (t.real.thread lane).cv
    s.say "cv" ((List.range 64).map (fun k => (byteOf c.pack k).toNat) ++ c.sites.toList.map BitVec.toNat ++
      ((List.range c.n.toNat).map fun i => (Table.get c.record i).toNat) ++ (List.range c.sn.toNat).map fun i => (Table.get c.source i).toNat)

/-- CHAIN (R258): the record of R255. -/
def execXanChain (gid chain step : Nat) (s : State) : Out :=
  .next <| match (s.grid? gid).bind fun g => g.relay.bind fun r => (s.proc? g.pid).map fun p => (r, p) with
  | none => s
  | some (r, p) => s.say "chain" ((s.readVirt p (r.reca.toNat + 64 * (chain * r.steps + step - 1)) 64).map BitVec.toNat)

/-- Teams that wait in EVWAIT for a block's event. -/
def State.eventWaiters (s : State) (gid b : Nat) : List Nat :=
  (s.teams.filter fun t => t.gid == gid && t.cause == 0 && match t.run with | .waiting (.evwait _ i) => i == b | _ => false).map Team.uid

/-- EVENTS (R286): for each block, whether its event is published, its value, and how many teams wait on it, and which. -/
def execXanEvents (gid : Nat) (s : State) : Out :=
  .next <| match s.grid? gid with
  | none => s
  | some g =>
    s.say "events" ((List.range g.count).flatMap fun b =>
      let w := s.eventWaiters gid b
      [b, if (g.events.lookup b).isSome then 1 else 0, ((g.events.lookup b).getD 0).toNat, w.length] ++ w)

/-- BLOCK (R286). -/
def execXanBlock (gid blk : Nat) (s : State) : Out :=
  .next <| match s.blocks.find? fun b => b.gid == gid && b.index == blk && b.shadowOf.isNone with
  | none => s
  | some b => s.say "block" [b.tfull.toNat, b.ntile, b.nacc, b.mflags.toNat, b.scrsz]

/-- ESTATE (R313): every occupied slot, its number, its fields and its four doubles from low to high. -/
def execXanEstate (team : Nat) (s : State) : Out :=
  .next <| match s.team? team with
  | none => if team < s.nextUid then s.say "no estate: team ended" [] else s
  | some t =>
    if t.cause != 0 then s.say "no estate: team ended" []
    else
      s.say "estate" (t.estate.toList.zipIdx.flatMap fun (e, k) =>
        if e.kind = 0 then []
        else
          [k, e.kind.toNat, if e.brv then 1 else 0, e.hkind.toNat, if e.quiet then 1 else 0, e.seq.toNat, e.htag.toNat, e.count.toNat, e.addr.toNat] ++
            (List.range 4).map fun i => e.pack / 2 ^ (64 * i) % 2 ^ 64)

end Sys2Proof.Machine
end

