-- ==== Sys2Proof/Machine/Lane.lean ====
section
/-! DEFINITION. Class 1, predicates and lanes (spec/04 R80, spec/02 R37 to R41): votes and masks, exchanges, flags, SEL. -/

namespace Sys2Proof.Machine

open Sys2Proof

/-- Positions j of the pass's row that satisfy a test, as a word. -/
def rowBits (row : Nat) (f : Nat → Bool) : Word :=
  (List.range 32).foldl (fun (w : Word) j => if f (32 * row + j) then w ||| (1#32 <<< j) else w) 0

/-- A register field of at most 4 bits that names a predicate. -/
def predReg (r : Reg) : Src := .p r.toNat

/-- BALLOT (R326). -/
def execBallot (m : Mods) (d a : Reg) (s : State) : Out :=
  execAlu (.ballot m d a) s fun c _ _ =>
    { m := m, x := { a := predReg a, b := .none, d := .none }, dst := .v d.toNat false, lat := some 2, check := .none,
      fmt := modeType c.mode, f := fun pin _ => .word (rowBits pin.row fun p => maskHas pin.live p && pin.rd 0 p != 0) }

/-- A check whose live lanes read operand a at position `src p`. -/
def exchCheck (c : Ctx) (t : Team) (tick : Nat) (src : Nat → List Nat) : Check :=
  { Check.none with exch := some ((maskLanes (c.live t tick)).flatMap fun p => (src p).map fun q => (p, q)) }

/-- PMOV, predicate to vector: p[a] of every position, whatever its thread's state (R390). -/
def execPmovPToV (m : Mods) (d a : Reg) (s : State) : Out :=
  execAlu (.pmovPToV m d a) s fun c t tick =>
    { m := m, x := { a := predReg a, b := .none, d := .none }, dst := .v d.toNat false, lat := some 2,
      check := exchCheck c t tick (fun p => (List.range 32).map fun j => p / 32 * 32 + j), fmt := modeType c.mode,
      f := fun pin _ => .word (rowBits pin.row fun p => pin.rd 0 p != 0) }

/-- PMOV, vector to predicate (R390). -/
def execPmovVToP (m : Mods) (d a : Reg) (s : State) : Out :=
  execAlu (.pmovVToP m d a) s fun _ _ _ =>
    { m := m, x := { a := .v a.toNat false, b := .none, d := .none }, dst := .p d.toNat, lat := some 2, check := .none, fmt := 1,
      f := fun pin p => .bool ((pin.rd 0 p).getLsbD (p % 32)) }

/-- PLOG (R389). -/
def execPlog (m : Mods) (d a b : Reg) (l : LPlog) (s : State) : Out :=
  execAlu (.plog m d a b l) s fun _ _ _ =>
    { m := m, x := { a := predReg a, b := predReg b, d := .none }, dst := .p d.toNat, lat := some 2, check := .none, fmt := 1,
      f := fun pin p =>
        .bool (l.table.getLsbD (2 * (if pin.rd 0 p != 0 then 1 else 0) + (if pin.rd 1 p != 0 then 1 else 0))) }

/-- The outcome of a vote of a kind over the live lanes of the row (R418). -/
def voteOf (kind : Nat) (vs : List Bool) : Bool :=
  match kind with
  | 0 => vs.any id
  | 1 => vs.all id
  | _ => vs.all id || !vs.any id

/-- VOTE (R418). -/
def execVote (m : Mods) (d a b : Reg) (s : State) : Out :=
  execAlu (.vote m d a b) s fun _ _ _ =>
    { m := m, x := { a := predReg a, b := .none, d := .none }, dst := .p d.toNat, lat := some 3, check := .operand (b.toNat ≤ 2), fmt := 1,
      f := fun pin _ => .bool (voteOf b.toNat ((rowLanes pin.live pin.row).map fun p => pin.rd 0 p != 0)) }

/-! ### Exchanges (R394) -/

/-- Operand a of position q as an exchange reads it: the poison pattern of TYPE from a dead thread. -/
def PassIn.exchange (pin : PassIn) (q : Nat) : Double :=
  if (pin.th q).life = .dead then poisonOf pin.c.mode (typeWide pin.c.mode) else pin.rd 0 q

/-- An instruction that moves operand a across the row: position p receives that of `src p`. -/
def exchangeAlu (m : Mods) (c : Ctx) (t : Team) (tick : Nat) (d a : Reg) (b : Src) (src : (Nat → Nat → Double) → Nat → Nat) : Alu :=
  let w := typeWide c.mode
  let x : Srcs := { a := .v a.toNat w, b := b, d := .none }
  { m := m, x := x, dst := .v d.toNat w, lat := some 3, check := exchCheck c t tick (fun p => [src (fun k q => c.read t tick x k q) p]),
    fmt := modeType c.mode, f := fun pin p => .of (pin.exchange (src pin.rd p)) }

/-- SHFL with an index per lane (R406). -/
def execShflIndex (m : Mods) (d a b : Reg) (s : State) : Out :=
  execAlu (.shflIndex m d a b) s fun c t tick =>
    exchangeAlu m c t tick d a (.v b.toNat false) fun rd p => p / 32 * 32 + (rd 1 p).toNat % 32

/-- SHFL with a uniform index (R406). -/
def execShflUniform (m : Mods) (d a b : Reg) (s : State) : Out :=
  execAlu (.shflUniform m d a b) s fun c t tick =>
    exchangeAlu m c t tick d a (.s b.toNat false) fun rd p => p / 32 * 32 + (rd 1 p).toNat % 32

/-- The source position of a literal SHFL; one outside the row is the lane's own (R406). -/
def shflFrom (kind v p : Nat) : Nat :=
  let j := p % 32
  let base := p / 32 * 32
  match kind with
  | 0 => base + v
  | 1 => base + Nat.xor j v
  | 2 => if v ≤ j then base + (j - v) else p
  | _ => if j + v ≤ 31 then base + (j + v) else p

/-- SHFL with a literal (R406). -/
def execShflLiteral (m : Mods) (d a : Reg) (l : LShfl) (s : State) : Out :=
  execAlu (.shflLiteral m d a l) s fun c t tick =>
    exchangeAlu m c t tick d a .none fun _ p => shflFrom l.kind.toNat l.value.toNat p

/-- QSWZ (R397). -/
def execQswz (m : Mods) (d a : Reg) (l : LQswz) (s : State) : Out :=
  execAlu (.qswz m d a l) s fun c t tick =>
    exchangeAlu m c t tick d a .none fun _ p => p / 4 * 4 + (l.sel.toNat / 2 ^ (2 * (p % 4))) % 4

/-- The pair of quad positions whose difference position p receives, and the other pair of the direction (R395). -/
def qdifPairs (dir p : Nat) : (Nat × Nat) × (Nat × Nat) :=
  let b := p / 4 * 4
  let i := p % 4
  if dir = 0 then (if i < 2 then ((b, b + 1), (b + 2, b + 3)) else ((b + 2, b + 3), (b, b + 1)))
  else (if i % 2 = 0 then ((b, b + 2), (b + 1, b + 3)) else ((b + 1, b + 3), (b, b + 2)))

/-- The pair that supplies the difference: complete when both positions run or help. A lane that dies as it reads its operand is
neither (R39, R40). -/
def qdifPair (run : Mask) (dir p : Nat) : Option (Nat × Nat) :=
  let (own, other) := qdifPairs dir p
  let full (x : Nat × Nat) : Bool := maskHas run x.1 && maskHas run x.2
  if full own then some own else if full other then some other else none

/-- QDIF (R395). -/
def execQdif (m : Mods) (d a b : Reg) (s : State) : Out :=
  execAlu (.qdif m d a b) s fun c t tick =>
    let w := typeWide c.mode
    let run (t : Team) : Mask := t.running ||| c.lanes t ||| t.helpers
    let x : Srcs := { a := .v a.toNat w, b := .none, d := .none }
    { m := m, x := x, dst := .v d.toNat w, lat := some 3,
      check := { exchCheck c t tick (fun p => match qdifPair (run t) b.toNat p with | some (i, j) => [i, j] | none => []) with
                 illegal := b.toNat > 1 },
      fmt := modeType c.mode,
      f := fun pin p =>
        match qdifPair (run pin.t) b.toNat p with
        | some (i, j) => typedSub c.mode (pin.rd 0 j) (pin.rd 0 i)
        | none => .of 0 }

/-! ### Flags -/

/-- FXC (R364); a helper lane writes its register and clears nothing (log 22). -/
def execFxc (m : Mods) (d : Reg) (l : LFlags) (s : State) : Out :=
  execAlu (.fxc m d l) s fun c _ _ =>
    { m := m, x := .none, dst := .v d.toNat false, lat := none, check := { Check.none with flags := true }, fmt := modeType c.mode,
      f := fun pin p => { LaneOut.of ((pin.th p).flags.setWidth 64) with clear := l.mask.setWidth 8 } }

/-- FXR (R365): raises enabled flags again and changes nothing. -/
def execFxr (m : Mods) (l : LFlags) (s : State) : Out :=
  execAlu (.fxr m l) s fun c _ _ =>
    { m := m, x := .none, dst := .none, lat := none, check := { Check.none with flags := true }, fmt := 1,
      f := fun pin p => { LaneOut.of 0 with flags := (pin.th p).flags &&& l.mask.setWidth 8 &&& modeTraps c.mode } }

/-- SEL with operand b (R405); its predicate is captured in slot 2 (R205). -/
def selAlu (m : Mods) (c : Ctx) (d a : Reg) (b : Src) (l : LSel) : Alu :=
  let w := typeWide c.mode
  { m := m, x := { a := .v a.toNat w, b := b, d := .p l.pred.toNat }, dst := .v d.toNat w, lat := some 2, check := .none,
    fmt := modeType c.mode, f := fun pin p => .of (if (pin.rd 2 p != 0) != l.sense then pin.rd 0 p else pin.rd 1 p) }

/-- SEL with a vector b (R405). -/
def execSelVector (m : Mods) (d a b : Reg) (l : LSel) (s : State) : Out :=
  execAlu (.selVector m d a b l) s fun c _ _ => selAlu m c d a (.v b.toNat (typeWide c.mode)) l

/-- SEL with a scalar b (R405). -/
def execSelScalar (m : Mods) (d a b : Reg) (l : LSel) (s : State) : Out :=
  execAlu (.selScalar m d a b l) s fun c _ _ => selAlu m c d a (.s b.toNat (typeWide c.mode)) l

end Sys2Proof.Machine
end

