-- ==== Sys2Proof/Machine/Dispatch.lean ====
section
/-! DEFINITION. One arm per constructor of Instr: the meaning of each row of spec/opcode_table.json. -/

namespace Sys2Proof.Machine

open Sys2Proof

def exec (i : Instr) (s : State) : Host.Outcome State Fault Refusal :=
  match i with
  | .nop m => Sys2Proof.Machine.execNop m s
  | .bra m l => Sys2Proof.Machine.execBra m l s
  | .brc m d a l => Sys2Proof.Machine.execBrc m d a l s
  | .brm m d a l => Sys2Proof.Machine.execBrm m d a l s
  | .brx m a => Sys2Proof.Machine.execBrx m a s
  | .brvd m l => Sys2Proof.Machine.execBrvd m l s
  | .call m l => Sys2Proof.Machine.execCall m l s
  | .ret m => Sys2Proof.Machine.execRet m s
  | .join m => Sys2Proof.Machine.execJoin m s
  | .yield m => Sys2Proof.Machine.execYield m s
  | .exit m => Sys2Proof.Machine.execExit m s
  | .exitr m d a b => Sys2Proof.Machine.execExitr m d a b s
  | .kill m => Sys2Proof.Machine.execKill m s
  | .modeGuard m d a => Sys2Proof.Machine.execModeGuard m d a s
  | .modeField m a b l => Sys2Proof.Machine.execModeField m a b l s
  | .gmode m d a => Sys2Proof.Machine.execGmode m d a s
  | .stall m => Sys2Proof.Machine.execStall m s
  | .ballot m d a => Sys2Proof.Machine.execBallot m d a s
  | .pmovPToV m d a => Sys2Proof.Machine.execPmovPToV m d a s
  | .pmovVToP m d a => Sys2Proof.Machine.execPmovVToP m d a s
  | .plog m d a b l => Sys2Proof.Machine.execPlog m d a b l s
  | .vote m d a b => Sys2Proof.Machine.execVote m d a b s
  | .shflIndex m d a b => Sys2Proof.Machine.execShflIndex m d a b s
  | .shflUniform m d a b => Sys2Proof.Machine.execShflUniform m d a b s
  | .shflLiteral m d a l => Sys2Proof.Machine.execShflLiteral m d a l s
  | .qswz m d a l => Sys2Proof.Machine.execQswz m d a l s
  | .qdif m d a b => Sys2Proof.Machine.execQdif m d a b s
  | .fxc m d l => Sys2Proof.Machine.execFxc m d l s
  | .fxr m l => Sys2Proof.Machine.execFxr m l s
  | .selVector m d a b l => Sys2Proof.Machine.execSelVector m d a b l s
  | .selScalar m d a b l => Sys2Proof.Machine.execSelScalar m d a b l s
  | .andVector m d a b => Sys2Proof.Machine.execAndVector m d a b s
  | .andScalar m d a b => Sys2Proof.Machine.execAndScalar m d a b s
  | .andLiteral m d a l => Sys2Proof.Machine.execAndLiteral m d a l s
  | .orVector m d a b => Sys2Proof.Machine.execOrVector m d a b s
  | .orScalar m d a b => Sys2Proof.Machine.execOrScalar m d a b s
  | .orLiteral m d a l => Sys2Proof.Machine.execOrLiteral m d a l s
  | .xorVector m d a b => Sys2Proof.Machine.execXorVector m d a b s
  | .xorScalar m d a b => Sys2Proof.Machine.execXorScalar m d a b s
  | .xorLiteral m d a l => Sys2Proof.Machine.execXorLiteral m d a l s
  | .not m d a => Sys2Proof.Machine.execNot m d a s
  | .shlVector m d a b => Sys2Proof.Machine.execShlVector m d a b s
  | .shlScalar m d a b => Sys2Proof.Machine.execShlScalar m d a b s
  | .shlLiteral m d a l => Sys2Proof.Machine.execShlLiteral m d a l s
  | .shrVector m d a b => Sys2Proof.Machine.execShrVector m d a b s
  | .shrScalar m d a b => Sys2Proof.Machine.execShrScalar m d a b s
  | .shrLiteral m d a l => Sys2Proof.Machine.execShrLiteral m d a l s
  | .sarVector m d a b => Sys2Proof.Machine.execSarVector m d a b s
  | .sarScalar m d a b => Sys2Proof.Machine.execSarScalar m d a b s
  | .sarLiteral m d a l => Sys2Proof.Machine.execSarLiteral m d a l s
  | .rolVector m d a b => Sys2Proof.Machine.execRolVector m d a b s
  | .rolScalar m d a b => Sys2Proof.Machine.execRolScalar m d a b s
  | .rolLiteral m d a l => Sys2Proof.Machine.execRolLiteral m d a l s
  | .bfiVector m d a b => Sys2Proof.Machine.execBfiVector m d a b s
  | .bfiScalar m d a b => Sys2Proof.Machine.execBfiScalar m d a b s
  | .bfiLiteral m d a l => Sys2Proof.Machine.execBfiLiteral m d a l s
  | .bfxVector m d a b => Sys2Proof.Machine.execBfxVector m d a b s
  | .bfxScalar m d a b => Sys2Proof.Machine.execBfxScalar m d a b s
  | .bfxLiteral m d a l => Sys2Proof.Machine.execBfxLiteral m d a l s
  | .brev m d a => Sys2Proof.Machine.execBrev m d a s
  | .clz m d a => Sys2Proof.Machine.execClz m d a s
  | .popc m d a => Sys2Proof.Machine.execPopc m d a s
  | .leaVector m d a b => Sys2Proof.Machine.execLeaVector m d a b s
  | .leaScalar m d a b => Sys2Proof.Machine.execLeaScalar m d a b s
  | .leaLiteral m d a l => Sys2Proof.Machine.execLeaLiteral m d a l s
  | .movVector m d b => Sys2Proof.Machine.execMovVector m d b s
  | .movScalar m d b => Sys2Proof.Machine.execMovScalar m d b s
  | .movk m d l => Sys2Proof.Machine.execMovk m d l s
  | .addVector m d a b => Sys2Proof.Machine.execAddVector m d a b s
  | .addScalar m d a b => Sys2Proof.Machine.execAddScalar m d a b s
  | .addLiteral m d a l => Sys2Proof.Machine.execAddLiteral m d a l s
  | .subVector m d a b => Sys2Proof.Machine.execSubVector m d a b s
  | .subScalar m d a b => Sys2Proof.Machine.execSubScalar m d a b s
  | .subLiteral m d a l => Sys2Proof.Machine.execSubLiteral m d a l s
  | .mulVector m d a b => Sys2Proof.Machine.execMulVector m d a b s
  | .mulScalar m d a b => Sys2Proof.Machine.execMulScalar m d a b s
  | .mulLiteral m d a l => Sys2Proof.Machine.execMulLiteral m d a l s
  | .mulhVector m d a b => Sys2Proof.Machine.execMulhVector m d a b s
  | .mulhScalar m d a b => Sys2Proof.Machine.execMulhScalar m d a b s
  | .mulhLiteral m d a l => Sys2Proof.Machine.execMulhLiteral m d a l s
  | .fmaVector m d a b => Sys2Proof.Machine.execFmaVector m d a b s
  | .fmaScalar m d a b => Sys2Proof.Machine.execFmaScalar m d a b s
  | .fmaLiteral m d a l => Sys2Proof.Machine.execFmaLiteral m d a l s
  | .divVector m d a b => Sys2Proof.Machine.execDivVector m d a b s
  | .divScalar m d a b => Sys2Proof.Machine.execDivScalar m d a b s
  | .divLiteral m d a l => Sys2Proof.Machine.execDivLiteral m d a l s
  | .remVector m d a b => Sys2Proof.Machine.execRemVector m d a b s
  | .remScalar m d a b => Sys2Proof.Machine.execRemScalar m d a b s
  | .remLiteral m d a l => Sys2Proof.Machine.execRemLiteral m d a l s
  | .minVector m d a b => Sys2Proof.Machine.execMinVector m d a b s
  | .minScalar m d a b => Sys2Proof.Machine.execMinScalar m d a b s
  | .minLiteral m d a l => Sys2Proof.Machine.execMinLiteral m d a l s
  | .maxVector m d a b => Sys2Proof.Machine.execMaxVector m d a b s
  | .maxScalar m d a b => Sys2Proof.Machine.execMaxScalar m d a b s
  | .maxLiteral m d a l => Sys2Proof.Machine.execMaxLiteral m d a l s
  | .clampVector m d a b => Sys2Proof.Machine.execClampVector m d a b s
  | .clampScalar m d a b => Sys2Proof.Machine.execClampScalar m d a b s
  | .clampLiteral m d a l => Sys2Proof.Machine.execClampLiteral m d a l s
  | .cmpVector m d a b l => Sys2Proof.Machine.execCmpVector m d a b l s
  | .cmpScalar m d a b l => Sys2Proof.Machine.execCmpScalar m d a b l s
  | .abs m d a => Sys2Proof.Machine.execAbs m d a s
  | .neg m d a => Sys2Proof.Machine.execNeg m d a s
  | .sqrt m d a => Sys2Proof.Machine.execSqrt m d a s
  | .fcls m d a => Sys2Proof.Machine.execFcls m d a s
  | .rdx m d a => Sys2Proof.Machine.execRdx m d a s
  | .cvt m d a l => Sys2Proof.Machine.execCvt m d a l s
  | .qnt m d a b l => Sys2Proof.Machine.execQnt m d a b l s
  | .dqnt m d a b l => Sys2Proof.Machine.execDqnt m d a b l s
  | .amaxValue m d a => Sys2Proof.Machine.execAmaxValue m d a s
  | .amaxExponent m d a => Sys2Proof.Machine.execAmaxExponent m d a s
  | .exp2 m d a => Sys2Proof.Machine.execExp2 m d a s
  | .log2 m d a => Sys2Proof.Machine.execLog2 m d a s
  | .sin m d a => Sys2Proof.Machine.execSin m d a s
  | .cos m d a => Sys2Proof.Machine.execCos m d a s
  | .rcp m d a => Sys2Proof.Machine.execRcp m d a s
  | .rsq m d a => Sys2Proof.Machine.execRsq m d a s
  | .ldVectorBase m d a l => Sys2Proof.Machine.execLdVectorBase m d a l s
  | .ldScalarBase m d a l => Sys2Proof.Machine.execLdScalarBase m d a l s
  | .ldk m d a l => Sys2Proof.Machine.execLdk m d a l s
  | .ldsVectorBase m d a l => Sys2Proof.Machine.execLdsVectorBase m d a l s
  | .ldsScalarBase m d a l => Sys2Proof.Machine.execLdsScalarBase m d a l s
  | .ldxVectorBase m d a l => Sys2Proof.Machine.execLdxVectorBase m d a l s
  | .ldxScalarBase m d a l => Sys2Proof.Machine.execLdxScalarBase m d a l s
  | .stVectorBase m a b l => Sys2Proof.Machine.execStVectorBase m a b l s
  | .stScalarBase m a b l => Sys2Proof.Machine.execStScalarBase m a b l s
  | .stsVectorBase m a b l => Sys2Proof.Machine.execStsVectorBase m a b l s
  | .stsScalarBase m a b l => Sys2Proof.Machine.execStsScalarBase m a b l s
  | .stxVectorBase m a b l => Sys2Proof.Machine.execStxVectorBase m a b l s
  | .stxScalarBase m a b l => Sys2Proof.Machine.execStxScalarBase m a b l s
  | .spld m d l => Sys2Proof.Machine.execSpld m d l s
  | .spst m b l => Sys2Proof.Machine.execSpst m b l s
  | .prefVectorBase m a l => Sys2Proof.Machine.execPrefVectorBase m a l s
  | .prefScalarBase m a l => Sys2Proof.Machine.execPrefScalarBase m a l s
  | .atomVectorBase m d a b l => Sys2Proof.Machine.execAtomVectorBase m d a b l s
  | .atomScalarBase m d a b l => Sys2Proof.Machine.execAtomScalarBase m d a b l s
  | .atomsScratchVectorBase m d a b l => Sys2Proof.Machine.execAtomsScratchVectorBase m d a b l s
  | .atomsScratchScalarBase m d a b l => Sys2Proof.Machine.execAtomsScratchScalarBase m d a b l s
  | .atomsCommonsVectorBase m d a b l => Sys2Proof.Machine.execAtomsCommonsVectorBase m d a b l s
  | .atomsCommonsScalarBase m d a b l => Sys2Proof.Machine.execAtomsCommonsScalarBase m d a b l s
  | .atomrVectorBase m d a b l => Sys2Proof.Machine.execAtomrVectorBase m d a b l s
  | .atomrScalarBase m d a b l => Sys2Proof.Machine.execAtomrScalarBase m d a b l s
  | .fence m l => Sys2Proof.Machine.execFence m l s
  | .bari m a b => Sys2Proof.Machine.execBari m a b s
  | .bar m a => Sys2Proof.Machine.execBar m a s
  | .bara m a b => Sys2Proof.Machine.execBara m a b s
  | .barw m a => Sys2Proof.Machine.execBarw m a s
  | .gbar m => Sys2Proof.Machine.execGbar m s
  | .evpub m a => Sys2Proof.Machine.execEvpub m a s
  | .evwait m d a => Sys2Proof.Machine.execEvwait m d a s
  | .evpeek m d a => Sys2Proof.Machine.execEvpeek m d a s
  | .enq m a b l => Sys2Proof.Machine.execEnq m a b l s
  | .enqf m l => Sys2Proof.Machine.execEnqf m l s
  | .cpost m a => Sys2Proof.Machine.execCpost m a s
  | .cbatch m d => Sys2Proof.Machine.execCbatch m d s
  | .cwait m a => Sys2Proof.Machine.execCwait m a s
  | .cstat m d a => Sys2Proof.Machine.execCstat m d a s
  | .mloop m d a b l => Sys2Proof.Machine.execMloop m d a b l s
  | .mtld m d a => Sys2Proof.Machine.execMtld m d a s
  | .macr m a b l => Sys2Proof.Machine.execMacr m a b l s
  | .macw m d a l => Sys2Proof.Machine.execMacw m d a l s
  | .macz m d => Sys2Proof.Machine.execMacz m d s
  | .mrsv m d => Sys2Proof.Machine.execMrsv m d s
  | .mrel m => Sys2Proof.Machine.execMrel m s
  | .mwait m => Sys2Proof.Machine.execMwait m s
  | .draw m d a b => Sys2Proof.Machine.execDraw m d a b s
  | .drawi m d a b => Sys2Proof.Machine.execDrawi m d a b s
  | .rbits m d => Sys2Proof.Machine.execRbits m d s
  | .cvcfg m l => Sys2Proof.Machine.execCvcfg m l s
  | .cvset m a b => Sys2Proof.Machine.execCvset m a b s
  | .cvsta m d => Sys2Proof.Machine.execCvsta m d s
  | .rlch m a => Sys2Proof.Machine.execRlch m a s
  | .heir m a l => Sys2Proof.Machine.execHeir m a l s
  | .estq m d a => Sys2Proof.Machine.execEstq m d a s
  | .lock m d a => Sys2Proof.Machine.execLock m d a s
  | .unlock m a => Sys2Proof.Machine.execUnlock m a s
  | .prom m a => Sys2Proof.Machine.execProm m a s
  | .fulfil m a b => Sys2Proof.Machine.execFulfil m a b s
  | .await m d a => Sys2Proof.Machine.execAwait m d a s
  | .rcq m d a l => Sys2Proof.Machine.execRcq m d a l s
  | .rct m a b => Sys2Proof.Machine.execRct m a b s
  | .rcctlSteps m a => Sys2Proof.Machine.execRcctlSteps m a s
  | .rcctlLr m a => Sys2Proof.Machine.execRcctlLr m a s
  | .rcctlBeta1 m a => Sys2Proof.Machine.execRcctlBeta1 m a s
  | .rcctlBeta2 m a => Sys2Proof.Machine.execRcctlBeta2 m a s
  | .rcctlEps m a => Sys2Proof.Machine.execRcctlEps m a s
  | .rcctlFrame m a => Sys2Proof.Machine.execRcctlFrame m a s
  | .rcctlFlush m a => Sys2Proof.Machine.execRcctlFlush m a s
  | .rcctlLoadw m a => Sys2Proof.Machine.execRcctlLoadw m a s
  | .rpkt m a l => Sys2Proof.Machine.execRpkt m a l s
  | .rprcv m d a l => Sys2Proof.Machine.execRprcv m d a l s
  | .srd m d l => Sys2Proof.Machine.execSrd m d l s
  | .swr m a l => Sys2Proof.Machine.execSwr m a l s
  | .sysc m l => Sys2Proof.Machine.execSysc m l s
  | .trap m l => Sys2Proof.Machine.execTrap m l s
  | .rte m => Sys2Proof.Machine.execRte m s
  | .bkpt m => Sys2Proof.Machine.execBkpt m s
  | .ctr m d l => Sys2Proof.Machine.execCtr m d l s
  | .ctrMflagsClear m d => Sys2Proof.Machine.execCtrMflagsClear m d s
  | .bnds m a l => Sys2Proof.Machine.execBnds m a l s
  | .unassignedOpcode w => Sys2Proof.Machine.execUnassignedOpcode w s
  | .launch c => Sys2Proof.Machine.execLaunch c s
  | .faultStatusResolved die idx => Sys2Proof.Machine.execFaultStatusResolved die idx s
  | .faultStatusDenied die idx => Sys2Proof.Machine.execFaultStatusDenied die idx s
  | .commonsWindowGrant pid die cores => Sys2Proof.Machine.execCommonsWindowGrant pid die cores s
  | .commonsContributionSet core size => Sys2Proof.Machine.execCommonsContributionSet core size s
  | .translationInvalidation r ptes => Sys2Proof.Machine.execTranslationInvalidation r ptes s
  | .invalidationComplete r => Sys2Proof.Machine.execInvalidationComplete r s
  | .watchpointWrite core idx v => Sys2Proof.Machine.execWatchpointWrite core idx v s
  | .identify q => Sys2Proof.Machine.execIdentify q s
  | .attest q => Sys2Proof.Machine.execAttest q s
  | .loadImage q image => Sys2Proof.Machine.execLoadImage q image s
  | .resetWarm q => Sys2Proof.Machine.execResetWarm q s
  | .resetFull q => Sys2Proof.Machine.execResetFull q s
  | .readCounters q => Sys2Proof.Machine.execReadCounters q s
  | .setPowerLimit q => Sys2Proof.Machine.execSetPowerLimit q s
  | .retrieveDump q => Sys2Proof.Machine.execRetrieveDump q s
  | .readErrorLog q => Sys2Proof.Machine.execReadErrorLog q s
  | .partReset b => Sys2Proof.Machine.execPartReset b s
  | .bootImageRetry image => Sys2Proof.Machine.execBootImageRetry image s
  | .poolRefill die bytes => Sys2Proof.Machine.execPoolRefill die bytes s
  | .slotAgeClose gid node => Sys2Proof.Machine.execSlotAgeClose gid node s
  | .routerTimeout gid tree core => Sys2Proof.Machine.execRouterTimeout gid tree core s
  | .reductionPacketArrival gid idx => Sys2Proof.Machine.execReductionPacketArrival gid idx s
  | .patrolRead sector found => Sys2Proof.Machine.execPatrolRead sector found s
  | .thermalThrottleStart die temp => Sys2Proof.Machine.execThermalThrottleStart die temp s
  | .throttleStep temps => Sys2Proof.Machine.execThrottleStep temps s
  | .thermalReset die temp b => Sys2Proof.Machine.execThermalReset die temp b s
  | .atomicReply team => Sys2Proof.Machine.execAtomicReply team s
  | .registerLineFill team => Sys2Proof.Machine.execRegisterLineFill team s
  | .storeQueueDrain team => Sys2Proof.Machine.execStoreQueueDrain team s
  | .watchpointHit hit => Sys2Proof.Machine.execWatchpointHit hit s
  | .stopNotice core => Sys2Proof.Machine.execStopNotice core s
  | .resumeNotice core => Sys2Proof.Machine.execResumeNotice core s
  | .courierCountDown core req c => Sys2Proof.Machine.execCourierCountDown core req c s
  | .copyFaultResume core req => Sys2Proof.Machine.execCopyFaultResume core req s
  | .deferredPathResume team => Sys2Proof.Machine.execDeferredPathResume team s
  | .faultPostAfterWait team => Sys2Proof.Machine.execFaultPostAfterWait team s
  | .matrixStep core => Sys2Proof.Machine.execMatrixStep core s
  | .tapsterOptimiserStep die => Sys2Proof.Machine.execTapsterOptimiserStep die s
  | .syscReply team r => Sys2Proof.Machine.execSyscReply team r s
  | .barWaitComplete team => Sys2Proof.Machine.execBarWaitComplete team s
  | .gbarWaitComplete team => Sys2Proof.Machine.execGbarWaitComplete team s
  | .evwaitComplete team => Sys2Proof.Machine.execEvwaitComplete team s
  | .awaitWake team => Sys2Proof.Machine.execAwaitWake team s
  | .lockAcquireAfterWait team => Sys2Proof.Machine.execLockAcquireAfterWait team s
  | .cwaitComplete team => Sys2Proof.Machine.execCwaitComplete team s
  | .mwaitComplete team => Sys2Proof.Machine.execMwaitComplete team s
  | .enqAfterWait team => Sys2Proof.Machine.execEnqAfterWait team s
  | .cpostAfterWait team => Sys2Proof.Machine.execCpostAfterWait team s
  | .mtldAfterWait team => Sys2Proof.Machine.execMtldAfterWait team s
  | .rpktAfterWait team => Sys2Proof.Machine.execRpktAfterWait team s
  | .rprcvComplete team => Sys2Proof.Machine.execRprcvComplete team s
  | .blockAdmission gid block core p => Sys2Proof.Machine.execBlockAdmission gid block core p s
  | .nodeBatchAdmission gid core p => Sys2Proof.Machine.execNodeBatchAdmission gid core p s
  | .estateHandlerAdmission gid core p => Sys2Proof.Machine.execEstateHandlerAdmission gid core p s
  | .preempt gid blk => Sys2Proof.Machine.execPreempt gid blk s
  | .preemptResume gid blk core => Sys2Proof.Machine.execPreemptResume gid blk core s
  | .convey gid => Sys2Proof.Machine.execConvey gid s
  | .conveyanceWriteRetry gid => Sys2Proof.Machine.execConveyanceWriteRetry gid s
  | .dumpCapture team => Sys2Proof.Machine.execDumpCapture team s
  | .digestCompare gid blk => Sys2Proof.Machine.execDigestCompare gid blk s
  | .blockCompletion gid blk => Sys2Proof.Machine.execBlockCompletion gid blk s
  | .gridCompletion gid w => Sys2Proof.Machine.execGridCompletion gid w s
  | .xanRun r => Sys2Proof.Machine.execXanRun r s
  | .xanContinue gid => Sys2Proof.Machine.execXanContinue gid s
  | .xanPorterHold pid => Sys2Proof.Machine.execXanPorterHold pid s
  | .xanPorterResolve die idx page => Sys2Proof.Machine.execXanPorterResolve die idx page s
  | .xanPorterRelease pid pages => Sys2Proof.Machine.execXanPorterRelease pid pages s
  | .xanPageEvict pid pages => Sys2Proof.Machine.execXanPageEvict pid pages s
  | .xanFocusLane team lane => Sys2Proof.Machine.execXanFocusLane team lane s
  | .xanFocusLaneAlone team lane => Sys2Proof.Machine.execXanFocusLaneAlone team lane s
  | .xanFocusOff team => Sys2Proof.Machine.execXanFocusOff team s
  | .xanStep team => Sys2Proof.Machine.execXanStep team s
  | .xanStepForce team => Sys2Proof.Machine.execXanStepForce team s
  | .xanSet team r lanes v => Sys2Proof.Machine.execXanSet team r lanes v s
  | .xanSetForce team r lanes v => Sys2Proof.Machine.execXanSetForce team r lanes v s
  | .xanWatch c => Sys2Proof.Machine.execXanWatch c s
  | .xanWatchDelete core idx => Sys2Proof.Machine.execXanWatchDelete core idx s
  | .xanBreak gid addr bcast => Sys2Proof.Machine.execXanBreak gid addr bcast s
  | .xanBreakCore gid addr core bcast => Sys2Proof.Machine.execXanBreakCore gid addr core bcast s
  | .xanBkptBcast gid bcast => Sys2Proof.Machine.execXanBkptBcast gid bcast s
  | .xanCv team lane => Sys2Proof.Machine.execXanCv team lane s
  | .xanChain gid chain step => Sys2Proof.Machine.execXanChain gid chain step s
  | .xanEvents gid => Sys2Proof.Machine.execXanEvents gid s
  | .xanBlock gid blk => Sys2Proof.Machine.execXanBlock gid blk s
  | .xanEstate team => Sys2Proof.Machine.execXanEstate team s
  | .loadReply team => Sys2Proof.Machine.execLoadReply team s
  | .peerRetryLimit core req => Sys2Proof.Machine.execPeerRetryLimit core req s
  | .uncorrectableSoftError c => Sys2Proof.Machine.execUncorrectableSoftError c s
  | .managementBadRequest code q => Sys2Proof.Machine.execManagementBadRequest code q s

end Sys2Proof.Machine
end

