-- ==== Sys2Proof/Machine/Step.lean ====
section
/-! DEFINITION. One step of the part, and the placing of a first instruction. -/

namespace Sys2Proof.Machine

open Sys2Proof

/-- One step (log 1). -/
def step (s : State) : Host.Outcome State Fault Refusal := s.advance exec

/-- s with the instruction placed where the very next step fetches it (log 3). -/
def State.withFetchWord (s : State) (nbits w : Nat) : State := s.withFirst (w % 2 ^ nbits)

end Sys2Proof.Machine
end

