-- ==== Sys2Proof/Safety.lean ====
section
/-! DEFINITION. The terms in which claims about the part are stated: a safe run, a team that issues undisturbed, what a lane of
an instruction reads and where its result goes. -/

namespace Sys2Proof.Safety

open Sys2Proof Machine

/-- Every memory of the part is in canonical form: device memory, scratchpads, tiles, save areas, block images, the commons, weight
stores, spill regions and team images. -/
def memoriesWf (s : State) : Bool :=
  Memory.wf s.mem && s.blocks.all (fun b => Memory.wf b.scratch && Memory.wf b.tiles && Memory.wf b.saveArea && Memory.wf b.image.tiles) &&
  s.cores.toList.all (fun c => Memory.wf c.commons && Memory.wf c.weights) && s.teams.all (fun t => Memory.wf t.spill && Memory.wf t.image)

/-- The step answers a next state. -/
def goesOn (s : State) : Prop := ∃ t, step s = .next t

/-- Team t has the turn and issues at its pc undisturbed: it owes no replay (R206, R208), awaits no reply (R90), no window of a
fixed-latency result is open (R91), some thread runs, no register word is uncorrectable (R209), CHK is off (R58), its guard
names a predicate it has (R213), all its lines are in the register cache (R53), it is ready, and no dump freezes its grid (R215). -/
structure Calm (s : State) (t : Team) : Prop where
  turn : s.team? s.turn = some t
  owes : t.replay = []
  awaits : t.inflight = []
  windows : t.recent = []
  runs : t.running ≠ 0
  sound : s.soft = []
  unchecked : modeChk t.mode = false
  guarded : t.aside.isSome = true → modeGuard t.mode ≤ 3
  present : t.absent = 0 ∧ t.auxAbsent = 0 ∧ t.fAbsent = 0
  ready : t.run = .ready
  thawed : s.gridFrozen t.gid = false

/-- A team as teams are built: its threads stand at the positions of its groups, one at each, its mask names no other position
(R21, R23), and it has at most 32 groups and 64 registers of each kind (R184). -/
structure Seated (t : Team) : Prop where
  seats : (t.threads.map Thread.pos).Perm (List.range (32 * t.ngrp))
  groups : t.ngrp ≤ 32
  within : ∀ p, maskHas t.mask p = true → p < 32 * t.ngrp
  vregs : t.nvec ≤ 64
  sregs : t.nscal ≤ 64

/-- Address of the next instruction in line (R76). -/
def nextPc (t : Team) (i : Instr) : Double := t.pc + BitVec.ofNat 64 (4 * (encode i).length)

/-- The instruction has finished and the path goes on at `pc`: it counts, with its passes (R24, R345). -/
def finished (t : Team) (pc : Double) (passes : Nat) : Team :=
  { t with pc := pc, insn := t.insn + 1, passes := t.passes + BitVec.ofNat 64 passes, resumed := false }

/-- The guard of the mode register holds in the thread (R65). -/
def guardHolds (t : Team) (th : Thread) : Bool := th.readP (modeGuard t.mode) != modeSense t.mode

/-- live(team): the thread runs and its guard holds (R65). -/
def isLive (t : Team) (th : Thread) : Bool := maskHas t.running th.pos && guardHolds t th

/-- A helper lane whose guard holds (R38). -/
def isHelper (t : Team) (th : Thread) : Bool := maskHas t.helpers th.pos && guardHolds t th

/-- rd(a, L): what a lane's thread reads of an operand (R85, R315). -/
def operand (t : Team) (th : Thread) : Src → Double
  | .none => 0
  | .imm x => x
  | .v r w => if w then th.readV (r + 1) ++ th.readV r else (th.readV r).setWidth 64
  | .vv r => th.readV (r + 1) ++ th.readV r
  | .vs r _ => (th.readV r).setWidth 64
  | .s r w => if w then t.readS (r + 1) ++ t.readS r else (t.readS r).setWidth 64
  | .p r => if th.readP r then 1 else 0

/-- What an instruction of classes 1 to 4 does in each lane on its own: operands, destination, the registers that last use frees
(R57), the format whose poison pattern a trapping helper lane writes (R113), and the result with its flags. -/
structure LaneForm where
  a : Src
  b : Src := .none
  d : Src := .none
  dst : Dst
  frees : List Nat
  fmt : Nat
  val : Double → Double → Double → LaneOut

/-- The result of a lane's thread. -/
def LaneForm.out (f : LaneForm) (t : Team) (th : Thread) : LaneOut :=
  f.val (operand t th f.a) (operand t th f.b) (operand t th f.d)

/-- Every register that the form names exists (R49). -/
def LaneForm.ok (f : LaneForm) (t : Team) : Bool := f.a.ok t && f.b.ok t && f.d.ok t && f.dst.ok t

/-- No live lane raises a flag whose trap is enabled (R117). -/
def LaneForm.untrapped (f : LaneForm) (t : Team) : Prop :=
  ∀ th ∈ t.threads, isLive t th = true → (f.out t th).flags &&& modeTraps t.mode = 0

/-- A thread after the instruction: a live lane frees, writes its destination and gathers its flags; a helper lane frees and
writes alone (R38); any other thread keeps all it has. -/
def LaneForm.after (f : LaneForm) (t : Team) (th : Thread) : Thread :=
  let o := f.out t th
  if isLive t th then { (th.freeAll f.frees).writeDst f.dst o.val with flags := th.flags ||| o.flags }
  else if isHelper t th then
    (th.freeAll f.frees).writeDst f.dst (if o.flags &&& modeTraps t.mode = 0 then o.val else f.dst.poison f.fmt)
  else th

/-- The team after an instruction of this form: threads as the form says, the next instruction in line, and the bookkeeping of
lines and of a window that may open (R62, R91). -/
def LaneForm.Result (f : LaneForm) (t t' : Team) (i : Instr) : Prop :=
  ∃ n, t' = { finished t (nextPc t i) n with
    threads := t.threads.map (f.after t), recent := t'.recent, dirty := t'.dirty, fDirty := t'.fDirty, auxDirty := t'.auxDirty,
    absent := t'.absent, auxAbsent := t'.auxAbsent, fAbsent := t'.fAbsent }

/-! ### The lane forms of class 2, class 3 and the functions of class 4 -/

/-- Registers that an executing lane frees (R57). -/
def freed (m : Mods) (a b : Src) : List Nat := (if m.lua then a.vregs else []) ++ (if m.lub then b.vregs else [])

/-- A vector operand of TYPE's width, a scalar one, and a literal as TYPE reads it (R85, R315). -/
def vec (mode : Word) (r : Reg) : Src := .v r.toNat (typeWide mode)
def sca (mode : Word) (r : Reg) : Src := .s r.toNat (typeWide mode)
def lit (mode : Word) (l : LI) : Src := .imm (immOf (modeType mode) l.imm)

/-- An instruction that reads va of TYPE's width, b and perhaps d, and writes vd of TYPE's width. -/
def laneForm (mode : Word) (m : Mods) (d a : Reg) (b dsrc : Src) (val : Double → Double → Double → LaneOut) : LaneForm :=
  { a := vec mode a, b := b, d := dsrc, dst := .v d.toNat (typeWide mode), frees := freed m (vec mode a) b, fmt := modeType mode,
    val := val }

/-- A function of W-bit patterns, at the W that TYPE fixes (R79). -/
def atWidth (mode : Word) (f : (n : Nat) → BitVec n → BitVec n → BitVec n) (a b : Double) : Double :=
  if typeWide mode then f 64 a b else (f 32 (a.setWidth 32) (b.setWidth 32)).setWidth 64

def bitsForm (mode : Word) (m : Mods) (d a : Reg) (b : Src) (f : (n : Nat) → BitVec n → BitVec n → BitVec n) : LaneForm :=
  laneForm mode m d a b .none fun x y _ => .of (atWidth mode f x y)

/-- AND, OR, XOR, NOT and the shifts, as R321, R388 and R404 state them. -/
def logicForm (mode : Word) : Instr → Option LaneForm
  | .andVector m d a b => some (bitsForm mode m d a (vec mode b) (fun _ x y => x &&& y))
  | .andScalar m d a b => some (bitsForm mode m d a (sca mode b) (fun _ x y => x &&& y))
  | .andLiteral m d a l => some (bitsForm mode m d a (lit mode l) (fun _ x y => x &&& y))
  | .orVector m d a b => some (bitsForm mode m d a (vec mode b) (fun _ x y => x ||| y))
  | .orScalar m d a b => some (bitsForm mode m d a (sca mode b) (fun _ x y => x ||| y))
  | .orLiteral m d a l => some (bitsForm mode m d a (lit mode l) (fun _ x y => x ||| y))
  | .xorVector m d a b => some (bitsForm mode m d a (vec mode b) (fun _ x y => x ^^^ y))
  | .xorScalar m d a b => some (bitsForm mode m d a (sca mode b) (fun _ x y => x ^^^ y))
  | .xorLiteral m d a l => some (bitsForm mode m d a (lit mode l) (fun _ x y => x ^^^ y))
  | .not m d a => some (bitsForm mode m d a .none (fun _ x _ => ~~~x))
  | .shlVector m d a b => some (bitsForm mode m d a (vec mode b) (fun n x y => x <<< (y.toNat % n)))
  | .shlScalar m d a b => some (bitsForm mode m d a (sca mode b) (fun n x y => x <<< (y.toNat % n)))
  | .shlLiteral m d a l =>
    if l.count.toNat < widthOf (modeType mode) then some (bitsForm mode m d a (.imm (l.count.setWidth 64)) (fun n x y => x <<< (y.toNat % n))) else none
  | .shrVector m d a b => some (bitsForm mode m d a (vec mode b) (fun n x y => x >>> (y.toNat % n)))
  | .shrScalar m d a b => some (bitsForm mode m d a (sca mode b) (fun n x y => x >>> (y.toNat % n)))
  | .shrLiteral m d a l =>
    if l.count.toNat < widthOf (modeType mode) then some (bitsForm mode m d a (.imm (l.count.setWidth 64)) (fun n x y => x >>> (y.toNat % n))) else none
  | .sarVector m d a b => some (bitsForm mode m d a (vec mode b) (fun n x y => x.sshiftRight (y.toNat % n)))
  | .sarScalar m d a b => some (bitsForm mode m d a (sca mode b) (fun n x y => x.sshiftRight (y.toNat % n)))
  | .sarLiteral m d a l =>
    if l.count.toNat < widthOf (modeType mode) then some (bitsForm mode m d a (.imm (l.count.setWidth 64)) (fun n x y => x.sshiftRight (y.toNat % n))) else none
  | .rolVector m d a b => some (bitsForm mode m d a (vec mode b) (fun n x y => x.rotateLeft (y.toNat % n)))
  | .rolScalar m d a b => some (bitsForm mode m d a (sca mode b) (fun n x y => x.rotateLeft (y.toNat % n)))
  | .rolLiteral m d a l =>
    if l.count.toNat < widthOf (modeType mode) then some (bitsForm mode m d a (.imm (l.count.setWidth 64)) (fun n x y => x.rotateLeft (y.toNat % n))) else none
  | _ => none

/-- Position and width of the field that a specification names, of n bits (R328). -/
def fieldIn (n : Nat) (b : BitVec n) : Nat × Nat :=
  let p := b.toNat % 64 % n
  (p, min (b.toNat / 256 % 128) (n - p))

/-- mask of R328. -/
def maskIn (n : Nat) (b : BitVec n) : BitVec n := BitVec.ofNat n ((2 ^ (fieldIn n b).2 - 1) * 2 ^ (fieldIn n b).1)

def insertField (n : Nat) (a b d : BitVec n) : BitVec n := (d &&& ~~~maskIn n b) ||| ((a <<< (fieldIn n b).1) &&& maskIn n b)

def extractField (signed : Bool) (n : Nat) (a b : BitVec n) : BitVec n :=
  let f := (a &&& maskIn n b) >>> (fieldIn n b).1
  if signed && (fieldIn n b).2 != 0 && f.getLsbD ((fieldIn n b).2 - 1) then f ||| (BitVec.allOnes n <<< (fieldIn n b).2) else f

/-- A function of three W-bit patterns. -/
def atWidth3 (mode : Word) (f : (n : Nat) → BitVec n → BitVec n → BitVec n → BitVec n) (a b d : Double) : Double :=
  if typeWide mode then f 64 a b d else (f 32 (a.setWidth 32) (b.setWidth 32) (d.setWidth 32)).setWidth 64

def insertForm (mode : Word) (m : Mods) (d a : Reg) (b : Src) : LaneForm :=
  laneForm mode m d a b (vec mode d) fun x y z => .of (atWidth3 mode insertField x y z)

/-- A literal field specification that R85 accepts. -/
def fieldFits (mode : Word) (l : LSpec) : Bool :=
  1 ≤ l.width.toNat && l.pos.toNat + l.width.toNat ≤ widthOf (modeType mode)

/-- Bit fields, reversal and counts, as R328, R333, R340 and R391 state them. -/
def fieldForm (mode : Word) : Instr → Option LaneForm
  | .bfiVector m d a b => some (insertForm mode m d a (vec mode b))
  | .bfiScalar m d a b => some (insertForm mode m d a (sca mode b))
  | .bfiLiteral m d a l => if fieldFits mode l then some (insertForm mode m d a (specSrc l)) else none
  | .bfxVector m d a b => some (bitsForm mode m d a (vec mode b) (extractField (signedType (modeType mode))))
  | .bfxScalar m d a b => some (bitsForm mode m d a (sca mode b) (extractField (signedType (modeType mode))))
  | .bfxLiteral m d a l => if fieldFits mode l then some (bitsForm mode m d a (specSrc l) (extractField (signedType (modeType mode)))) else none
  | .brev m d a => some (bitsForm mode m d a .none (fun _ x _ => x.reverse))
  | .clz m d a => some (bitsForm mode m d a .none (fun _ x _ => x.clz))
  | .popc m d a => some (bitsForm mode m d a .none (fun _ x _ => x.cpop))
  | _ => none

/-- d := (a + sext(b, 32)) mod 2^64 (R374). -/
def leaForm (mode : Word) (m : Mods) (d a : Reg) (b : Src) : LaneForm :=
  { a := .v a.toNat true, b := b, dst := .v d.toNat true, frees := freed m (.v a.toNat true) b, fmt := modeType mode,
    val := fun x y _ => .of (x + (y.setWidth 32 : Word).signExtend 64) }

/-- b, copied to d (R380). -/
def moveForm (mode : Word) (m : Mods) (d : Reg) (b : Src) : LaneForm :=
  { a := .none, b := b, dst := .v d.toNat (typeWide mode), frees := freed m .none b, fmt := modeType mode, val := fun _ y _ => .of y }

/-- a when p[pred] XOR sense is 1, b otherwise (R405). -/
def selForm (mode : Word) (m : Mods) (d a : Reg) (b : Src) (l : LSel) : LaneForm :=
  laneForm mode m d a b (.p l.pred.toNat) fun x y z => .of (if (z != 0) ^^ l.sense then x else y)

/-- LEA, MOV, MOVK and SEL, as R374, R380 and R405 state them. -/
def moveOp (mode : Word) : Instr → Option LaneForm
  | .leaVector m d a b => some (leaForm mode m d a (.v b.toNat false))
  | .leaScalar m d a b => some (leaForm mode m d a (.s b.toNat false))
  | .leaLiteral m d a l => some (leaForm mode m d a (.imm (l.imm.setWidth 64)))
  | .movVector m d b => some (moveForm mode m d (vec mode b))
  | .movScalar m d b => some (moveForm mode m d (sca mode b))
  | .movk m d l => some (moveForm mode m d (lit mode l))
  | .selVector m d a b l => some (selForm mode m d a (vec mode b) l)
  | .selScalar m d a b l => some (selForm mode m d a (sca mode b) l)
  | _ => none

/-- A form under a TYPE that the instruction accepts (R118). -/
def typed (mode : Word) (ok : Nat → Bool) (f : LaneForm) : Option LaneForm := if ok (modeType mode) then some f else none

/-- A result of 32 bits whatever TYPE is. -/
def narrowForm (mode : Word) (m : Mods) (d a : Reg) (val : Double → LaneOut) : LaneForm :=
  { a := vec mode a, dst := .v d.toNat false, frees := freed m (vec mode a) .none, fmt := modeType mode,
    val := fun x _ _ => val x }

def cmpForm (mode : Word) (m : Mods) (d a : Reg) (b : Src) (l : LCmp) : LaneForm :=
  { a := vec mode a, b := b, dst := .p d.toNat, frees := freed m (vec mode a) b, fmt := 1,
    val := fun x y _ => laneCmp l.cond.toNat mode x y }

def approxForm (mode : Word) (m : Mods) (d a : Reg) (fn : ApproxFn) : LaneForm :=
  { a := .v a.toNat false, dst := .v d.toNat false, frees := freed m (.v a.toNat false) .none, fmt := modeType mode,
    val := fun x _ _ => elemwise (modeType mode) x 0 0 fun e _ _ => approx fn (fmtOf (modeType mode)) (modeNfz mode) e }

/-- The typed instructions of class 3 and the six functions of R124, each under the types it accepts (R118). -/
def typedForm (mode : Word) : Instr → Option LaneForm
  | .addVector m d a b => typed mode anyType (laneForm mode m d a (vec mode b) .none (laneAdd mode))
  | .addScalar m d a b => typed mode anyType (laneForm mode m d a (sca mode b) .none (laneAdd mode))
  | .addLiteral m d a l => typed mode anyType (laneForm mode m d a (lit mode l) .none (laneAdd mode))
  | .subVector m d a b => typed mode anyType (laneForm mode m d a (vec mode b) .none (laneSub mode))
  | .subScalar m d a b => typed mode anyType (laneForm mode m d a (sca mode b) .none (laneSub mode))
  | .subLiteral m d a l => typed mode anyType (laneForm mode m d a (lit mode l) .none (laneSub mode))
  | .mulVector m d a b => typed mode anyType (laneForm mode m d a (vec mode b) .none (laneMul mode))
  | .mulScalar m d a b => typed mode anyType (laneForm mode m d a (sca mode b) .none (laneMul mode))
  | .mulLiteral m d a l => typed mode anyType (laneForm mode m d a (lit mode l) .none (laneMul mode))
  | .mulhVector m d a b => typed mode intType (laneForm mode m d a (vec mode b) .none (laneMulh mode))
  | .mulhScalar m d a b => typed mode intType (laneForm mode m d a (sca mode b) .none (laneMulh mode))
  | .mulhLiteral m d a l => typed mode intType (laneForm mode m d a (lit mode l) .none (laneMulh mode))
  | .fmaVector m d a b => typed mode anyType (laneForm mode m d a (vec mode b) (vec mode d) (laneFma mode))
  | .fmaScalar m d a b => typed mode anyType (laneForm mode m d a (sca mode b) (vec mode d) (laneFma mode))
  | .fmaLiteral m d a l => typed mode anyType (laneForm mode m d a (lit mode l) (vec mode d) (laneFma mode))
  | .divVector m d a b => typed mode divType (laneForm mode m d a (vec mode b) .none (laneDiv mode))
  | .divScalar m d a b => typed mode divType (laneForm mode m d a (sca mode b) .none (laneDiv mode))
  | .divLiteral m d a l => typed mode divType (laneForm mode m d a (lit mode l) .none (laneDiv mode))
  | .remVector m d a b => typed mode intType (laneForm mode m d a (vec mode b) .none (laneRem mode))
  | .remScalar m d a b => typed mode intType (laneForm mode m d a (sca mode b) .none (laneRem mode))
  | .remLiteral m d a l => typed mode intType (laneForm mode m d a (lit mode l) .none (laneRem mode))
  | .minVector m d a b => typed mode anyType (laneForm mode m d a (vec mode b) .none (laneMin mode))
  | .minScalar m d a b => typed mode anyType (laneForm mode m d a (sca mode b) .none (laneMin mode))
  | .minLiteral m d a l => typed mode anyType (laneForm mode m d a (lit mode l) .none (laneMin mode))
  | .maxVector m d a b => typed mode anyType (laneForm mode m d a (vec mode b) .none (laneMax mode))
  | .maxScalar m d a b => typed mode anyType (laneForm mode m d a (sca mode b) .none (laneMax mode))
  | .maxLiteral m d a l => typed mode anyType (laneForm mode m d a (lit mode l) .none (laneMax mode))
  | .clampVector m d a b => typed mode anyType (laneForm mode m d a (vec mode b) (vec mode d) (laneClamp mode))
  | .clampScalar m d a b => typed mode anyType (laneForm mode m d a (sca mode b) (vec mode d) (laneClamp mode))
  | .clampLiteral m d a l => typed mode anyType (laneForm mode m d a (lit mode l) (vec mode d) (laneClamp mode))
  | .abs m d a => typed mode anyType (laneForm mode m d a .none .none (laneAbs mode))
  | .neg m d a => typed mode anyType (laneForm mode m d a .none .none (laneNeg mode))
  | .sqrt m d a => typed mode sqrtType (laneForm mode m d a .none .none (laneSqrt mode))
  | .fcls m d a => typed mode floatType (narrowForm mode m d a fun x => laneFcls mode x)
  | .cmpVector m d a b l => some (cmpForm mode m d a (vec mode b) l)
  | .cmpScalar m d a b l => some (cmpForm mode m d a (sca mode b) l)
  | .exp2 m d a => typed mode (fun ty => ty == 4 || ty == 6) (approxForm mode m d a .exp2)
  | .log2 m d a => typed mode (fun ty => ty == 4 || ty == 6) (approxForm mode m d a .log2)
  | .sin m d a => typed mode (fun ty => ty == 4 || ty == 6) (approxForm mode m d a .sin)
  | .cos m d a => typed mode (fun ty => ty == 4 || ty == 6) (approxForm mode m d a .cos)
  | .rcp m d a => typed mode (fun ty => ty == 4 || ty == 6) (approxForm mode m d a .rcp)
  | .rsq m d a => typed mode (fun ty => ty == 4 || ty == 6) (approxForm mode m d a .rsq)
  | _ => none

/-! ### Instructions whose lanes look at their row -/

/-- The thread that stands at a position (R21). -/
def standing (t : Team) (p : Nat) : Thread := t.thread (t.home p)

/-- The lane at a position is live. -/
def liveAt (t : Team) (p : Nat) : Bool := maskHas t.running p && guardHolds t (standing t p)

/-- rd of an operand by the lane at a position. -/
def rdAt (t : Team) (x : Src) (p : Nat) : Double := operand t (standing t p) x

/-- An instruction of classes 1 to 4 or A whose lane at a position computes from its row: operands, destination, which positions
receive it, whether helper lanes execute it, and the result with its flags, the flags it clears and its choice vector. -/
structure RowForm where
  a : Src := .none
  b : Src := .none
  dst : Dst
  frees : List Nat
  fmt : Nat := 1
  val : Team → Nat → LaneOut
  /-- lanes that receive the destination -/
  writes : Nat → Bool := fun _ => true
  /-- executing lanes whose destination keeps its value -/
  keeps : Team → Nat → Bool := fun _ _ => false
  helps : Bool := true
  /-- what a helper lane takes in place of a result whose flag would trap (R113) -/
  pois : Nat → Double := fun _ => dst.poison fmt

def RowForm.ok (f : RowForm) (t : Team) : Bool := f.a.ok t && f.b.ok t && f.dst.ok t

def RowForm.untrapped (f : RowForm) (t : Team) : Prop :=
  ∀ th ∈ t.threads, isLive t th = true → (f.val t th.pos).flags &&& modeTraps t.mode = 0

/-- A thread after the instruction. -/
def RowForm.after (f : RowForm) (t : Team) (th : Thread) : Thread :=
  let o := f.val t th.pos
  let th1 := th.freeAll f.frees
  if isLive t th then
    { (if f.writes th.pos && !f.keeps t th.pos then th1.writeDst f.dst o.val else th1) with
      flags := (th.flags &&& ~~~o.clear) ||| o.flags, cv := o.cv.getD th.cv }
  else if f.helps && isHelper t th then
    if f.writes th.pos && !f.keeps t th.pos then th1.writeDst f.dst (if o.flags &&& modeTraps t.mode = 0 then o.val else f.pois th.pos) else th1
  else th

def RowForm.Result (f : RowForm) (t t' : Team) (i : Instr) : Prop :=
  ∃ n, t' = { finished t (nextPc t i) n with
    threads := t.threads.map (f.after t), recent := t'.recent, dirty := t'.dirty, fDirty := t'.fDirty, auxDirty := t'.auxDirty,
    absent := t'.absent, auxAbsent := t'.auxAbsent, fAbsent := t'.fAbsent }

/-- Positions of the row of p that are live. -/
def liveRow (t : Team) (p : Nat) : List Nat := ((List.range 32).map fun j => 32 * (p / 32) + j).filter (liveAt t)

/-- The operand of position q as an exchange delivers it: a dead thread's is the poison pattern of TYPE (R394). -/
def exchanged (mode : Word) (t : Team) (a : Src) (q : Nat) : LaneOut :=
  .of (if (standing t q).life = .dead then poison (modeType mode) (typeWide mode) else rdAt t a q)

def exchangeForm (mode : Word) (m : Mods) (d a : Reg) (b : Src) (src : Team → Nat → Nat) : RowForm :=
  { a := vec mode a, b := b, dst := .v d.toNat (typeWide mode), frees := freed m (vec mode a) b, fmt := modeType mode,
    val := fun t p => exchanged mode t (vec mode a) (src t p) }

/-- Class 1: votes, exchanges and flags (R326, R364, R365, R389, R390, R395, R397, R406, R418). -/
def crossForm (mode : Word) : Instr → Option RowForm
  | .ballot _ d a => some
    { a := .p a.toNat, dst := .v d.toNat false, frees := [], fmt := modeType mode,
      val := fun t p => .word (rowBits (p / 32) fun q => liveAt t q && rdAt t (.p a.toNat) q != 0) }
  | .pmovPToV _ d a => some
    { a := .p a.toNat, dst := .v d.toNat false, frees := [], fmt := modeType mode,
      val := fun t p => .word (rowBits (p / 32) fun q => rdAt t (.p a.toNat) q != 0) }
  | .pmovVToP m d a => some
    { a := .v a.toNat false, dst := .p d.toNat, frees := freed m (.v a.toNat false) .none,
      val := fun t p => .bool ((rdAt t (.v a.toNat false) p).getLsbD (p % 32)) }
  | .plog _ d a b l => some
    { a := .p a.toNat, b := .p b.toNat, dst := .p d.toNat, frees := [],
      val := fun t p => .bool (l.table.getLsbD
        (2 * (if rdAt t (.p a.toNat) p != 0 then 1 else 0) + (if rdAt t (.p b.toNat) p != 0 then 1 else 0))) }
  | .vote _ d a b => if b.toNat ≤ 2 then some
    { a := .p a.toNat, dst := .p d.toNat, frees := [],
      val := fun t p => .bool (voteOf b.toNat ((liveRow t p).map fun q => rdAt t (.p a.toNat) q != 0)) } else none
  | .shflIndex m d a b => some (exchangeForm mode m d a (.v b.toNat false) fun t p => p / 32 * 32 + (rdAt t (.v b.toNat false) p).toNat % 32)
  | .shflUniform m d a b => some (exchangeForm mode m d a (.s b.toNat false) fun t p => p / 32 * 32 + (t.readS b.toNat).toNat % 32)
  | .shflLiteral m d a l => some (exchangeForm mode m d a .none fun _ p => shflFrom l.kind.toNat l.value.toNat p)
  | .qswz m d a l => some (exchangeForm mode m d a .none fun _ p => p / 4 * 4 + l.sel.toNat / 2 ^ (2 * (p % 4)) % 4)
  | .qdif m d a b => if b.toNat ≤ 1 then some
    { a := vec mode a, dst := .v d.toNat (typeWide mode), frees := freed m (vec mode a) .none, fmt := modeType mode,
      val := fun t p => match qdifPair (t.running ||| t.helpers) b.toNat p with
        | some (i, j) => typedSub mode (rdAt t (vec mode a) j) (rdAt t (vec mode a) i)
        | none => .of 0 } else none
  | .fxc _ d l => some
    { dst := .v d.toNat false, frees := [], fmt := modeType mode,
      val := fun t p => { LaneOut.of ((standing t p).flags.setWidth 64) with clear := l.mask.setWidth 8 } }
  | .fxr _ l => some
    { dst := .none, frees := [],
      val := fun t p => { LaneOut.of 0 with flags := (standing t p).flags &&& l.mask.setWidth 8 &&& modeTraps mode } }
  | _ => none

/-- Magnitudes of the live lanes of the AMAX block that holds p: 16 lanes, 8 of a packed type (R320). -/
def blockMagnitudes (mode : Word) (t : Team) (a : Src) (p : Nat) : List FNum :=
  let n := if modeType mode = 6 || modeType mode = 7 then 8 else 16
  (((List.range n).map fun i => p / n * n + i).filter (liveAt t)).flatMap fun q =>
    (elements (modeType mode) (rdAt t a q)).map (unpack (fmtOf (modeType mode)) (modeNfz mode))

/-- What a group's live lane brings to QNT: its value, and the rounding it draws (R111, R396). -/
def qntInput (mode : Word) (l : LQnt) (t : Team) (a : Reg) (q : Nat) : Nat × Rnd × Option ChoiceState :=
  if liveAt t q then
    let r := nextRnd (rcOf mode l.rc.toNat) true (standing t q).cv
    ((rdAt t (.vv a.toNat) q).toNat % 2 ^ 32, r.1, if rcOf mode l.rc.toNat = 5 then some r.2 else none)
  else (0, Rnd.rne, none)

/-- The block that QNT forms of the group of 16 positions at base, with each position's flags. -/
def qntBlock (mode : Word) (l : LQnt) (t : Team) (a b : Reg) (base : Nat) : Nat × List Byte :=
  let ps := (List.range 16).map fun i => base + i
  let first := (ps.find? (liveAt t)).getD base
  quantise l.fmt.toNat (modeNfz mode) (ps.map fun q => ((qntInput mode l t a q).1, (qntInput mode l t a q).2.1)) (t.readS b.toNat).toNat
    ((rdAt t (.vv a.toNat) first).toNat / 2 ^ 32 % 256)

/-- The block that register a of the group at base holds (R350, R351). -/
def dqntBlock (l : LDqnt) (t : Team) (a : Reg) (base : Nat) : Nat :=
  ((List.range (bxWords l.fmt.toNat)).foldl (fun v w =>
    v + (if (standing t (base + w)).life = .dead then 0xDEADDEAD else (rdAt t (.v a.toNat false) (base + w)).toNat % 2 ^ 32) * 2 ^ (32 * w)) 0)
    % 2 ^ (8 * bxBytes l.fmt.toNat)

/-- Class 4's conversions and block operations (R320, R347, R351, R396). -/
def convertForm (mode : Word) : Instr → Option RowForm
  | .cvt m d a l =>
    if l.src.toNat < 14 && l.dst.toNat < 14 && l.rc.toNat != 7 && cvtPair l.src.toNat l.dst.toNat then some
      { a := .v a.toNat (wideFormat l.src.toNat), dst := .v d.toNat (wideFormat l.dst.toNat),
        frees := freed m (.v a.toNat (wideFormat l.src.toNat)) .none, fmt := l.dst.toNat,
        val := fun t p => laneCvt l mode (!liveAt t p) (standing t p).cv (rdAt t (.v a.toNat (wideFormat l.src.toNat)) p) }
    else none
  | .amaxValue m d a =>
    if modeType mode = 4 || modeType mode = 6 || modeType mode = 7 then some
      { a := vec mode a, dst := .v d.toNat false, frees := freed m (vec mode a) .none, fmt := 4,
        val := fun t p => .nat (amaxValue (blockMagnitudes mode t (vec mode a) p)) }
    else none
  | .amaxExponent m d a =>
    if 4 ≤ modeType mode then some
      { a := vec mode a, dst := .v d.toNat false, frees := freed m (vec mode a) .none,
        val := fun t p => .nat (amaxExponent (blockMagnitudes mode t (vec mode a) p)) }
    else none
  | .qnt m d a b l =>
    if l.fmt.toNat ≤ 2 && l.rc.toNat ≤ 6 then some
      { a := .vv a.toNat, b := .s b.toNat false, dst := .v d.toNat false, frees := freed m (.vv a.toNat) .none,
        keeps := fun t p => (List.range 16).all fun j => !liveAt t (p / 16 * 16 + j),
        pois := fun p => BitVec.ofNat 64 (nanBlock / 2 ^ (32 * (p % 16)) % 2 ^ 32),
        writes := fun p => p % 16 < bxWords l.fmt.toNat,
        val := fun t p =>
          let q := qntBlock mode l t a b (p / 16 * 16)
          { val := BitVec.ofNat 64 (q.1 / 2 ^ (32 * (p % 16)) % 2 ^ 32), flags := (q.2[p % 16]?).getD 0,
            cv := (qntInput mode l t a p).2.2 } }
    else none
  | .dqnt m d a b l =>
    if l.fmt.toNat ≤ 2 then some
      { a := .v a.toNat false, b := .s b.toNat false, dst := .v d.toNat false, frees := freed m (.v a.toNat false) .none, fmt := 4,
        val := fun t p => .res (dequantise l.fmt.toNat (envOf mode) (dqntBlock l t a (p / 16 * 16)) (p % 16) (t.readS b.toNat).toNat) }
    else none
  | _ => none

/-- An instruction of class A that writes vd: the lane's word and its choice vector afterwards. -/
def choiceForm (mode : Word) (d : Reg) (f : ChoiceState → Word × ChoiceState) : RowForm :=
  { dst := .v d.toNat false, frees := [], fmt := modeType mode, helps := false,
    val := fun t p => { val := (f (standing t p).cv).1.setWidth 64, flags := 0, cv := some (f (standing t p).cv).2 } }

/-- The draws and CVSTA (R242, R243, R245, R352). -/
def drawForm (mode : Word) : Instr → Option RowForm
  | .draw _ d a b => if siteOf a b < 4093 then
      some (choiceForm mode d fun cv => let r := cv.drawRecorded (siteOf a b); (drawF32 r.1, r.2)) else none
  | .drawi _ d a b => if siteOf a b < 4093 then some (choiceForm mode d fun cv => cv.drawRecorded (siteOf a b)) else none
  | .rbits _ d => some (choiceForm mode d ChoiceState.drawBits)
  | .cvsta _ d => some (choiceForm mode d fun cv => (cv.status, cv))
  | _ => none

/-! ### Control and traps -/

/-- PC + 4 × sext(OFFSET, 32) (R85, R331). -/
def branchTo (t : Team) (l : LB) : Double := t.pc + l.offset.signExtend 64 * 4

/-- Running lanes for which p[a] XOR sense is 1 (R332), and the others. -/
def takenLanes (t : Team) (a : Reg) (sense : Bool) : Mask :=
  filterMask t.running fun p => (rdAt t (.p a.toNat) p != 0) ^^ sense

def otherLanes (t : Team) (a : Reg) (sense : Bool) : Mask := maskMinus t.running (takenLanes t a sense)

/-- A PATH entry (R27). -/
def parked (pc : Double) (m : Mask) : PathEntry := { gmask := m, resv := 0, ftag := 0, kind := 0, pc := pc }

/-- The team's grid takes traps: it has a trap handler, no handler of the team is active, and the team is no shadow's (R179, R203). -/
structure TakesTraps (s : State) (t : Team) (g : Grid) : Prop where
  grid : s.gridOf t = some g
  handler : g.traph ≠ 0
  idle : t.frame.active = 0
  own : t.aside = none
  original : s.isShadow t = false

/-- The frame of R203 and R204 for instruction i, with its cause, its lanes and the address after it. -/
def trapFrame (t : Team) (i : Instr) (cause detail : Byte) (vaddr info : Double) (lanes : Mask) : TrapFrame :=
  { tpc := t.pc, rpc := nextPc t i, smode := t.mode, cause := cause, detail := detail, active := 1, rqn := 0, vaddr := vaddr, info := info,
    word := (encode i).headD 0, lit := ((encode i).drop 1).headD 0, edepth := BitVec.ofNat 16 t.stack.length, skid := 0, lmask := lanes,
    smask := t.mask }

/-- The team in its trap handler: mode register 0, the trapping lanes, PC at TRAPH (R203). -/
def inHandler (t : Team) (f : TrapFrame) (lanes : Mask) (traph : Double) : Team :=
  { t with frame := f, mode := 0, mask := lanes, pc := traph, resumed := false, run := .ready }

/-- Death takes the team at once: it is alive, has no store queued, its process takes no dump, and it runs no proposal (R42, R215,
R253). -/
structure DiesPlainly (s : State) (t : Team) : Prop where
  alive : t.cause = 0
  thawed : t.run ≠ .frozen
  drained : t.storeQ = []
  undumped : ∀ p, s.procOf t = some p → p.dumpPolicy = 0
  settled : ∀ n, t.kind ≠ .proposal n

/-! ### Integer results (R101, R102) -/

/-- R101: the exact result as its low W bits, or under SAT the nearest bound of the type with the SAT flag. -/
def exactInt (mode : Word) (v : Int) : LaneOut :=
  let ty := modeType mode
  let bound (b : Int) : LaneOut := { val := BitVec.ofNat 64 (lowBits b (widthOf ty)), flags := 0x40, cv := none }
  if modeSat mode = true ∧ v < (intRange ty).1 then bound (intRange ty).1
  else if modeSat mode = true ∧ (intRange ty).2 < v then bound (intRange ty).2
  else .nat (lowBits v (widthOf ty))

/-- An integer instruction of a, b and d, by its exact result. -/
def intForm (mode : Word) (m : Mods) (d a : Reg) (b dsrc : Src) (f : Int → Int → Int → LaneOut) : Option LaneForm :=
  if modeType mode ≤ 3 then
    some (laneForm mode m d a b dsrc fun x y z => f (intOf (modeType mode) x) (intOf (modeType mode) y) (intOf (modeType mode) z))
  else none

/-- ADD, SUB, MUL, MULH, FMA, NEG and ABS of the integer types (R101). -/
def exactForm (mode : Word) : Instr → Option LaneForm
  | .addVector m d a b => intForm mode m d a (vec mode b) .none fun x y _ => exactInt mode (x + y)
  | .addScalar m d a b => intForm mode m d a (sca mode b) .none fun x y _ => exactInt mode (x + y)
  | .addLiteral m d a l => intForm mode m d a (lit mode l) .none fun x y _ => exactInt mode (x + y)
  | .subVector m d a b => intForm mode m d a (vec mode b) .none fun x y _ => exactInt mode (x - y)
  | .subScalar m d a b => intForm mode m d a (sca mode b) .none fun x y _ => exactInt mode (x - y)
  | .subLiteral m d a l => intForm mode m d a (lit mode l) .none fun x y _ => exactInt mode (x - y)
  | .mulVector m d a b => intForm mode m d a (vec mode b) .none fun x y _ => exactInt mode (x * y)
  | .mulScalar m d a b => intForm mode m d a (sca mode b) .none fun x y _ => exactInt mode (x * y)
  | .mulLiteral m d a l => intForm mode m d a (lit mode l) .none fun x y _ => exactInt mode (x * y)
  | .mulhVector m d a b => intForm mode m d a (vec mode b) .none fun x y _ => .nat (lowBits (x * y / 2 ^ widthOf (modeType mode)) (widthOf (modeType mode)))
  | .mulhScalar m d a b => intForm mode m d a (sca mode b) .none fun x y _ => .nat (lowBits (x * y / 2 ^ widthOf (modeType mode)) (widthOf (modeType mode)))
  | .mulhLiteral m d a l => intForm mode m d a (lit mode l) .none fun x y _ => .nat (lowBits (x * y / 2 ^ widthOf (modeType mode)) (widthOf (modeType mode)))
  | .fmaVector m d a b => intForm mode m d a (vec mode b) (vec mode d) fun x y z => exactInt mode (z + x * y)
  | .fmaScalar m d a b => intForm mode m d a (sca mode b) (vec mode d) fun x y z => exactInt mode (z + x * y)
  | .fmaLiteral m d a l => intForm mode m d a (lit mode l) (vec mode d) fun x y z => exactInt mode (z + x * y)
  | .neg m d a => intForm mode m d a .none .none fun x _ _ => exactInt mode (-x)
  | .abs m d a => intForm mode m d a .none .none fun x _ _ => exactInt mode (if x < 0 then -x else x)
  | _ => none

/-- A rule of R102 or R119 for the integer types: two operands of W bits, and what the lane function gives. -/
structure IntegerRules (mode : Word) (x y z : Double) : Prop where
  /-- a zero divisor gives all ones and the dividend, with DZ (R102) -/
  zero : intOf (modeType mode) y = 0 →
    laneDiv mode x y z = { val := BitVec.ofNat 64 (2 ^ widthOf (modeType mode) - 1), flags := 0x08, cv := none } ∧
    laneRem mode x y z = { val := x, flags := 0x08, cv := none }
  /-- the quotient is truncated toward zero, and the remainder has the dividend's sign (R102) -/
  div : intOf (modeType mode) y ≠ 0 →
    let a := intOf (modeType mode) x
    let b := intOf (modeType mode) y
    ∃ q r : Int, a = q * b + r ∧ r.natAbs < b.natAbs ∧ (r = 0 ∨ (r < 0 ↔ a < 0)) ∧
      laneDiv mode x y z = exactInt mode q ∧ laneRem mode x y z = .nat (lowBits r (widthOf (modeType mode)))
  /-- MIN, MAX and CLAMP, which is MAX with d and then MIN with b (R119) -/
  least : laneMin mode x y z = .of (if intOf (modeType mode) y < intOf (modeType mode) x then y else x)
  most : laneMax mode x y z = .of (if intOf (modeType mode) x < intOf (modeType mode) y then y else x)
  clamp : laneClamp mode x y z = .of
    (let u := if intOf (modeType mode) x < intOf (modeType mode) z then z else x
     if intOf (modeType mode) y < intOf (modeType mode) u then y else u)
  /-- conditions EQ, NE, LT, LE, GT, GE, UN and OD (R89) -/
  cmp : ∀ k, k < 8 → laneCmp k mode x y =
    .bool (let a := intOf (modeType mode) x
           let b := intOf (modeType mode) y
           [decide (a = b), decide (a ≠ b), decide (a < b), decide (a ≤ b), decide (a > b), decide (a ≥ b), false, true].getD k false)

/-! ### Zeros, infinities and NaNs of the floating-point types (R103 to R119) -/

/-- Exponent and fraction bits of an element of TYPE (R103). -/
def fieldsOfType (ty : Nat) : Nat × Nat :=
  match ty with
  | 4 => (8, 23)
  | 5 => (11, 52)
  | 6 => (5, 10)
  | _ => (8, 7)

/-- One element's bit pattern, of the mode's TYPE, taken apart (R103). -/
structure Element (mode : Word) where
  bits : Nat

namespace Element
variable {mode : Word} (x : Element mode)

def frac : Nat := x.bits % 2 ^ (fieldsOfType (modeType mode)).2
def exp : Nat := x.bits / 2 ^ (fieldsOfType (modeType mode)).2 % 2 ^ (fieldsOfType (modeType mode)).1
def neg : Bool := x.bits.testBit ((fieldsOfType (modeType mode)).1 + (fieldsOfType (modeType mode)).2)
def full : Bool := x.exp == 2 ^ (fieldsOfType (modeType mode)).1 - 1
def isNan : Bool := x.full && x.frac != 0
def isInf : Bool := x.full && x.frac == 0
/-- A NaN whose top fraction bit is clear (R103). -/
def signals : Bool := x.isNan && !x.frac.testBit ((fieldsOfType (modeType mode)).2 - 1)
/-- Under NFZ an F16 or BF16 operand with exponent 0 is a zero (R105). -/
def isZero : Bool := x.exp == 0 && (x.frac == 0 || (modeNfz mode && 6 ≤ modeType mode))
/-- The pattern with its quiet bit set (R112). -/
def quieted : Nat := x.bits ||| 2 ^ ((fieldsOfType (modeType mode)).2 - 1)
end Element

/-- ±0, ±∞ and the default NaN of TYPE (R103, R112). -/
def zeroBits (mode : Word) (neg : Bool) : Nat :=
  if neg then 2 ^ ((fieldsOfType (modeType mode)).1 + (fieldsOfType (modeType mode)).2) else 0
def infBits (mode : Word) (neg : Bool) : Nat :=
  zeroBits mode neg + (2 ^ (fieldsOfType (modeType mode)).1 - 1) * 2 ^ (fieldsOfType (modeType mode)).2
def nanBits (mode : Word) : Nat := infBits mode false + 2 ^ ((fieldsOfType (modeType mode)).2 - 1)

/-- A lane's result in its one element is this pattern, with these flags. -/
def gives (mode : Word) (o : LaneOut) (bits : Nat) (flags : Byte) : Prop :=
  o.val.toNat % 2 ^ (1 + (fieldsOfType (modeType mode)).1 + (fieldsOfType (modeType mode)).2) = bits ∧ o.flags = flags

/-- An invalid operation: the default NaN, with NV (R112, R114). -/
def invalidOp (mode : Word) (o : LaneOut) : Prop := gives mode o (nanBits mode) 0x10

/-- NV for a signalling NaN operand (R112). -/
def nvIf (b : Bool) : Byte := if b then 0x10 else 0

/-- The rules of R112, R114, R118 and R119 for zeros, infinities and NaNs: x, y, z are the one element of a, b and d. -/
structure FloatRules (mode : Word) (x y z : Element mode) : Prop where
  nan2 : x.isNan = true ∨ y.isNan = true → ∀ f ∈ [laneAdd, laneSub, laneMul], gives mode
    (f mode (BitVec.ofNat 64 x.bits) (BitVec.ofNat 64 y.bits) 0) (if x.isNan then x.quieted else y.quieted) (nvIf (x.signals || y.signals))
  nan3 : x.isNan = true ∨ y.isNan = true ∨ z.isNan = true → gives mode
    (laneFma mode (BitVec.ofNat 64 x.bits) (BitVec.ofNat 64 y.bits) (BitVec.ofNat 64 z.bits))
    (if x.isNan then x.quieted else if y.isNan then y.quieted else z.quieted)
    (nvIf (x.signals || y.signals || z.signals || (x.isInf && y.isZero) || (x.isZero && y.isInf)))
  sums : x.isNan = false → y.isNan = false →
    (x.isInf = true → y.isInf = true → x.neg ≠ y.neg → invalidOp mode (laneAdd mode (BitVec.ofNat 64 x.bits) (BitVec.ofNat 64 y.bits) 0)) ∧
    (x.isInf = true → y.isInf = false ∨ x.neg = y.neg →
      gives mode (laneAdd mode (BitVec.ofNat 64 x.bits) (BitVec.ofNat 64 y.bits) 0) (infBits mode x.neg) 0) ∧
    (x.isInf = true → y.isInf = true → x.neg = y.neg → invalidOp mode (laneSub mode (BitVec.ofNat 64 x.bits) (BitVec.ofNat 64 y.bits) 0)) ∧
    (x.isInf = true → y.isInf = false ∨ x.neg ≠ y.neg →
      gives mode (laneSub mode (BitVec.ofNat 64 x.bits) (BitVec.ofNat 64 y.bits) 0) (infBits mode x.neg) 0) ∧
    (x.isZero = true → y.isZero = true →
      gives mode (laneAdd mode (BitVec.ofNat 64 x.bits) (BitVec.ofNat 64 y.bits) 0) (zeroBits mode (if x.neg = y.neg then x.neg else modeRnd mode == 3)) 0 ∧
      gives mode (laneSub mode (BitVec.ofNat 64 x.bits) (BitVec.ofNat 64 y.bits) 0) (zeroBits mode (if x.neg = y.neg then modeRnd mode == 3 else x.neg)) 0)
  products : x.isNan = false → y.isNan = false →
    ((x.isInf = true ∧ y.isZero = true) ∨ (x.isZero = true ∧ y.isInf = true) →
      invalidOp mode (laneMul mode (BitVec.ofNat 64 x.bits) (BitVec.ofNat 64 y.bits) 0)) ∧
    ((x.isInf = true ∧ y.isZero = false) ∨ (x.isZero = false ∧ y.isInf = true) →
      gives mode (laneMul mode (BitVec.ofNat 64 x.bits) (BitVec.ofNat 64 y.bits) 0) (infBits mode (x.neg ^^ y.neg)) 0) ∧
    ((x.isZero = true ∧ y.isInf = false) ∨ (x.isInf = false ∧ y.isZero = true) →
      gives mode (laneMul mode (BitVec.ofNat 64 x.bits) (BitVec.ofNat 64 y.bits) 0) (zeroBits mode (x.neg ^^ y.neg)) 0)
  /-- DIV and SQRT take F32 and F64 alone (R118). -/
  quotients : modeType mode ≤ 5 →
    (x.isNan = true ∨ y.isNan = true → gives mode (laneDiv mode (BitVec.ofNat 64 x.bits) (BitVec.ofNat 64 y.bits) 0)
      (if x.isNan then x.quieted else y.quieted) (nvIf (x.signals || y.signals))) ∧
    (x.isNan = false → y.isNan = false →
      ((x.isZero = true ∧ y.isZero = true) ∨ (x.isInf = true ∧ y.isInf = true) →
        invalidOp mode (laneDiv mode (BitVec.ofNat 64 x.bits) (BitVec.ofNat 64 y.bits) 0)) ∧
      (x.isInf = true → y.isInf = false →
        gives mode (laneDiv mode (BitVec.ofNat 64 x.bits) (BitVec.ofNat 64 y.bits) 0) (infBits mode (x.neg ^^ y.neg)) 0) ∧
      (x.isInf = false → x.isZero = false → y.isZero = true →
        gives mode (laneDiv mode (BitVec.ofNat 64 x.bits) (BitVec.ofNat 64 y.bits) 0) (infBits mode (x.neg ^^ y.neg)) 0x08) ∧
      (x.isInf = false → y.isZero = false → x.isZero = true ∨ y.isInf = true →
        gives mode (laneDiv mode (BitVec.ofNat 64 x.bits) (BitVec.ofNat 64 y.bits) 0) (zeroBits mode (x.neg ^^ y.neg)) 0)) ∧
    (x.isNan = true → gives mode (laneSqrt mode (BitVec.ofNat 64 x.bits) 0 0) x.quieted (nvIf x.signals)) ∧
    (x.isNan = false → x.isZero = true ∨ (x.isInf = true ∧ x.neg = false) → gives mode (laneSqrt mode (BitVec.ofNat 64 x.bits) 0 0) x.bits 0) ∧
    (x.isNan = false → x.isZero = false → x.neg = true → invalidOp mode (laneSqrt mode (BitVec.ofNat 64 x.bits) 0 0))
  /-- MIN and MAX: a number wins over a NaN, two NaNs give the first, and −0 is below +0 (R119). -/
  extremes : ∀ f ∈ [laneMin, laneMax],
    (x.isNan = true → y.isNan = true →
      gives mode (f mode (BitVec.ofNat 64 x.bits) (BitVec.ofNat 64 y.bits) 0) x.quieted (nvIf (x.signals || y.signals))) ∧
    (x.isNan = true → y.isNan = false → y.isZero = false →
      gives mode (f mode (BitVec.ofNat 64 x.bits) (BitVec.ofNat 64 y.bits) 0) y.bits (nvIf x.signals)) ∧
    (x.isNan = false → x.isZero = false → y.isNan = true →
      gives mode (f mode (BitVec.ofNat 64 x.bits) (BitVec.ofNat 64 y.bits) 0) x.bits (nvIf y.signals)) ∧
    (x.isZero = true → y.isZero = true → gives mode (laneMin mode (BitVec.ofNat 64 x.bits) (BitVec.ofNat 64 y.bits) 0) (zeroBits mode (x.neg || y.neg)) 0 ∧
      gives mode (laneMax mode (BitVec.ofNat 64 x.bits) (BitVec.ofNat 64 y.bits) 0) (zeroBits mode (x.neg && y.neg)) 0)

/-- CMP of F32 and F64 with a NaN, and of two zeros; conditions in the order EQ, NE, LT, LE, GT, GE, UN, OD (R89, R119). -/
structure CompareRules (mode : Word) (x y : Element mode) : Prop where
  nan : x.isNan = true ∨ y.isNan = true → ∀ k, k < 8 → laneCmp k mode (BitVec.ofNat 64 x.bits) (BitVec.ofNat 64 y.bits) =
    { LaneOut.bool (k == 1 || k == 6) with flags := nvIf (x.signals || y.signals || (2 ≤ k && k ≤ 5)) }
  zeros : x.isZero = true → y.isZero = true → ∀ k, k < 8 →
    laneCmp k mode (BitVec.ofNat 64 x.bits) (BitVec.ofNat 64 y.bits) = .bool (k == 0 || k == 3 || k == 5 || k == 7)

/-- A packed type's operation acts on its two elements apart, and its flags are those of both (R104). -/
def Elementwise (mode : Word) (f : Word → Double → Double → Double → LaneOut) : Prop :=
  ∀ a b d : Word,
    let lo := f mode ((a.setWidth 16 : BitVec 16).setWidth 64) ((b.setWidth 16 : BitVec 16).setWidth 64) ((d.setWidth 16 : BitVec 16).setWidth 64)
    let hi := f mode ((a.extractLsb' 16 16).setWidth 64) ((b.extractLsb' 16 16).setWidth 64) ((d.extractLsb' 16 16).setWidth 64)
    f mode (a.setWidth 64) (b.setWidth 64) (d.setWidth 64) = { val := BitVec.ofNat 64 (lo.val.toNat % 2 ^ 16 + hi.val.toNat % 2 ^ 16 * 2 ^ 16), flags := lo.flags ||| hi.flags, cv := none }

/-- The root of RDX's tree over the live lanes, by home lane (R121). -/
def reduction (t : Team) (a : Src) : SumNode :=
  rdxRoot t.mode t.ngrp fun h => match t.threads[h]? with
    | some th => if isLive t th then some (operand t th a) else none
    | none => none

/-! ### Memory -/

/-- The live lanes as a mask of positions (R65). -/
def liveMask (t : Team) : Mask := filterMask t.running (liveAt t)

/-- va lies in a page as a walk finds it, which the core's buffer and its die's cache hold and which may be accessed so; it maps va to
pa (R136, R139, R140). -/
def Mapped (s : State) (t : Team) (need : Need) (va pa : Nat) : Prop :=
  ∃ p pg, s.procOf t = some p ∧ s.walk p.root va = .page pg ∧ pg.c64 = false ∧
    (s.coreAt t.core).lookup p.asn va = some (pg.toCached p.asn) ∧ pg.toCached p.asn ∈ (s.dieAt (dieOf t.core)).dtlb ∧
    (match need with | .load => pg.r | .store => pg.w | .fetch => pg.x) = true ∧ pa = pg.pa + (va - pg.va)

/-- Where an access of size bytes at ea goes: a scratch or commons offset, or the physical address of a mapped page (R126 to
R140). -/
def Places (s : State) (t : Team) (space : Space) (need : Need) (ea : Double) (size : Nat) (tg : Target) : Prop :=
  (s.procOf t).isSome = true ∧
  ((s.resolve t space ea size (need == .store) = .at tg ∧ ∀ r off, tg ≠ .image r off) ∨
   (∃ pa, s.resolve t space ea size (need == .store) = .virt ea.toNat ∧ Mapped s t need (ea.toNat % 2 ^ 57) pa ∧ tg = .phys pa))

/-- The address of R126: base plus offset, of 64 bits in device memory and 32 bits elsewhere. -/
def addressOf (space : Space) (base off : Double) : Double :=
  match space with
  | .device => base + off
  | _ => ((base + off).setWidth 32).setWidth 64

/-- An ordinary team with nothing outstanding in memory: its block is neither sampled nor a shadow (R178), it has no store queued, no
watchpoint is set, no bound register is in use, no sector is poisoned, and no other team has its number. -/
structure Quiet (s : State) (t : Team) : Prop where
  queue : t.storeQ = []
  unwatched : s.watches = []
  original : ∀ b, s.blockOf t = some b → b.shadowOf = none ∧ b.sampled = false
  bounds : ∀ g ∈ s.grids, g.gid = t.gid → g.oldBounds = [] ∧ ∀ b ∈ g.bounds.toList, b.size = 0
  clean : s.poison = []
  sole : ∀ u ∈ s.teams, u.uid = t.uid → u = t

/-- A load or store with lanes. -/
structure MemForm where
  base : Src
  data : Src := .none
  dst : Dst := .none
  space : Space
  l : LS
  frees : List Nat

def MemForm.ea (f : MemForm) (t : Team) (p : Nat) : Double := addressOf f.space (rdAt t f.base p) f.l.off

/-- LD, LDS and LDX (R371). -/
def loadForm : Instr → Option MemForm
  | .ldVectorBase m d a l => some { base := .v a.toNat true, dst := .v d.toNat l.pair, space := .device, l := l, frees := freed m (.v a.toNat true) .none }
  | .ldScalarBase m d a l => some { base := .s a.toNat true, dst := .v d.toNat l.pair, space := .device, l := l, frees := [] }
  | .ldsVectorBase m d a l => some { base := .v a.toNat false, dst := .v d.toNat l.pair, space := .scratch, l := l, frees := freed m (.v a.toNat false) .none }
  | .ldsScalarBase m d a l => some { base := .s a.toNat false, dst := .v d.toNat l.pair, space := .scratch, l := l, frees := [] }
  | .ldxVectorBase m d a l => some { base := .v a.toNat false, dst := .v d.toNat l.pair, space := .commons, l := l, frees := freed m (.v a.toNat false) .none }
  | .ldxScalarBase m d a l => some { base := .s a.toNat false, dst := .v d.toNat l.pair, space := .commons, l := l, frees := [] }
  | _ => none

/-- ST, STS and STX (R411); the data of a scalar-base form may be a scalar (R412). -/
def storeForm : Instr → Option MemForm
  | .stVectorBase m a b l => some { base := .v a.toNat true, data := .v b.toNat l.pair, space := .device, l := l, frees := freed m (.v a.toNat true) (.v b.toNat l.pair) }
  | .stScalarBase m a b l => some { base := .s a.toNat true, data := dataS m b l, space := .device, l := l, frees := freed m (.s a.toNat true) (dataS m b l) }
  | .stsVectorBase m a b l => some { base := .v a.toNat false, data := .v b.toNat l.pair, space := .scratch, l := l, frees := freed m (.v a.toNat false) (.v b.toNat l.pair) }
  | .stsScalarBase m a b l => some { base := .s a.toNat false, data := dataS m b l, space := .scratch, l := l, frees := freed m (.s a.toNat false) (dataS m b l) }
  | .stxVectorBase m a b l => some { base := .v a.toNat false, data := .v b.toNat l.pair, space := .commons, l := l, frees := freed m (.v a.toNat false) (.v b.toNat l.pair) }
  | .stxScalarBase m a b l => some { base := .s a.toNat false, data := dataS m b l, space := .commons, l := l, frees := freed m (.s a.toNat false) (dataS m b l) }
  | _ => none

/-- The core's L1 holds the line of pa among its 1,536 (R10), and these bytes of it are those of memory (R135). -/
def LineFresh (s : State) (core pa n : Nat) : Prop :=
  ∃ ln, ((s.coreAt core).l1.take 1536).find? (fun x => x.line == pa / 128) = some ln ∧
    ((List.range n).map fun k => byteOf ln.data.toNat (pa % 128 + k)) = Memory.readBytes s.mem pa n

/-- A load takes what its home holds: it reads there, or its line is fresh. -/
def Current (s : State) (t : Team) (l : LS) (tg : Target) : Prop :=
  match tg with
  | .phys pa => l.atHome .device = true ∨ LineFresh s t.core pa l.bytes
  | _ => True

/-- The threads once live lanes have freed what last use marks (R57). -/
def freeing (t : Team) (l : List Nat) : List Thread := t.threads.map fun th => if isLive t th then th.freeAll l else th

/-- The store that the lane at p enters in the queue (R163). -/
def MemForm.entry (f : MemForm) (t : Team) (i : Instr) (tg : Target) (p : Nat) : StoreEntry :=
  { space := tg.space, addr := f.ea t p, key := tg.key,
    bytes := leBytes f.l.bytes ((rdAt t f.data p).toNat % 2 ^ (8 * f.l.bytes)), pc := t.pc, row := p / 32, pos := p % 32,
    lane := t.home p, core := t.core, word := (encode i).headD 0, lit := ((encode i).drop 1).headD 0, after := t.insn + 1,
    publishes := f.l.publishes f.space }

/-- One read-modify-write at its home (R158, R322): the old value, and the state with the new one. -/
def atomicAt (s : State) (t : Team) (l : LA) (tg : Target) (x d : Nat) : Nat × State :=
  let old := leNat (s.homeBytes tg l.bytes)
  let bs := leBytes l.bytes (l.apply old x d)
  let s := s.writeHome tg bs false
  (old, match tg with | .phys pa => s.modCore t.core fun k => k.patchLine pa bs | _ => s)

/-- The read-modify-writes of lanes, one after another: the old value each found. -/
def atomicsAt (t : Team) (l : LA) (tg : Nat → Target) (x d : Nat → Nat) : List Nat → State → List (Nat × Nat) × State
  | [], s => ([], s)
  | p :: ps, s =>
    let r := atomicAt s t l (tg p) (x p) (d p)
    let q := atomicsAt t l tg x d ps r.2
    ((p, r.1) :: q.1, q.2)

/-- ATOM, ATOMS, and ATOMR as it acts outside an ordered launch (R322 to R324, R176). -/
structure AtomForm where
  base : Src
  space : Space
  d : Reg
  b : Reg
  l : LA
  ret : Bool
  legal : Bool
  frees : List Nat

def atomForm (ordered : Bool) : Instr → Option AtomForm
  | .atomVectorBase m d a b l => some ⟨.v a.toNat true, .device, d, b, l, l.ret, l.ok, freed m (.v a.toNat true) (.v b.toNat l.width)⟩
  | .atomScalarBase m d a b l => some ⟨.s a.toNat true, .device, d, b, l, l.ret, l.ok, freed m (.s a.toNat true) (.v b.toNat l.width)⟩
  | .atomsScratchVectorBase m d a b l => some ⟨.v a.toNat false, .scratch, d, b, l, l.ret, l.ok, freed m (.v a.toNat false) (.v b.toNat l.width)⟩
  | .atomsScratchScalarBase m d a b l => some ⟨.s a.toNat false, .scratch, d, b, l, l.ret, l.ok, freed m (.s a.toNat false) (.v b.toNat l.width)⟩
  | .atomsCommonsVectorBase m d a b l => some ⟨.v a.toNat false, .commons, d, b, l, l.ret, l.ok, freed m (.v a.toNat false) (.v b.toNat l.width)⟩
  | .atomsCommonsScalarBase m d a b l => some ⟨.s a.toNat false, .commons, d, b, l, l.ret, l.ok, freed m (.s a.toNat false) (.v b.toNat l.width)⟩
  | .atomrVectorBase m d a b l => if ordered then none else
      some ⟨.v a.toNat true, .device, d, b, l, true, l.addOk, freed m (.v a.toNat true) (.v b.toNat l.width)⟩
  | .atomrScalarBase m d a b l => if ordered then none else
      some ⟨.s a.toNat true, .device, d, b, l, true, l.addOk, freed m (.s a.toNat true) (.v b.toNat l.width)⟩
  | _ => none

/-- Operands exist (R49): base, operand, the destination when a value returns, and the compare value of CAS. -/
def AtomForm.ok (f : AtomForm) (t : Team) : Bool :=
  f.legal && f.base.ok t && (Src.v f.b.toNat f.l.width).ok t && (!(f.ret || f.l.isCas) || (Src.v f.d.toNat f.l.width).ok t)

def AtomForm.x (f : AtomForm) (t : Team) (p : Nat) : Nat := (rdAt t (.v f.b.toNat f.l.width) p).toNat % 2 ^ (8 * f.l.bytes)
def AtomForm.cmp (f : AtomForm) (t : Team) (p : Nat) : Nat :=
  if f.l.isCas then (rdAt t (.v f.d.toNat f.l.width) p).toNat % 2 ^ (8 * f.l.bytes) else 0

/-- A reply that will land: the values of lanes for a destination (R90). -/
def replyOf (atomic : Bool) (t : Team) (dst : Dst) (lanes : List Nat) (v : Nat → Double) : InFlight :=
  { atomic := atomic, pc := t.pc, writes := lanes.flatMap fun p => dst.writes (t.home p) (v p) }

/-- n accesses of memory have been made: the free choices of later ones are others. -/
def after (n : Nat) (s : State) : State := { s with tick := s.tick + n }

/-- The stores that a lane's SPST enters in the queue: each word of it goes to its place in the team's spill stack (R129, R163). -/
def spillEntries (l : LS) (t : Team) (i : Instr) (p : Nat) (bs : List Byte) : List StoreEntry :=
  (spillChunks l t p).zipIdx.map fun x =>
    { space := .image, addr := x.1.1, key := t.uid * 2 ^ 32 + (x.1.1.toNat - t.spillBase.toNat),
      bytes := (bs.drop (4 * x.2)).take x.1.2, pc := t.pc, row := p / 32, pos := p % 32, lane := t.home p, core := t.core,
      word := (encode i).headD 0, lit := ((encode i).drop 1).headD 0, after := t.insn + 1, publishes := false }

/-- The team's spill region lies where an address of it says, and no image or other region covers it (R129). -/
def SpillsAt (s : State) (t : Team) (l : LS) : Prop :=
  (s.procOf t).isSome = true ∧ ∃ g, s.gridOf t = some g ∧ ∀ p, maskHas (liveMask t) p = true → ∀ ch ∈ spillChunks l t p,
    s.findImage g.pid ch.1.toNat = some (.spill t.uid, ch.1.toNat - t.spillBase.toNat)

/-- Where the spill words of the live lanes lie in mapped memory, the core's L1 holds their lines as they stand (R129, R135). -/
def SpillFresh (s : State) (t : Team) (l : LS) : Prop :=
  ∀ p, maskHas (liveMask t) p = true → ∀ ch ∈ spillChunks l t p, ∀ pa, s.imagePa (.spill t.uid) (ch.1.toNat - t.spillBase.toNat) = some pa →
    ∃ ln, ((s.coreAt t.core).l1.take 1536).find? (fun x => x.line == pa / 128) = some ln ∧
      ((List.range ch.2).map fun k => byteOf ln.data.toNat (pa % 128 + k)) = Memory.readBytes t.spill (ch.1.toNat - t.spillBase.toNat) ch.2

/-! ### Waiting and synchronisation -/

/-- The team's youngest instruction waits, with the replay entry it keeps (R317). -/
def waitsFor (t : Team) (i : Instr) (w : Wait) (e : ReplayEntry) : Team :=
  { t with pc := nextPc t i, passes := t.passes + 1, resumed := false, run := .waiting w, waitEntry := e, waitRte := none }

/-- Nothing else waits at an arrival point (R29, R30). -/
def arrives (t : Team) : Prop := t.stack = [] ∨ t.resumed = true

/-- A barrier object's 16 bytes lie in the team's scratch at this offset (R151). -/
def ObjectAt (s : State) (t : Team) (o : Nat) : Prop := o % 16 = 0 ∧ ∃ b, s.blockOf t = some b ∧ o + 16 ≤ b.scrsz

/-- The threads once each running lane has written a predicate; p0 discards writes (R47). -/
def withPredicate (t : Team) (i : Nat) (v : Bool) : List Thread :=
  t.threads.map fun th => if maskHas t.running th.pos then th.writeP i v else th

/-- The barrier object after a count-down by n, and whether it completed (R151). -/
def countedDown (s : State) (blk off n : Nat) : State × Bool :=
  match s.block? blk with
  | none => (s, false)
  | some b => (s.putObj blk off (countDown (b.obj off) n).1, (countDown (b.obj off) n).2)

/-- The 8-byte word that a class B instruction acts on (R264): its aligned address and its place. -/
def WordAt (s : State) (t : Team) (a : Reg) (need : Need) (tg : Target) : Prop :=
  t.hasSP a.toNat = true ∧ (t.readSP a.toNat).toNat % 8 = 0 ∧ Places s t .device need (t.readSP a.toNat) 8 tg

/-- The estate with one more holding, when a slot is free (R262). -/
def entered (t : Team) (kind : BitVec 3) (addr : Double) : Estate := ((Estate.enter t.estate kind addr 0 false).map Prod.snd).getD t.estate

/-- The estate without a holding (R262). -/
def released (s : State) (t : Team) (kind : BitVec 3) (addr : Double) : Estate :=
  match Estate.find t.estate kind addr with
  | some k => Estate.release t.estate k (s.heirKind t)
  | none => t.estate

/-! ### Matrix unit, radiance cache, mesh, system -/

/-- Values written to vd, vd + 1, … of a thread. -/
def Wrote (th : Thread) (d : Nat) (vals : List Word) : Thread := vals.zipIdx.foldl (fun th v => th.writeV (d + v.2) v.1) th

/-- The outputs of the network for the record of the lane at p (R287, R292). -/
def radianceOf (s : State) (t : Team) (base p : Nat) : List Word :=
  ((networkOf (s.coreAt t.core).weights).eval (features (s.recordAt t (recordOff t base p)))).map fun (v : Nat) => (BitVec.ofNat 32 v : Word)

/-- The die's cache region is placed in the commons of a core of the part (R290). -/
def RegionPlaced (s : State) (die : Nat) : Prop :=
  ∃ c o, s.regionAt die 0 = some (c, o) ∧ c < 576 ∧ Memory.wf (s.coreAt c).commons = true

/-- The image is published on the die: SET is one more, the slot that it names holds the image, and the other slot is as it was (R290,
R291). -/
structure Publishes (s s' : State) (die : Nat) (img : List Byte) : Prop where
  set : s'.setNumber die = (s.setNumber die + 1) % 2 ^ 32
  slot : s'.regionBytes die ((s.setNumber die + 1) % 2 * 0x4000) 0x4000 = img
  other : s'.regionBytes die (s.setNumber die % 2 * 0x4000) 0x4000 = s.regionBytes die (s.setNumber die % 2 * 0x4000) 0x4000

/-- The packet of RPKT: element j is va of the live lane of home lane j, else padding (R302). -/
def packetOf (t : Team) (a : Reg) : List (Option Word) :=
  (List.range 32).map fun j => match t.threads[j]? with
    | some th => if isLive t th then some (th.readV a.toNat) else none
    | none => none

/-- The threads once a result is received: live lanes of home lanes 0 to 31 take its elements (R302). -/
def receivedBy (t : Team) (d : Reg) (p : Packet) : List Thread :=
  t.threads.map fun th => if isLive t th && t.home th.pos < 32 then th.writeV d.toNat (p.value (t.home th.pos)) else th

/-- A special register of a lane (R67). -/
def laneRegister (t : Team) (idx : Nat) (th : Thread) : Word :=
  match idx with
  | 0 => BitVec.ofNat 32 (t.home th.pos)
  | 1 => BitVec.ofNat 32 (th.pos / 32)
  | 2 => BitVec.ofNat 32 (th.pos % 32)
  | _ => th.flags.setWidth 32

/-- A 32-bit special register of a team, by its index (R67). -/
def teamRegister (t : Team) (idx : Nat) : Option Word :=
  match idx with
  | 0x10 => some (BitVec.ofNat 32 t.core)
  | 0x11 => some (BitVec.ofNat 32 t.quad)
  | 0x12 => some (BitVec.ofNat 32 t.ngrp)
  | 0x13 => some (BitVec.setWidth 32 (t.threads.foldl (fun b th => b ||| th.flags) 0))
  | 0x14 => some (BitVec.ofNat 32 t.stack.length)
  | _ => none

/-- A counter of a team, its block, its die or its device, by its index (R345, R282, R297, R307); index 0x21 has a form of its own. -/
def counterOf (s : State) (t : Team) (b : Block) (idx : Nat) : Option Double :=
  match idx with
  | 0x00 => some t.insn
  | 0x01 => some t.passes
  | 0x02 => some t.tokw
  | 0x03 => some t.rcmiss
  | 0x04 => some t.split
  | 0x08 => some t.cbytes
  | 0x20 => some (b.mflags.setWidth 64)
  | 0x28 => some (BitVec.ofNat 64 (s.setNumber (t.core / 144)))
  | 0x29 => some (BitVec.ofNat 64 (s.dieAt (t.core / 144)).tapster.t)
  | _ => if 0x30 ≤ idx && idx ≤ 0x38 then s.hub.counters.toList[idx - 0x30]? else none

/-- Lanes of a mask free registers. -/
def freedIn (t : Team) (m : Mask) (l : List Nat) : List Thread := t.threads.map fun th => if maskHas m th.pos then th.freeAll l else th

/-! ### Passes of loads that defer or consume (R141, R208, R209) -/

/-- i is a load of device memory whose live lanes all stand in one row. -/
structure RowLoad (t : Team) (i : Instr) (f : MemForm) (row : Nat) : Prop where
  form : loadForm i = some f
  device : f.space = .device
  ok : f.l.ok f.space = true ∧ f.base.ok t = true ∧ f.dst.ok t = true
  row : ∀ p, maskHas (liveMask t) p = true → p / 32 = row

/-- A load at va meets a page fault that a walk finds, of this CAUSE and LEVEL, and no buffer holds a translation (R136, R139, R142). -/
structure PageFaults (s : State) (t : Team) (pr : Process) (va : Double) (size cause level : Nat) : Prop where
  virtual : s.resolve t .device va size false = .virt va.toNat
  walk : s.walk pr.root (va.toNat % 2 ^ 57) = .fault cause level
  cached : s.cachedAt t.core pr.asn (va.toNat % 2 ^ 57) = none

/-- What the lanes of a mask will receive of a load, if there are any (R90, R371). -/
def landing (s : State) (t : Team) (f : MemForm) (tg : Nat → Target) (good : Mask) (row : Nat) : List InFlight :=
  if good = 0 then [] else [replyOf false t f.dst (rowLanes good row) fun p => f.l.extend (s.homeBytes (tg p) f.l.bytes)]

/-! ### What happens without an instruction issuing -/

/-- A waiting instruction has finished, and its team is ready (R317). -/
def ended (t : Team) : Team := { t with run := .ready, waitEntry := .free, waitRte := none, insn := t.insn + 1 }

/-- A live team that no other has the number of, in a grid that no dump freezes. -/
structure Alive (s : State) (t : Team) : Prop where
  here : s.team? t.uid = some t
  lives : t.cause = 0
  thawed : s.gridFrozen t.gid = false
  sole : ∀ u ∈ s.teams, u.uid = t.uid → u = t

/-- The 32 bytes x of a copy request deserve rejection with status st, by the table of R148 and the codes of R154. -/
def RequestFault (s : State) (b : Block) (p : Process) (x st : Nat) : Prop :=
  let kind := bitsOf x 2 0
  let peer := bitsOf x 5 3
  let bar := 16 * bitsOf x 23 7
  let rows := bitsOf x 39 24
  let len := bitsOf x 63 40
  let src := fun (r : Nat) => (bitsOf x 191 128 : Int) + r * (BitVec.ofNat 32 (bitsOf x 95 64)).toInt
  let dst := fun (r : Nat) => (bitsOf x 255 192 : Int) + r * (BitVec.ofNat 32 (bitsOf x 127 96)).toInt
  let shaped := kind < 6 ∧ len ≠ 0 ∧ rows ≠ 0
  let outside := fun a : Int => a < 0 ∨ (b.scrsz : Int) < a + len
  let strays := fun a : Int => canonical (BitVec.ofInt 64 a) = false ∨ canonical (BitVec.ofInt 64 (a + (len - 1 : Nat))) = false
  (st = 1 ∧ 6 ≤ kind) ∨ (st = 2 ∧ (len = 0 ∨ rows = 0)) ∨
  (st = 3 ∧ shaped ∧ ∃ r < rows, (kind = 0 ∧ outside (dst r)) ∨ ((kind = 1 ∨ kind = 3) ∧ outside (src r))) ∨
  (st = 4 ∧ shaped ∧ kind = 3 ∧ ∃ r < rows, s.commonsRange b.die p (dst r) len true = false) ∨
  (st = 5 ∧ (b.scrsz < bar + 16 ∨ bitsOf (b.obj bar) 103 64 = 0)) ∨
  (st = 8 ∧ (kind = 4 ∨ kind = 5) ∧ (p.peers[peer]?).join = none) ∨
  (st = 9 ∧ (x.testBit 6 = true ∨ (kind ≠ 4 ∧ kind ≠ 5 ∧ peer ≠ 0))) ∨
  (st = 10 ∧ shaped ∧ ∃ r < rows, (kind ≠ 0 ∧ kind ≠ 3 ∧ strays (dst r)) ∨ (kind ≠ 1 ∧ kind ≠ 3 ∧ strays (src r)))

/-- What the Courier holds of an accepted request of bytes x: its fields, and nothing moved yet (R148, R149). Only what a watchpoint
hit would record of its CPOST is left open. -/
def RequestOf (s : State) (t : Team) (x : Nat) (q : CopyReq) : Prop :=
  q = { q with
    id := s.nextUid, team := t.uid, blk := t.blk, gid := t.gid, kind := BitVec.ofNat 3 (bitsOf x 2 0),
    dst := BitVec.ofNat 64 (bitsOf x 255 192), src := BitVec.ofNat 64 (bitsOf x 191 128), dstride := BitVec.ofNat 32 (bitsOf x 127 96),
    sstride := BitVec.ofNat 32 (bitsOf x 95 64), len := bitsOf x 63 40, rows := bitsOf x 39 24, bar := 16 * bitsOf x 23 7,
    peer := bitsOf x 5 3, moved := [], counted := 0, status := 0, paused := none, inHandler := t.inHandler, isHeir := t.isHeir }

/-- CPOST of a request of bytes x, by team t, which is `u` when it has finished. A request with no fault goes to the core's Courier; one
with a fault gets a status that it deserves, and when its BAR is valid all its bytes are counted down and ERR is set. Either is an item of
the open batch (R148, R149). -/
def Posts (s : State) (t u : Team) (b : Block) (p : Process) (x : Nat) (s' : State) : Prop :=
  let s1 : State := { s with nextUid := s.nextUid + 1 }
  let item := fun (st : Byte) (done : Bool) => { u with openBatch := t.openBatch ++ [{ req := s.nextUid, status := st, done := done }] }
  let bar := 16 * bitsOf x 23 7
  ((∀ st, ¬ RequestFault s b p x st) ∧ ∃ q, RequestOf s t x q ∧
    s' = (s1.modCore t.core fun c => { c with courier := c.courier ++ [q] }).setTeam (item 0 false)) ∨
  (∃ st : Byte, RequestFault s b p x st.toNat ∧ s' = (if bar + 16 ≤ b.scrsz ∧ bitsOf (b.obj bar) 103 64 ≠ 0 then
      ((after 1 s1).putObj t.blk bar (countDown (b.obj bar) (bitsOf x 63 40 * bitsOf x 39 24)).1).setErr t.blk bar
    else after 1 s1).setTeam (item st true))

/-- A request that its core's Courier has, with its block and its process. -/
structure Copying (s : State) (core : Nat) (q : CopyReq) (b : Block) (p : Process) : Prop where
  range : core < 576
  held : (s.coreAt core).courier.find? (fun x => x.id == q.id) = some q
  block : s.block? q.blk = some b
  home : b.core = core
  proc : (s.grid? q.gid).bind (fun g => s.proc? g.pid) = some p

/-- A place that a chunk of a copy writes to: memory, a block's scratch or a core's contribution. -/
def Writable (tg : Target) : Prop :=
  match tg with
  | .commons c _ => c < 576
  | .image _ _ => False
  | _ => True

/-- The items of a batch once request `req` has ended with a status. -/
def itemEnded (req : Nat) (st : Byte) (l : List BatchItem) : List BatchItem :=
  l.map fun i => if i.req = req then { i with status := st, done := true } else i

/-- A request ends with a status other than 0: its remaining bytes are counted down, ERR is set, its item is complete, and the Courier
has it no longer (R152). -/
def CopyStops (s s' : State) (core : Nat) (q : CopyReq) (b : Block) (st : Byte) : Prop :=
  s'.mem = s.mem ∧ s'.grids = s.grids ∧ (s'.coreAt core).courier = ((s.coreAt core).courier.filter fun x => x.id != q.id) ∧
  (∃ b', s'.block? q.blk = some b' ∧ b'.obj q.bar = Nat.lor (countDown (b.obj q.bar) (q.total - q.counted)).1 (2 ^ 126) ∧
    ∀ o, within o q.bar 16 = false → Memory.read b'.scratch o = Memory.read b.scratch o) ∧
  ∀ t, s.team? q.team = some t → ∃ t', s'.team? q.team = some t' ∧
    t' = { t with openBatch := itemEnded q.id st t.openBatch, batches := t.batches.map (fun x => (x.1, itemEnded q.id st x.2)), peerCopies := t'.peerCopies }

/-! ### Launches and what enters -/

/-- A team of a grid at entry, number k of its block, with the registers of R69. -/
structure Enters (g : Grid) (b : Block) (k : Nat) (t : Team) : Prop where
  place : t.gid = g.gid ∧ t.blk = b.uid ∧ t.core = b.core ∧ t.tix = k
  still : t.cause = 0 ∧ t.run = .ready ∧ t.mode = 0 ∧ t.stack = [] ∧ t.storeQ = [] ∧ t.inflight = [] ∧ t.insn = 0
  path : t.pc = g.entry ∧ t.mask = fullMask g.ngrp
  params : t.readSP 0 = g.param ∧ t.readS 2 = BitVec.ofNat 32 b.index ∧ t.readS 3 = BitVec.ofNat 32 k ∧ t.readS 4 = BitVec.ofNat 32 g.count
  zeros : ∀ r, 5 ≤ r → t.readS r = 0
  lanes : t.threads.length = 32 * g.ngrp ∧ ∀ h, h < 32 * g.ngrp → (t.thread h).pos = h ∧ (t.thread h).life = .live ∧
    (t.thread h).readV 0 = BitVec.ofNat 32 (k * 32 * g.ngrp + h) ∧ ∀ r, 0 < r → (t.thread h).readV r = 0

/-- A live team that no other has the number of. -/
def Single (s : State) (t : Team) : Prop := t ∈ s.teams ∧ t.cause = 0 ∧ ∀ u ∈ s.teams, u.uid = t.uid → u = t

/-- The team stands at the entry of a save or restore handler, ACTIVE saying which (R213). -/
structure InContext (g : Grid) (b : Block) (t t' : Team) (entry : Double) (active : Byte) : Prop where
  path : t'.pc = entry ∧ t'.mode = 0 ∧ t'.mask = fullMask t.ngrp ∧ t'.frame.active = active ∧ t'.run = .ready
  sizes : t'.nvec = 8 ∧ t'.nscal = 8
  params : t'.readSP 0 = b.saveBase ∧ t'.readSP 2 = b.bimga ∧ t'.readS 4 = BitVec.ofNat 32 t.tix ∧ t'.readS 5 = BitVec.ofNat 32 g.teams

/-! ### Management (R307) -/

/-- A well-formed request without a signature. -/
def Unsigned (q : Datagram) : Prop := isRequest q = true ∧ isSigned q = false

/-- A well-formed request with a signature of the right length and a sequence that is new. -/
structure Signed (s : State) (q : Datagram) : Prop where
  form : isRequest q = true
  signed : isSigned q = true
  length : q.sig.length = 114
  fresh : s.hub.lastSeq < q.seq

/-- What follows when the owner's signature verifies, or the reply BAD_SIGNATURE. -/
def ifVerified (s : State) (code : Nat) (q : Datagram) (f : State) : State :=
  if Config.ownerSigned (requestBytes q code) q.sig = true then f else s.answer code 5 q []

/-- The state with the request's sequence as the last accepted one. -/
def sequenced (s : State) (q : Datagram) : State := { s with hub := { s.hub with lastSeq := q.seq } }

/-! ### The debugger -/

/-- A stopped live team of that number. -/
def Stopped (s : State) (t : Team) : Prop := s.team? t.uid = some t ∧ t.stop.isSome = true ∧ t.cause = 0

end Sys2Proof.Safety
end

