-- ==== Sys2Proof/Certificates/Slice0/Obligations.lean ====
section
/-! DEFINITION. The statements put to the provers, from the numbered rules of spec/. -/

open Sys2Proof Machine Safety

/-! ### Classes 1 to 4 -/

/-- R321, R328, R333, R340, R374, R380, R388, R391, R404, R405: in every live lane the class 2 instructions and SEL write the named function
of W-bit patterns, LEA adds a sign-extended offset to a 64-bit address, MOV and MOVK copy; and nothing else of the team, of memory or of
any other part changes but the pc, the counts and the bookkeeping of dirty lines and windows. That helper lanes free the registers that LUA
and LUB name is the model's reading of R57 (DEDUCED, log 22). -/
def Obligations.PatternFunctions : Prop :=
  ∀ (s : State) (t : Team) (i : Instr) (f : LaneForm), Calm s t → Seated t →
    logicForm t.mode i = some f ∨ fieldForm t.mode i = some f ∨ moveOp t.mode i = some f → f.ok t = true →
    ∃ t', exec i s = .next (s.setTeam t') ∧ f.Result t t' i

/-- Class 3 but RDX, and the six functions of R124: under a type that the instruction accepts, and with no live lane raising an enabled
flag, each completes with its lane function's result and flags, and changes nothing else. On the integer types DIV, REM, MIN, MAX, CLAMP
and CMP follow R102 and R119; on the floating-point ones zeros, infinities and NaNs follow R112, R114 and R119, and a packed type's two
elements are computed apart (R104). That helper lanes free the registers that LUA and LUB name is the model's reading (DEDUCED, log 22). -/
def Obligations.TypedArithmetic : Prop :=
  (∀ (s : State) (t : Team) (i : Instr) (f : LaneForm), Calm s t → Seated t → typedForm t.mode i = some f → f.ok t = true →
    f.untrapped t → ∃ t', exec i s = .next (s.setTeam t') ∧ f.Result t t' i) ∧
  (∀ mode : Word, modeType mode ≤ 3 → ∀ x y z, IntegerRules mode x y z) ∧
  (∀ mode : Word, 4 ≤ modeType mode → ∀ x y z : Element mode,
    x.bits < 2 ^ (1 + (fieldsOfType (modeType mode)).1 + (fieldsOfType (modeType mode)).2) →
    y.bits < 2 ^ (1 + (fieldsOfType (modeType mode)).1 + (fieldsOfType (modeType mode)).2) →
    z.bits < 2 ^ (1 + (fieldsOfType (modeType mode)).1 + (fieldsOfType (modeType mode)).2) →
    FloatRules mode x y z ∧ (modeType mode ≤ 5 → CompareRules mode x y)) ∧
  (∀ mode : Word, 6 ≤ modeType mode →
    ∀ f ∈ [laneAdd, laneSub, laneMul, laneFma, laneMin, laneMax, laneClamp, laneAbs, laneNeg], Elementwise mode f)

/-- Votes, exchanges and flags of class 1, CVT, AMAX, QNT and DQNT, and, where no sector of memory is poisoned, the draws and CVSTA: each
lane's result, its flags and its choice vector are those of the lane function over its row, and nothing else changes. That helper lanes
free the registers that LUA and LUB name, and that a QNT group with no live lane keeps its registers, are the model's readings (DEDUCED,
log 22). -/
def Obligations.RowFunctions : Prop :=
  ∀ (s : State) (t : Team) (i : Instr) (f : RowForm), Calm s t → Seated t →
    crossForm t.mode i = some f ∨ convertForm t.mode i = some f ∨ (drawForm t.mode i = some f ∧ s.poison = []) → f.ok t = true → f.untrapped t →
    ∃ t', exec i s = .next (s.setTeam t') ∧ f.Result t t' i

/-- R50: p0 reads as true in every lane, a write to it is discarded, and an instruction whose destination it is completes with no trap and
leaves every thread's predicates as they were. -/
def Obligations.HardwiredPredicate : Prop :=
  (∀ (th : Thread) (x : Bool), th.readP 0 = true ∧ th.writeP 0 x = th) ∧
  (∀ (s : State) (t : Team) (i : Instr) (f : LaneForm), Calm s t → Seated t → typedForm t.mode i = some f → f.dst = .p 0 → f.a.ok t = true →
    f.b.ok t = true → f.d.ok t = true → f.untrapped t →
    ∃ t', exec i s = .next (s.setTeam t') ∧ t'.pc = nextPc t i ∧ t'.cause = t.cause ∧ ∀ h, (t'.thread h).p = (t.thread h).p) ∧
  (∀ (s : State) (t : Team) (i : Instr) (f : RowForm), Calm s t → Seated t → crossForm t.mode i = some f → f.dst = .p 0 → f.a.ok t = true →
    f.b.ok t = true → f.untrapped t →
    ∃ t', exec i s = .next (s.setTeam t') ∧ t'.pc = nextPc t i ∧ t'.cause = t.cause ∧ ∀ h, (t'.thread h).p = (t.thread h).p)

/-! ### Class 0 -/

/-- R331, R335, R337, R387, R402, R413: where the path goes on, what CALL saves in s62:s63 and RET takes from there.
R379, R367: MODE writes the guard and sense, or the fields selected, and GMODE exchanges the mode register with scalars. -/
def Obligations.StraightControl : Prop :=
  (∀ (s : State) (t : Team) (m : Mods) (l : LB), Calm s t →
    exec (.nop m) s = .next (s.setTeam (finished t (nextPc t (.nop m)) 1)) ∧
    exec (.stall m) s = .next (s.setTeam (finished t (nextPc t (.stall m)) 1)) ∧
    exec (.bra m l) s = .next (s.setTeam (finished t (branchTo t l) 1)) ∧
    exec (.brvd m l) s = .next (s.setTeam (finished t (if t.stack = [] then nextPc t (.brvd m l) else branchTo t l) 1)) ∧
    (t.aside = none → exec (.call m l) s = .next (s.setTeam (finished (t.writeSP 62 (nextPc t (.call m l))) (branchTo t l) 1))) ∧
    (t.aside = none → (t.readSP 62).toNat % 4 = 0 → canonical (t.readSP 62) = true →
      exec (.ret m) s = .next (s.setTeam (finished t (t.readSP 62) 1)))) ∧
  (∀ (s : State) (t : Team) (m : Mods) (d a b : Reg) (l : LM), Calm s t → Seated t →
    (d.toNat ≤ 1 → t.hasP a.toNat = true → exec (.modeGuard m d a) s = .next (s.setTeam (finished
      { t with mode := (t.mode &&& ~~~0x1F#32) ||| BitVec.ofNat 32 (a.toNat + 16 * d.toNat) } (nextPc t (.modeGuard m d a)) 1))) ∧
    (b.getLsbD 3 = false ∨ modeRnd (l.mode.setWidth 32) < 6 → t.aside = none →
      exec (.modeField m a b l) s = .next (s.setTeam (finished
        { t with mode := (t.mode &&& ~~~modeSelect a b) ||| (l.mode.setWidth 32 &&& modeSelect a b) }
        (nextPc t (.modeField m a b l)) 1))) ∧
    (t.hasS a.toNat = true → t.hasS d.toNat = true → t.readS a.toNat >>> 19 = 0 → modeRnd (t.readS a.toNat) < 6 →
      exec (.gmode m d a) s = .next (s.setTeam (finished { t.writeS d.toNat t.mode with mode := t.readS a.toNat }
        (nextPc t (.gmode m d a)) 1))))

/-- R29, R30, R369, R419: at JOIN and YIELD the path goes on when nothing waits on the stack, or when it has just resumed; else, above a
PATH entry at another address, it parks, and that path runs on from its own address. -/
def Obligations.ArrivalPoints : Prop :=
  ∀ (s : State) (t : Team) (m : Mods) (i : Instr), Calm s t → i = .join m ∨ i = .yield m →
    (t.stack = [] ∨ t.resumed = true → exec i s = .next (s.setTeam (finished t (nextPc t i) 1))) ∧
    (∀ e rest, t.stack = e :: rest → t.resumed = false → e.kind = 0 → e.resv = 0 → e.pc ≠ t.pc →
      maskMinus (e.gmask &&& fullMask t.ngrp) t.retiredMask ≠ 0 →
      exec i s = .next (s.setTeam { t with
        mask := maskMinus (e.gmask &&& fullMask t.ngrp) t.retiredMask, pc := e.pc, stack := parked t.pc t.mask :: rest, resumed := true, run := .ready }))

/-- R28, R332: BRC goes one way when its lanes agree; else it pushes the not-taken lanes, at the next instruction, and goes on with the
taken ones at the target.
R34, R334: BRM moves taken, not-taken and retired threads, in that order, into the positions that held them, and then branches as BRC
does; every thread keeps all but its position. It does so too when one of the two sets is empty, and then pushes nothing. The order of the
retired threads among themselves, and the order of the checks at issue, are the model's readings (DEDUCED, log 69). -/
def Obligations.ConditionalBranches : Prop :=
  (∀ (s : State) (t : Team) (m : Mods) (d a : Reg) (l : LB), Calm s t → Seated t → d.toNat ≤ 1 → t.hasP a.toNat = true →
    let i : Instr := .brc m d a l
    let tk := takenLanes t a (d == 1)
    let nt := otherLanes t a (d == 1)
    let n := (maskRows t.running).length
    (nt = 0 → exec i s = .next (s.setTeam (finished t (branchTo t l) n))) ∧
    (tk = 0 → exec i s = .next (s.setTeam (finished t (nextPc t i) n))) ∧
    (tk ≠ 0 → nt ≠ 0 → t.stack.length < 256 →
      exec i s = .next (s.setTeam (finished { t with mask := tk, stack := parked (nextPc t i) nt :: t.stack } (branchTo t l) n)))) ∧
  (∀ (s : State) (t : Team) (m : Mods) (d a : Reg) (l : LB), Calm s t → Seated t → d.toNat ≤ 1 → t.hasP a.toNat = true →
    let i : Instr := .brm m d a l
    let tk := maskLanes (takenLanes t a (d == 1))
    let nt := maskLanes (otherLanes t a (d == 1))
    let seats := maskLanes (t.running ||| t.retiredMask)
    tk = [] ∨ nt = [] ∨ t.stack.length < 256 →
    ∃ t' : Team, exec i s = .next (s.setTeam t') ∧ t'.insn = t.insn + 1 ∧ t'.s = t.s ∧
      t'.threads = t.threads.map (fun th =>
        { th with pos := (((tk ++ nt ++ maskLanes t.retiredMask).zip seats).lookup th.pos).getD th.pos }) ∧
      t'.pc = (if tk = [] then nextPc t i else branchTo t l) ∧
      t'.mask = maskOf (seats.take (if tk = [] then nt.length else tk.length)) ∧
      t'.stack = if tk ≠ [] ∧ nt ≠ [] then parked (nextPc t i) (maskOf ((seats.drop tk.length).take nt.length)) :: t.stack else t.stack)

/-- R336: BRX sorts its running lanes by address, whatever the guard, goes on at the lowest and stacks a path for each other address, the
next lowest on top. -/
def Obligations.IndirectBranch : Prop :=
  ∀ (s : State) (t : Team) (m : Mods) (a : Reg), Calm s t → Seated t → t.hasVP a.toNat = true →
    let i : Instr := .brx m a
    let go := fun p => (rdAt t (.v a.toNat true) p).toNat
    let lanesOf := fun k => filterMask t.running fun p => go p == k
    (∀ p, maskHas t.running p = true → go p % 4 = 0) →
    ∀ low others, (low :: others).Pairwise (· < ·) → (∀ k, k ∈ low :: others ↔ ∃ p, maskHas t.running p = true ∧ go p = k) →
      t.stack.length + others.length ≤ 256 →
      ∃ t' : Team, exec i s = .next (s.setTeam t') ∧ t'.pc = BitVec.ofNat 64 low ∧ t'.mask = lanesOf low ∧
        t'.stack = (others.map fun k => parked (BitVec.ofNat 64 k) (lanesOf k)) ++ t.stack ∧ t'.insn = t.insn + 1 ∧ t'.s = t.s ∧
        t'.threads = t.threads.map fun th => if maskHas t.running th.pos then th.freeAll (freed m (.v a.toNat true) .none) else th

/-- R42, R357, R358, R248, R370: EXIT and EXITR exit every running thread, EXITR with its result record, and a team whose last path this
was ends with cause EXIT; KILL ends the team at once with cause KILLED. -/
def Obligations.Endings : Prop :=
  ∀ (s : State) (t : Team) (m : Mods) (d a b : Reg), Calm s t → Seated t → DiesPlainly s t →
    (∃ s' t', exec (.kill m) s = .next s' ∧ s'.team? t.uid = some t' ∧ t'.cause = causeKILLED ∧ s'.mem = s.mem) ∧
    (t.frame.active = 0 → t.aside = none → t.stack = [] → s.awaitsDigest t = false →
      (∃ s' t', exec (.exit m) s = .next s' ∧ s'.team? t.uid = some t' ∧ t'.cause = causeEXIT ∧ s'.mem = s.mem ∧
        t'.threads = t.threads.map fun th => if maskHas t.running th.pos then { th with life := .exited } else th) ∧
      (0 < b.toNat → b.toNat ≤ 8 → d.toNat < b.toNat → (Src.vs a.toNat b.toNat).ok t = true →
        (∀ g, s.grid? t.gid = some g → g.relay = none) →
        ∃ s' t', exec (.exitr m d a b) s = .next s' ∧ s'.team? t.uid = some t' ∧ t'.cause = causeEXIT ∧ s'.mem = s.mem ∧
          t'.threads = t.threads.map fun th =>
            if maskHas t.running th.pos then
              { th.freeAll (freed m (.vs a.toNat b.toNat) .none) with
                life := .exited, cv := th.cv.putResult ((List.range b.toNat).map fun k => th.readV (a.toNat + k)) d.toNat }
            else th))

/-- R200, R203, R204, R329, R416: TRAP and, where no debugger is attached, BKPT enter the trap handler: the frame saves the pc, the address
after it, the mode register and the masks, and the handler runs on the running lanes with mode register 0. -/
def Obligations.SoftwareTraps : Prop :=
  ∀ (s : State) (t : Team) (g : Grid) (m : Mods) (l : LIdx), Calm s t → TakesTraps s t g →
    let counted : Team := { t with insn := t.insn + 1, passes := t.passes + 1 }
    exec (.trap m l) s = .next (s.setTeam (inHandler counted (trapFrame t (.trap m l) 0x14 l.idx 0 0 t.running) t.running g.traph)) ∧
    (g.debugged = false →
      exec (.bkpt m) s = .next (s.setTeam (inHandler counted (trapFrame t (.bkpt m) 0x13 0 0 4 t.running) t.running g.traph)))

/-- R206, R403, R128: RTE of a trap handler restores the mode register and the mask less retired threads, takes the spill-stack pointer
of the image, owes the captured instructions of STATE 1 in ascending order, drops those of STATE 2 as it passes them, and goes on at
RPC; a matrix instruction of the team that nothing performs again is no longer unfinished. -/
def Obligations.ReturnFromTrap : Prop :=
  ∀ (s : State) (t : Team) (m : Mods), Calm s t → t.aside = none → t.frame.active = 1 → t.stack.length = t.frame.edepth.toNat →
    (∀ k, (vget t.rq k .free).state.toNat ≤ 3) → t.frame.smode >>> 19 = 0 → modeRnd t.frame.smode < 6 →
    let mask := maskMinus (t.frame.smask &&& fullMask t.ngrp) t.retiredMask
    mask ≠ 0 →
    exec (.rte m) s = .next ((s.setTeam { t with
      frame := { t.frame with active := 0 }, mode := t.frame.smode, mask := mask, pc := t.frame.rpc, resumed := false,
      insn := t.insn + 1, passes := t.passes + 1, replay := t.rteReplays, ssp := t.sspImage,
      rq := if t.rteReplays = [] then t.rq.map fun e => if e.state = 2 then { e with state := 0 } else e else t.rq }).dropStaleJobs t.uid)

/-- R78, R206, R403: RTE outside a handler raises PRIVILEGE for every running lane, and the instruction stays to be performed in the lowest
free entry of the replay queue.
R203, R215: a trap raised while a handler is active ends the team with death cause FATAL; here TRAP's own.
R79, R203: a word of an unassigned opcode raises ILLEGAL_ENCODING at issue, and stays to be performed.
R49, R78, R203: an instruction that names a register its team does not have raises ILLEGAL_OPERAND at issue for every running lane,
and stays to be performed.
R58: under CHK an instruction of classes 1 to 4 that reads a freed entry in a live lane raises FREED_READ for the lanes whose entry is freed.
R92: under CHK one that reads, in a live lane, a fixed-latency result too early raises STALL_CHECK, INFO the writer's address.
R26: BRC and BRM that would divide, and BRX, raise PATH_STACK_OVERFLOW where they would push a 257th entry, and change nothing else. -/
def Obligations.TrapsAtIssue : Prop :=
  (∀ (s : State) (t : Team) (g : Grid) (m : Mods) (k : Nat), Calm s t → TakesTraps s t g → t.freeEntry = some k →
    ∃ e, exec (.rte m) s = .next (s.setTeam
        { inHandler t (trapFrame t (.rte m) 0x05 0 0 0 t.running) t.running g.traph with rq := vput t.rq k e }) ∧
      e.state = 1 ∧ e.pc = t.pc ∧ e.pmask = t.running ∧ e.mode = t.mode) ∧
  (∀ (s : State) (t : Team) (g : Grid) (m : Mods) (l : LIdx), Calm s t → DiesPlainly s t → s.gridOf t = some g → s.isShadow t = false →
    t.frame.active ≠ 0 → ∃ s' t', exec (.trap m l) s = .next s' ∧ s'.team? t.uid = some t' ∧ t'.cause = causeFATAL ∧ s'.mem = s.mem) ∧
  (∀ (s : State) (t : Team) (g : Grid) (w : Word) (k : Nat), Calm s t → TakesTraps s t g → t.freeEntry = some k →
    ∃ e, exec (.unassignedOpcode w) s = .next (s.setTeam
        { inHandler t (trapFrame t (.unassignedOpcode w) 0x01 0 0 0 t.running) t.running g.traph with rq := vput t.rq k e }) ∧
      e.state = 1 ∧ e.pc = t.pc ∧ e.pmask = t.running ∧ e.mode = t.mode) ∧
  (∀ (s : State) (t : Team) (g : Grid) (i : Instr) (f : LaneForm) (k : Nat), Calm s t → TakesTraps s t g → t.freeEntry = some k →
    logicForm t.mode i = some f ∨ fieldForm t.mode i = some f ∨ moveOp t.mode i = some f ∨ typedForm t.mode i = some f →
    f.ok t = false →
    ∃ e, exec i s = .next (s.setTeam { inHandler t (trapFrame t i 0x02 0 0 0 t.running) t.running g.traph with rq := vput t.rq k e }) ∧
      e.state = 1 ∧ e.pc = t.pc ∧ e.mode = t.mode) ∧
  (∀ (s : State) (t0 : Team) (g : Grid) (i : Instr) (f : LaneForm) (k : Nat), Calm s t0 → Seated t0 → TakesTraps s t0 g → t0.freeEntry = some k →
    let t : Team := { t0 with mode := t0.mode ||| 0x40000 }
    logicForm t.mode i = some f ∨ fieldForm t.mode i = some f ∨ moveOp t.mode i = some f ∨ typedForm t.mode i = some f → f.ok t = true →
    let fields := f.a.vregs.map (fun r => (1, r)) ++ f.b.vregs.map (fun r => (2, r)) ++ f.d.vregs.map fun r => (3, r)
    let hit := fun r => filterMask (liveMask t) fun p => (standing t p).freed.getLsbD r
    (∀ x, fields.find? (fun x => hit x.2 != 0) = some x →
      let lanes := fields.foldl (fun m x => m ||| hit x.2) 0
      ∃ e, exec i (s.setTeam t) = .next (s.setTeam { inHandler t
            (trapFrame t i 0x09 0 0 (BitVec.ofNat 64 (x.2 + 64 * x.1)) lanes) lanes g.traph with rq := vput t.rq k e }) ∧
        e.state = 1 ∧ e.pc = t.pc ∧ e.pmask = liveMask t ∧ e.mode = t.mode) ∧
    (∀ (w : RecentWrite) (h r : Nat) (old : Word), (∀ x ∈ fields, hit x.2 = 0) → (∃ x ∈ fields, x.2 = r) → h < t.threads.length →
      maskHas (liveMask t) (t.thread h).pos = true → w.olds = [(refV h r, old)] → w.dist < w.lat →
      ∃ e, exec i (s.setTeam { t with recent := [w] }) = .next (after 1 (s.setTeam { inHandler t
            (trapFrame t i 0x08 0 0 (w.pc &&& 0xFFFFFFFF) t.running) t.running g.traph with rq := vput t.rq k e })) ∧
        e.state = 1 ∧ e.pc = t.pc ∧ e.pmask = liveMask t ∧ e.mode = t.mode)) ∧
  (∀ (s : State) (t : Team) (g : Grid) (m : Mods) (d a : Reg) (l : LB) (k : Nat), Calm s t → Seated t → TakesTraps s t g →
    t.freeEntry = some k → 256 ≤ t.stack.length →
    (∀ i, i = .brc m d a l ∨ i = .brm m d a l → d.toNat ≤ 1 → t.hasP a.toNat = true → takenLanes t a (d == 1) ≠ 0 →
      otherLanes t a (d == 1) ≠ 0 →
      ∃ e, exec i s = .next (s.setTeam { inHandler t (trapFrame t i 0x11 0 0 0 t.running) t.running g.traph with rq := vput t.rq k e }) ∧
        e.state = 1 ∧ e.pc = t.pc ∧ e.pmask = t.running ∧ e.mode = t.mode) ∧
    (t.hasVP a.toNat = true →
      let go := fun p => (rdAt t (.v a.toNat true) p).toNat
      (∀ p, maskHas t.running p = true → go p % 4 = 0) →
      (∃ p q, maskHas t.running p = true ∧ maskHas t.running q = true ∧ go p ≠ go q) →
      ∃ e, exec (.brx m a) s = .next (s.setTeam
          { inHandler t (trapFrame t (.brx m a) 0x11 0 0 0 t.running) t.running g.traph with rq := vput t.rq k e }) ∧
        e.state = 1 ∧ e.pc = t.pc ∧ e.pmask = t.running ∧ e.mode = t.mode))

/-- R101: on the integer types ADD, SUB, MUL, FMA, NEG and ABS keep the low W bits of the exact result, or under SAT the nearest bound,
with the SAT flag where a bound replaces it; MULH writes the high W bits of the product; class 2 ignores SAT and sets no flag. That helper
lanes free the registers that LUA and LUB name is the model's reading (DEDUCED, log 22). -/
def Obligations.IntegerArithmetic : Prop :=
  (∀ (s : State) (t : Team) (i : Instr) (f : LaneForm), Calm s t → Seated t → exactForm t.mode i = some f → f.ok t = true →
    ∃ t', exec i s = .next (s.setTeam t') ∧ f.Result t t' i) ∧
  (∀ (s : State) (t : Team) (i : Instr) (f : LaneForm), Calm s t → Seated t →
    logicForm (t.mode &&& ~~~0x800) i = some f ∨ fieldForm (t.mode &&& ~~~0x800) i = some f ∨ moveOp (t.mode &&& ~~~0x800) i = some f →
    f.ok t = true →
    ∃ t', exec i s = .next (s.setTeam t') ∧ f.Result t t' i ∧ t'.threads.map Thread.flags = t.threads.map Thread.flags)

/-- R121, R122, R400: RDX writes the root of the tree over home lanes to s[d], +0 when no lane is live, and gives each flag to the lane
of its node. -/
def Obligations.Reduction : Prop :=
  ∀ (s : State) (t : Team) (m : Mods) (d a : Reg), Calm s t → Seated t → divType (modeType t.mode) = true →
    (vec t.mode a).ok t = true → (sca t.mode d).ok t = true →
    let root := reduction t (vec t.mode a)
    (∀ f ∈ root.flags, f.2 &&& modeTraps t.mode = 0) →
    let v := root.val.getD 0
    ∃ t' n, exec (.rdx m d a) s = .next (s.setTeam t') ∧
      t' = { finished t (nextPc t (.rdx m d a)) n with
        s := (if typeWide t.mode then t.writeSP d.toNat v else t.writeS d.toNat (v.setWidth 32)).s,
        threads := root.flags.foldl (fun l f => l.modify f.1 fun th => { th with flags := th.flags ||| f.2 })
          (freeing t (if m.lua then (vec t.mode a).vregs else [])),
        fDirty := t'.fDirty, auxDirty := t'.auxDirty }

/-- R117: where a live lane of a pass raises an enabled flag the part raises ARITH_TRAP at that pass; no lane of it or of a later pass is
written, earlier passes keep their results, and the frame names the lanes that raised. That helper lanes of an earlier pass free the
registers that LUA and LUB name is the model's reading (DEDUCED, log 22). -/
def Obligations.ArithmeticTrap : Prop :=
  ∀ (s : State) (t : Team) (g : Grid) (i : Instr) (f : LaneForm) (row : Nat), Calm s t → Seated t → TakesTraps s t g →
    typedForm t.mode i = some f → f.ok t = true →
    (∃ th ∈ t.threads, isLive t th = true ∧ th.pos / 32 = row ∧ (f.out t th).flags &&& modeTraps t.mode ≠ 0) →
    (∀ th ∈ t.threads, isLive t th = true → th.pos / 32 < row → (f.out t th).flags &&& modeTraps t.mode = 0) →
    ∃ t', exec i s = .next (s.setTeam t') ∧ t'.pc = g.traph ∧ t'.mode = 0 ∧ t'.s = t.s ∧ t'.insn = t.insn ∧
      t'.frame.cause = 0x06 ∧ t'.frame.tpc = t.pc ∧ t'.frame.smode = t.mode ∧ t'.frame.smask = t.mask ∧
      t'.frame.lmask = filterMask t.running (fun p => p / 32 == row && liveAt t p && (f.out t (standing t p)).flags &&& modeTraps t.mode != 0) ∧
      t'.threads = t.threads.map fun th => if th.pos / 32 < row then f.after t th else th

/-! ### Memory -/

/-- A write of bytes to a memory in canonical form is read back where it went and nowhere else, and keeps the form. -/
def Obligations.MemoryWrites : Prop :=
  ∀ (m : Memory) (a : Nat) (bs : List Byte), Memory.wf m = true →
    (∀ x, Memory.read (Memory.writeBytes m a bs) x = if within x a bs.length then bs.getD (x - a) 0 else Memory.read m x) ∧
    Memory.wf (Memory.writeBytes m a bs) = true

/-- R136, R139, R140: an access of a page that the tables map, with a fresh or no translation of it in the core's buffer or the die's
cache, takes the page's physical address or faults for want of a permission, with its cause and the level of the leaf; an address that
the tables do not map, and of which no translation is cached, faults with the walk's cause and level. No translation changes memory. -/
def Obligations.Translation : Prop :=
  ∀ (s : State) (core : Nat) (p : Process) (need : Need) (va : Nat), va < 2 ^ 57 →
    (∀ pg, s.walk p.root va = .page pg → pg.c64 = false →
      s.cachedAt core p.asn va = none ∨ s.cachedAt core p.asn va = some (pg.toCached p.asn) →
      ((match need with | .load => pg.r | .store => pg.w | .fetch => pg.x) = true →
        (s.translate core p need va).1 = .ok (pg.pa + (va - pg.va))) ∧
      ((match need with | .load => pg.r | .store => pg.w | .fetch => pg.x) = false →
        (s.translate core p need va).1 = .error ((match need with | .load => 2 | .store => 1 | .fetch => 3), pg.level))) ∧
    (∀ c l, s.walk p.root va = .fault c l → s.cachedAt core p.asn va = none → (s.translate core p need va).1 = .error (c, l)) ∧
    (s.translate core p need va).2.mem = s.mem

/-- R126, R371: LD, LDS and LDX read each live lane's bytes where its address goes, extended as SIZE says; the values land in vd later
(R90), pass by pass, and no memory changes. That a load takes its bytes when it issues is the model's choice (DESIGN CHOICE, log 9). -/
def Obligations.Loads : Prop :=
  ∀ (s : State) (t : Team) (i : Instr) (f : MemForm) (tg : Nat → Target), Calm s t → Seated t → Quiet s t → loadForm i = some f →
    f.l.ok f.space = true → f.base.ok t = true → f.dst.ok t = true →
    (∀ p, maskHas (liveMask t) p = true → Places s t f.space .load (f.ea t p) f.l.bytes (tg p) ∧ Current s t f.l (tg p)) →
    let rows := maskRows (liveMask t)
    let s1 := if liveMask t = 0 then s else if f.l.atHome f.space then s.discardL1 t.core else s.trimL1 t.core
    ∃ t', exec i s = .next (after rows.length (s1.setTeam t')) ∧
      t' = { finished t (nextPc t i) (maskRows t.running).length with
        threads := freeing t f.frees, fDirty := t'.fDirty,
        inflight := rows.map fun g =>
          replyOf false t f.dst (rowLanes (liveMask t) g) fun p => f.l.extend (s.homeBytes (tg p) f.l.bytes) }

/-- R163, R411, R412: ST, STS and STX enter one store for each live lane, in ascending position, in the team's queue: its place, its bytes
and the instruction it came from. No byte of memory changes at issue.
R155, R156: a word that overlaps the range of the one enabled bound register of its space, an integer one, is checked: out of bounds, the
flag policy stores it and sets BND, clamp stores LO or HI and sets BND, and trap raises BOUND_VIOLATION for the lanes of a row, INFO the
register, before any of them is stored. One that violates both limits counts as below LO (DESIGN CHOICE, log 73). -/
def Obligations.Stores : Prop :=
  ∀ (s : State) (t : Team) (i : Instr) (f : MemForm) (tg : Nat → Target), Calm s t → Seated t → Quiet s t → storeForm i = some f →
    f.l.storeOk f.space = true → f.base.ok t = true → f.data.ok t = true →
    (∀ p, maskHas (liveMask t) p = true → Places s t f.space .store (f.ea t p) f.l.bytes (tg p)) →
    (∃ t', exec i s = .next (after (maskRows (liveMask t)).length (s.setTeam t')) ∧
      t' = { finished t (nextPc t i) (maskRows t.running).length with
        threads := freeing t f.frees, fDirty := t'.fDirty, storeQ := (maskLanes (liveMask t)).map fun p => f.entry t i (tg p) p }) ∧
    (∀ (g : Grid) (n : Nat) (bd : Bound), s.gridOf t = some g → n < 16 → bd.size ≠ 0 → bd.format ≤ 1 → f.l.bytes = 4 →
      bd.space.toNat = (match f.space with | .device => 0 | .scratch => 1 | .commons => 2 | .image => 3) →
      let s1 := s.modGrid t.gid fun g => { g with bounds := vput g.bounds n bd }
      let num := fun x : Word => if bd.format = 0 then x.toInt else (x.toNat : Int)
      let val := fun p => ((rdAt t f.data p).setWidth 32 : Word)
      let inside := fun p => (f.ea t p).toNat < bd.base.toNat + bd.size.toNat && bd.base.toNat < (f.ea t p).toNat + 4
      let low := fun p => inside p && decide (num (val p) < num bd.lo)
      let high := fun p => inside p && !low p && decide (num bd.hi < num (val p))
      let out := filterMask (liveMask t) fun p => low p || high p
      (bd.policy = 1 ∨ bd.policy = 2 → ∃ t', exec i s1 = .next (after (maskRows (liveMask t)).length (s1.setTeam t')) ∧
        t' = { finished t (nextPc t i) (maskRows t.running).length with
          threads := (freeing t f.frees).map fun th => if maskHas out th.pos then { th with flags := th.flags ||| 0x20 } else th,
          fDirty := t'.fDirty, auxDirty := t'.auxDirty, auxAbsent := t'.auxAbsent,
          storeQ := (maskLanes (liveMask t)).map fun p => { f.entry t i (tg p) p with
            bytes := leBytes 4 (if bd.policy = 2 && low p then bd.lo else if bd.policy = 2 && high p then bd.hi else val p).toNat } }) ∧
      (bd.policy = 3 → TakesTraps s t g → (∃ row, ∀ p, maskHas (liveMask t) p = true → p / 32 = row) → ∀ p, lowestLane out = some p →
        ∃ t', exec i s1 = .next (s1.setTeam t') ∧ t'.pc = g.traph ∧ t'.mode = 0 ∧ t'.frame.cause = 0x0D ∧ t'.frame.tpc = t.pc ∧
          t'.frame.vaddr = f.ea t p ∧ t'.frame.info = BitVec.ofNat 64 n ∧ t'.frame.lmask = out ∧
          t'.threads = t.threads ∧ t'.s = t.s ∧ t'.storeQ = []))

/-- R373: LDK reads once for the team and its value lands in s[d]; with no live lane it does nothing.
R392: PREF changes nothing of the team but its progress and no memory, whatever its lanes' addresses are.
R128, R129, R163, R408: SPLD reads the live lanes' own words of the spill stack, here where L1 holds what its home holds, and SPST enters
stores to them, and to nothing else, in the team's queue.
That LDK and SPLD take their bytes when they issue is the model's choice (DESIGN CHOICE, log 9). -/
def Obligations.ConstantAndSpillAccesses : Prop :=
  (∀ (s : State) (t : Team) (m : Mods) (d a : Reg) (l : LS) (tg : Target), Calm s t → Seated t → Quiet s t → l.ok = true →
    t.hasSP a.toNat = true → (if l.pair then t.hasSP d.toNat else t.hasS d.toNat) = true →
    let ea := t.readSP a.toNat + l.off
    let v := l.extend (s.homeBytes tg l.bytes)
    let done := finished t (nextPc t (.ldk m d a l)) 1
    (liveMask t = 0 → exec (.ldk m d a l) s = .next (s.setTeam done)) ∧
    (liveMask t ≠ 0 → Places s t .device .load ea l.bytes tg → Current s t l tg →
      exec (.ldk m d a l) s = .next (after 1 ((if l.atHome .device then s.discardL1 t.core else s.trimL1 t.core).setTeam
        { done with inflight := [{ atomic := false, pc := t.pc, writes :=
            if l.pair then [(refS d.toNat, v.setWidth 32), (refS (d.toNat + 1), v.extractLsb' 32 32)] else [(refS d.toNat, v.setWidth 32)] }] })))) ∧
  (∀ (s : State) (t : Team) (m : Mods) (a : Reg) (l : LS) (i : Instr) (base : Src), Calm s t → Seated t →
    (i = .prefVectorBase m a l ∧ base = .v a.toNat true) ∨ (i = .prefScalarBase m a l ∧ base = .s a.toNat true) →
    base.ok t = true → l.ok = true → l.size = 0 → l.ord = false →
    ∃ s' t', exec i s = .next s' ∧ s'.team? t.uid = some t' ∧ s'.mem = s.mem ∧ s'.blocks = s.blocks ∧ s'.grids = s.grids ∧
      (∀ u, u ≠ t.uid → s'.team? u = s.team? u) ∧
      t' = { finished t (nextPc t i) (maskRows t.running).length with threads := freeing t (freed m base .none), fDirty := t'.fDirty }) ∧
  (∀ (s : State) (t : Team) (m : Mods) (d : Reg) (l : LS), Calm s t → Seated t → Quiet s t → l.spillOk = true → SpillsAt s t l →
    (Src.v d.toNat l.pair).ok t = true →
    let rows := maskRows (liveMask t)
    (SpillFresh s t l → ∃ t', exec (.spld m d l) s = .next (after rows.length ((if rows = [] then s else s.trimL1 t.core).setTeam t')) ∧
      t' = { finished t (nextPc t (.spld m d l)) (maskRows t.running).length with
        inflight := rows.map fun g => replyOf false t (.v d.toNat l.pair) (rowLanes (liveMask t) g) fun p =>
          l.extend ((spillChunks l t p).flatMap fun ch => Memory.readBytes t.spill (ch.1.toNat - t.spillBase.toNat) ch.2) }) ∧
    (l.storeOk = true → ∃ t', exec (.spst m d l) s = .next (after rows.length (s.setTeam t')) ∧
      t' = { finished t (nextPc t (.spst m d l)) (maskRows t.running).length with
        threads := freeing t (freed m .none (.v d.toNat l.pair)), fDirty := t'.fDirty,
        storeQ := (maskLanes (liveMask t)).flatMap fun p => spillEntries l t (.spst m d l) p
          (leBytes l.bytes ((rdAt t (.v d.toNat l.pair) p).toNat % 2 ^ (8 * l.bytes))) }))

/-- R158, R170, R322, R324, R176: ATOM, ATOMS and, outside an ordered launch, ATOMR read, compute and write at the home for one live
lane of a row after another, in ascending position; the old values land in vd later when RET is 1. That they are performed when the
instruction issues is the model's choice (DESIGN CHOICE, logs 9 and 47). -/
def Obligations.Atomics : Prop :=
  ∀ (s : State) (t : Team) (i : Instr) (f : AtomForm) (tg : Nat → Target) (row : Nat), Calm s t → Seated t → Quiet s t →
    atomForm ((s.gridOf t).any Grid.ordered) i = some f → f.ok t = true → liveMask t ≠ 0 →
    (∀ p, maskHas (liveMask t) p = true → p / 32 = row ∧ Places s t f.space .store (addressOf f.space (rdAt t f.base p) f.l.off) f.l.bytes (tg p)) →
    let lanes := maskLanes (liveMask t)
    let done := atomicsAt t f.l tg (f.x t) (f.cmp t) lanes s
    let s1 := if f.l.order.toNat % 2 = 1 then done.2.acquire t.core (narrowScope f.space f.l.scope) else done.2
    ∃ t', exec i s = .next (after 1 (s1.setTeam t')) ∧
      t' = { finished t (nextPc t i) (maskRows t.running).length with
        threads := freeing t f.frees, fDirty := t'.fDirty,
        inflight := if f.ret then
          [replyOf true t (.v f.d.toNat f.l.width) lanes fun p => BitVec.ofNat 64 ((done.1.lookup p).getD 0)] else [] }

/-- R361, R165, R167: FENCE with a release part performs every store the team has queued, oldest first; with an acquire part at die scope
or wider it discards the core's L1. -/
def Obligations.Fences : Prop :=
  ∀ (s : State) (t : Team) (m : Mods) (l : LFence), Calm s t → l.kind ≠ 0 → l.scope.toNat ≤ 5 →
    let s0 := s.setTeam t
    let s1 := if l.kind.toNat ≥ 2 then s0.releaseAt t.uid l.scope.toNat else s0
    let s2 := if l.kind.toNat % 2 = 1 then s1.acquire t.core l.scope.toNat else s1
    exec (.fence m l) s = .next (s2.modTeam t.uid fun u => finished u (nextPc t (.fence m l)) 1)

/-- R127: a live lane with a misaligned address raises ALIGNMENT at its pass, before any lane of it performs: VADDR is the lowest such
lane's address, and the frame names all of them. -/
def Obligations.AlignmentTrap : Prop :=
  ∀ (s : State) (t : Team) (g : Grid) (i : Instr) (f : MemForm) (p : Nat), Calm s t → Seated t → TakesTraps s t g → Quiet s t →
    (loadForm i = some f ∧ f.l.ok f.space = true ∧ f.dst.ok t = true) ∨
      (storeForm i = some f ∧ f.l.storeOk f.space = true ∧ f.data.ok t = true) →
    f.base.ok t = true →
    let off := fun q => (f.ea t q).toNat % f.l.bytes != 0
    lowestLane (filterMask (liveMask t) off) = some p → (∀ q, maskHas (liveMask t) q = true → p / 32 ≤ q / 32) →
    ∃ t', exec i s = .next (s.setTeam t') ∧ t'.pc = g.traph ∧ t'.mode = 0 ∧ t'.frame.cause = 0x0A ∧ t'.frame.vaddr = f.ea t p ∧
      t'.frame.tpc = t.pc ∧ t'.frame.lmask = filterMask (liveMask t) (fun q => q / 32 == p / 32 && off q) ∧
      t'.threads = t.threads ∧ t'.s = t.s ∧ t'.storeQ = t.storeQ ∧ t'.inflight = []

/-! ### Classes 7, 8, A and B -/

/-- R151: a count-down subtracts from COUNT, and adds INIT and inverts PHASE until the count is positive; with INIT 0 it sets ERR alone. -/
def Obligations.CountDown : Prop :=
  ∀ (x n : Nat), x < 2 ^ 128 →
    (bitsOf x 103 64 = 0 → countDown x n = (Nat.lor x (2 ^ 126), false)) ∧
    (bitsOf x 103 64 ≠ 0 → ∃ k : Nat,
      let c : Int := (bitsOf x 39 0 : Int) - n + k * (bitsOf x 103 64 : Int)
      0 < c ∧ (k = 0 ∨ c - (bitsOf x 103 64 : Int) ≤ 0) ∧ (bitsOf (countDown x n).1 39 0 : Int) = c ∧
      bitsOf (countDown x n).1 126 40 = bitsOf x 126 40 ∧ (countDown x n).1.testBit 127 = (x.testBit 127 ^^ (k % 2 == 1)) ∧
      (countDown x n).2 = (k != 0))

/-- R327, R151: BARI stores the object with COUNT and INIT from s[b]; BAR and BARA count it down; BAR goes on when that flips the phase
and else waits; BARW goes on when the phase is not the named one and else waits.
R366: GBAR arrives at the team's next generation; it goes on, with an acquire at device scope, when every team of the grid has
arrived or ended, and else waits. R236: a team that has a FOCUS entry on its stack waits without having arrived. -/
def Obligations.Barriers : Prop :=
  (∀ (s : State) (t : Team) (m : Mods) (a b : Reg), Calm s t → Quiet s t → t.hasS a.toNat = true → t.hasS b.toNat = true →
    let o := (t.readS a.toNat).toNat
    let n := (t.readS b.toNat).toNat
    (ObjectAt s t o → ∃ e, exec (.bari m a b) s = .next (s.setTeam { finished t (nextPc t (.bari m a b)) 1 with storeQ := [e] }) ∧
      e.target = .scratch t.blk o ∧ e.bytes = leBytes 16 (n * 2 ^ 64 + n)) ∧
    (ObjectAt s t o → exec (.bara m a b) s =
      .next ((countedDown s t.blk o n).1.setTeam (finished t (nextPc t (.bara m a b)) 1))) ∧
    (ObjectAt s t o → arrives t →
      let r := countedDown s t.blk o (32 * t.ngrp - (maskLanes t.waitingMask).length)
      ∃ e, exec (.bar m a) s = .next (r.1.setTeam
        (if r.2 then finished t (nextPc t (.bar m a)) 1 else waitsFor t (.bar m a) (.bar o (s.phaseAt t.blk o)) e))) ∧
    (ObjectAt s t (o / 16 * 16) → o % 16 / 2 = 0 → arrives t →
      ∃ e, exec (.barw m a) s = .next (s.setTeam
        (if s.phaseAt t.blk (o / 16 * 16) = (o % 2 == 1) then waitsFor t (.barw m a) (.barw (o / 16 * 16) (o % 2 == 1)) e
         else finished t (nextPc t (.barw m a)) 1)))) ∧
  (∀ (s : State) (t : Team) (m : Mods), Calm s t → Quiet s t → t.isGrid = true → arrives t →
    let k := t.gbarGen + 1
    let t1 := if t.stack.any (fun e => e.kind == 2) then t else { t with gbarGen := k }
    ∃ e, exec (.gbar m) s = .next
      (if (s.setTeam t1).gbarDone t.gid k then (s.acquire t.core 4).setTeam (finished t1 (nextPc t (.gbar m)) 1)
       else s.setTeam (waitsFor t1 (.gbar m) (.gbar k) e)))

/-- R173, R174, R356: EVPUB publishes the block's event once; EVWAIT returns a published value, with an acquire at device scope, or
waits; EVPEEK writes whether the event is published. -/
def Obligations.BlockEvents : Prop :=
  ∀ (s : State) (t : Team) (g : Grid) (b : Block) (m : Mods) (d a : Reg), Calm s t → Seated t → Quiet s t → s.gridOf t = some g →
    s.blockOf t = some b → t.hasS a.toNat = true →
    let i := (t.readS a.toNat).toNat
    (t.isGrid = true → b.published = false →
      exec (.evpub m a) s = .next ((s.publish b (t.readS a.toNat)).setTeam (finished t (nextPc t (.evpub m a)) 1))) ∧
    (i < g.count → (g.ordered = true → t.isGrid = true → i < b.index) →
      (t.hasS d.toNat = true →
        (∀ v, g.event? i = some v → exec (.evwait m d a) s =
          .next ((s.acquire t.core 4).setTeam (finished (t.writeS d.toNat v) (nextPc t (.evwait m d a)) 1))) ∧
        (g.event? i = none → ∃ e, exec (.evwait m d a) s = .next (s.setTeam (waitsFor t (.evwait m d a) (.evwait d i) e)))) ∧
      (t.hasP d.toNat = true → ∃ t', exec (.evpeek m d a) s =
          .next ((if (g.event? i).isSome then s.acquire t.core 4 else s).setTeam t') ∧
        t' = { finished t (nextPc t (.evpeek m d a)) (maskRows t.running).length with
          threads := withPredicate t d.toNat (g.event? i).isSome, auxDirty := t'.auxDirty, dirty := t'.dirty, fDirty := t'.fDirty }))

/-- R353, R354: ENQ appends one record for each running lane to a node with room for them, and waits at one without; ENQF closes a node's
open slot. -/
def Obligations.CoalescingNodes : Prop :=
  ∀ (s : State) (t : Team) (nd : Node) (m : Mods) (a b : Reg) (l : LNode), Calm s t → Seated t → Quiet s t →
    s.nodeOf t l.node.toNat = some nd →
    (exec (.enqf m l) s = .next ((s.modGrid t.gid fun g => { g with nodes := modifyAt g.nodes l.node.toNat fun n => n.close true }).setTeam
        (finished t (nextPc t (.enqf m l)) 1))) ∧
    (1 ≤ b.toNat → b.toNat ≤ 8 → nd.recw = b.toNat → (maskLanes t.running).length ≤ nd.thresh * nd.nslot →
      (Src.vs a.toNat b.toNat).ok t = true →
      ((maskLanes t.running).length ≤ nd.room → ∃ t', exec (.enq m a b l) s =
          .next ((s.appendRecords t.gid l.node.toNat ((maskLanes t.running).map fun p =>
            (List.range b.toNat).map fun k => (standing t p).readV (a.toNat + k))).setTeam t') ∧
        t' = { finished t (nextPc t (.enq m a b l)) (maskRows t.running).length with
          threads := t.threads.map (fun th =>
            if maskHas t.running th.pos then th.freeAll (freed m (.vs a.toNat b.toNat) .none) else th),
          fDirty := t'.fDirty }) ∧
      (nd.room < (maskLanes t.running).length → ∃ t', exec (.enq m a b l) s = .next (s.setTeam t') ∧ t'.threads = t.threads ∧
        t'.insn = t.insn ∧ ∃ w, t'.run = .waiting w))

/-- R148, R149, R154, R343: CPOST reads the 32 bytes at s[a]. A request that deserves no rejection goes to the core's Courier, with the
fields of those bytes; any other gets a status that it deserves, and counts its bytes down with ERR when its BAR is valid. Either way it is an
item of the team's open batch. While the Courier is full CPOST waits. Which of several statuses a request gets is left open.
R153, R338, R344, R348: CBATCH closes the open batch and returns its number, CSTAT returns a batch's status word, CWAIT goes on when the
batch and every earlier one are complete and else waits. With no live lane each does nothing. -/
def Obligations.Copies : Prop :=
  (∀ (s : State) (t : Team) (b : Block) (p : Process) (m : Mods) (a : Reg), Calm s t → Seated t → Quiet s t → t.hasS a.toNat = true →
    s.blockOf t = some b → s.procOf t = some p → (t.readS a.toNat).toNat % 32 = 0 → (t.readS a.toNat).toNat + 32 ≤ b.scrsz → liveMask t ≠ 0 →
    let off := (t.readS a.toNat).toNat
    (s.courierFull t.core = false → ∃ s', exec (.cpost m a) s = .next s' ∧
      Posts s t (finished t (nextPc t (.cpost m a)) 1) b p (Memory.readNat b.scratch off 32) s') ∧
    (s.courierFull t.core = true → ∃ e, exec (.cpost m a) s = .next (s.setTeam (waitsFor t (.cpost m a) (.cpost off) e)))) ∧
  (∀ (s : State) (t : Team) (m : Mods) (d a : Reg) (i : Instr), Calm s t → Seated t → liveMask t = 0 → t.hasS d.toNat = true →
    t.hasS a.toNat = true → i = .cpost m a ∨ i = .cbatch m d ∨ i = .cstat m d a ∨ i = .cwait m a →
    exec i s = .next (s.setTeam (finished t (nextPc t i) 1))) ∧
  (∀ (s : State) (t : Team) (m : Mods) (d a : Reg), Calm s t → Seated t → liveMask t ≠ 0 → t.hasS d.toNat = true → t.hasS a.toNat = true →
    (exec (.cbatch m d) s = .next (s.setTeam
      (finished (t.closeBatch.writeS d.toNat (batchNumber (t.batchCount + 1))) (nextPc t (.cbatch m d)) 1))) ∧
    (exec (.cstat m d a) s = .next (s.setTeam
      (finished (t.writeS d.toNat (t.batchStatus (t.readS a.toNat))) (nextPc t (.cstat m d a)) 1))) ∧
    (t.readS a.toNat = 0 → exec (.cwait m a) s = .next (s.setTeam (finished t (nextPc t (.cwait m a)) 1))) ∧
    (∀ k, t.readS a.toNat ≠ 0 → t.batchOf (t.readS a.toNat) = some k →
      ∃ e, exec (.cwait m a) s = .next (s.setTeam
        (if t.batchesDone k then finished t (nextPc t (.cwait m a)) 1 else waitsFor t (.cwait m a) (.cwait (t.readS a.toNat)) e))))

/-- R246, R247, R257: CVCFG, CVSET and RLCH change the choice vector of each live lane, and nothing else. -/
def Obligations.ChoiceConfiguration : Prop :=
  ∀ (s : State) (t : Team) (g : Grid) (b : Block) (m : Mods) (a c : Reg) (l : LCvcfg), Calm s t → Seated t → Quiet s t →
    s.gridOf t = some g → s.blockOf t = some b →
    let rows := (maskRows t.running).length
    let live := fun f => t.threads.map fun th => if isLive t th then f th else th
    (16 ≤ l.cap.toNat → l.cap.toNat ≤ g.cvcap → l.cap.toNat % 16 = 0 → (∀ th ∈ t.threads, isLive t th = true → th.cv.busy = false) →
      exec (.cvcfg m l) s = .next (s.setTeam { finished t (nextPc t (.cvcfg m l)) rows with
        threads := live fun th => { th with cv := th.cv.cvcfg l.cap l.mode } })) ∧
    (t.hasV a.toNat = true → t.hasV c.toNat = true →
      (∀ th ∈ t.threads, isLive t th = true → th.cv.badKey (th.readV a.toNat) = false) →
      exec (.cvset m a c) s = .next (s.setTeam { finished t (nextPc t (.cvset m a c)) rows with
        threads := live fun th => { th with cv := th.cv.cvset (th.readV a.toNat) (th.readV c.toNat) } })) ∧
    (t.hasS a.toNat = true → g.relay.any (fun r => r.level == 0) = false → (t.readS a.toNat).toNat % 32 = 0 →
      (t.readS a.toNat).toNat + 32 ≤ b.scrsz → liveMask t ≠ 0 → badMutation (b.formatAt (t.readS a.toNat).toNat) = false →
      exec (.rlch m a) s = .next (s.setTeam { finished t (nextPc t (.rlch m a)) rows with
        threads := live fun th => { th with cv :=
          { th.cv with pending := BitVec.ofNat 256 (b.formatAt (t.readS a.toNat).toNat), rwc := th.cv.rwc ||| 0x80 } } }))

/-- R262, R264, R355, R368: HEIR sets a slot's heir fields, and ESTQ reads an item of the estate table; item 128 clears the bits it
reads.
R265, R375, R417: LOCK takes a free lock for the team's tag, enters the holding, and returns and clears BEREAVED; at a lock that is
held it adds a waiter and waits. UNLOCK clears OWNER and frees the holding.
R266, R325, R363, R393: PROM makes an empty promise that the team holds; FULFIL stores the value and frees the holding; AWAIT returns the
status of a promise that is no longer empty, with an acquire at device scope, and else waits. -/
def Obligations.Holdings : Prop :=
  (∀ (s : State) (t : Team) (m : Mods) (d a : Reg) (l : LHeir), Calm s t → Seated t → Quiet s t → liveMask t ≠ 0 → t.hasS a.toNat = true →
    (l.kind ≠ 3 → exec (.heir m a l) s = .next (s.setTeam
      (finished { t with estate := Estate.setHeir t.estate l (t.readS a.toNat) } (nextPc t (.heir m a l)) 1))) ∧
    (t.hasS d.toNat = true → (t.readS a.toNat).toNat < 131 →
      let i := (t.readS a.toNat).toNat
      exec (.estq m d a) s = .next ((if i = 128 ∧ t.estateItem 128 ≠ 0 then s.acquire t.core 4 else s).setTeam (finished
        { t.writeS d.toNat (t.estateItem i) with
          estate := if i = 128 then t.estate.map (fun e => { e with brv := false }) else t.estate } (nextPc t (.estq m d a)) 1)))) ∧
  (∀ (s : State) (t : Team) (m : Mods) (d a : Reg) (tg : Target), Calm s t → Seated t → Quiet s t → liveMask t ≠ 0 →
    t.hasP d.toNat = true → WordAt s t a .store tg →
    let w := s.wordAt tg
    let va := t.readSP a.toNat
    (lockPoisoned w = false → lockOwner w = 0 → (Estate.freeSlot t.estate).isSome = true →
      ∃ t', exec (.lock m d a) s =
        .next (((s.putWord t.core tg (mkLock t.tag.toNat false false (lockWaiters w))).acquire t.core 4).setTeam t') ∧
        t' = { finished t (nextPc t (.lock m d a)) (maskRows t.running).length with
          threads := withPredicate t d.toNat (lockBereaved w), estate := entered t kindLock va,
          dirty := t'.dirty, fDirty := t'.fDirty, auxDirty := t'.auxDirty }) ∧
    (lockPoisoned w = false → lockOwner w ≠ 0 ∨ Estate.freeSlot t.estate = none →
      ∃ e, exec (.lock m d a) s = .next ((s.putWord t.core tg (lockWithWaiters w (moreWaiters (lockWaiters w)))).setTeam
        (waitsFor t (.lock m d a) (.lock (d.setWidth 4) va t.running) e))) ∧
    ((Estate.find t.estate kindLock va).isSome = true →
      exec (.unlock m a) s = .next ((s.putWord t.core tg (mkLock 0 (lockPoisoned w) (lockBereaved w) (lockWaiters w))).setTeam
        (finished { t with estate := released s t kindLock va } (nextPc t (.unlock m a)) 1)))) ∧
  (∀ (s : State) (t : Team) (m : Mods) (d a b : Reg) (tg : Target), Calm s t → Seated t → Quiet s t → liveMask t ≠ 0 →
    let w := s.wordAt tg
    let va := t.readSP a.toNat
    let held := (Estate.find t.estate kindPromise va).isSome
    (WordAt s t a .store tg → held = true ∨ (Estate.freeSlot t.estate).isSome = true →
      exec (.prom m a) s = .next ((s.putWord t.core tg (mkPromise 0 0 false)).setTeam
        (finished { t with estate := if held then t.estate else entered t kindPromise va } (nextPc t (.prom m a)) 1))) ∧
    (WordAt s t a .store tg → held = true → t.hasS b.toNat = true →
      exec (.fulfil m a b) s = .next ((s.putWord t.core tg (mkPromise (t.readS b.toNat).toNat 1 (promiseBereaved w))).setTeam
        (finished { t with estate := released s t kindPromise va } (nextPc t (.fulfil m a b)) 1))) ∧
    (WordAt s t a .load tg → t.hasS d.toNat = true →
      (promiseState w ≠ 0 → exec (.await m d a) s =
        .next ((s.acquire t.core 4).setTeam (finished (t.writeS d.toNat (awaitStatus w)) (nextPc t (.await m d a)) 1))) ∧
      (promiseState w = 0 → ∃ e, exec (.await m d a) s = .next (s.setTeam (waitsFor t (.await m d a) (.await d va) e)))))

/-! ### Classes 9, C and D -/

/-- R197, R275, R276, R378: MLOOP, once its first tile is full, becomes the block's job and waits when its first charge is granted, and until
then does not issue; MATRIX_STEP
computes every element of C of the step of the one loop that can start, empties the tile, and lets the team go on after the last. -/
def Obligations.MatrixLoops : Prop :=
  (∀ (s s1 : State) (t : Team) (b : Block) (m : Mods) (d a c : Reg) (l : LMloop), Calm s t → Quiet s t → s.blockOf t = some b →
    t.hasS a.toNat = true → t.hasS c.toNat = true → d.toNat < b.nacc → l.k ≠ 0 →
    let inc := t.readS a.toNat
    let off := (t.readS c.toNat).toNat
    let raw := b.formatAt off
    let f := FormatBlock.parse raw
    let rnd := BitVec.ofNat 3 (modeRnd t.mode)
    off % 32 = 0 → off + 32 ≤ b.scrsz → f.check b inc l.k.toNat = none → b.tileFull (f.tile 0) = true →
    let job := b.enterJob t.uid false (.loop d.toNat raw inc l.k.toNat 0 rnd (modeNfz t.mode) true 0 b.scratch)
    let charge := t.chargeWait ((b.stepIn s.tick f d.toNat 0 inc rnd (modeNfz t.mode) b.scratch).charge (s.prevBits t.core))
    (s.grantStep (dieOf t.core) t.gid t.uid charge = none →
      exec (.mloop m d a c l) s = .next (s.setTeam { t with tokenWait := some charge })) ∧
    (s.grantStep (dieOf t.core) t.gid t.uid charge = some s1 →
      ∃ e, exec (.mloop m d a c l) s = .next (after 1 ((s1.modBlock b.uid fun _ => job.2).setTeam
        (waitsFor t (.mloop m d a c l) (.mloop job.1) e))))) ∧
  (∀ (s s1 : State) (core : Nat) (b : Block) (j : MatrixJob) (t : Team) (f : FormatBlock) (x : StepIn) (acc raw : Nat) (inc : Word)
      (k n : Nat) (rnd : BitVec 3) (nfz paid : Bool) (waited : Nat) (seen : Memory),
    s.soft = [] → s.watches = [] → s.blocks = [b] → b.jobs = [j] → s.startable core b j = some (t, f, x, s1) → j.work = .loop acc raw inc k n rnd nfz paid waited seen →
    Table.wf b.accs = true →
    ∃ s' b' t', exec (.matrixStep core) s = .next s' ∧ s'.block? b.uid = some b' ∧ s'.team? t.uid = some t' ∧ s'.mem = s.mem ∧
      (∀ i k, i < f.mrow → k < f.ncol → i < 32 → k < 32 → b'.accAt acc i k = BitVec.ofNat 64 (x.element i k).bits) ∧
      b'.tfull = b.tfull &&& ~~~(1#16 <<< f.tile n) ∧ b'.scratch = b.scratch ∧
      (k ≤ n + 1 → t'.run = .ready ∧ t'.insn = t.insn + 1 ∧ b'.jobs = []) ∧ (n + 1 < k → t'.run = t.run ∧ t'.insn = t.insn))

/-- R272, R278, R376, R382: MTLD copies 16,384 bytes of scratch into an empty tile and sets it full, or waits; MACZ sets every element of
the accumulator to +0; neither changes anything else.
R278, R376: MACW converts 1,024 elements of scratch into the accumulator; MACR converts the accumulator's elements and writes them to
scratch. Neither reaches any other memory. -/
def Obligations.MatrixData : Prop :=
  (∀ (s : State) (t : Team) (b : Block) (m : Mods) (d a : Reg), Calm s t → Quiet s t → s.blockOf t = some b → s.serves t = true →
    (t.hasS a.toNat = true → d.toNat < b.ntile → (t.readS a.toNat).toNat % 256 = 0 → (t.readS a.toNat).toNat + 0x4000 ≤ b.scrsz →
      let off := (t.readS a.toNat).toNat
      (b.tileFull d.toNat = false → exec (.mtld m d a) s = .next (after 1 ((s.modBlock b.uid fun k => { k with
        tiles := Memory.writeBytes k.tiles (0x4000 * d.toNat) (Memory.readBytes b.scratch off 0x4000),
        loaded := k.loaded ||| (1#16 <<< d.toNat), tfull := k.tfull ||| (1#16 <<< d.toNat),
        jobs := k.jobs.filter fun j => j.id != b.nextJob }).setTeam (finished t (nextPc t (.mtld m d a)) 1)))) ∧
      (b.tileFull d.toNat = true → ∃ e, let job := b.enterJob t.uid false (.load d.toNat off b.scratch)
        exec (.mtld m d a) s = .next ((s.modBlock b.uid fun _ => job.2).setTeam (waitsFor t (.mtld m d a) (.mtld job.1) e)))) ∧
    (d.toNat < b.nacc → exec (.macz m d) s = .next ((s.modBlock t.blk fun k => { k with
        accs := (List.range 1024).foldl (fun l e => Table.set l (1024 * d.toNat + e) 0) k.accs }).setTeam
      (finished t (nextPc t (.macz m d)) 1)))) ∧
  (∀ (s : State) (t : Team) (b : Block) (m : Mods) (d a : Reg) (w : LMacw) (r : LMacr), Calm s t → Seated t → Quiet s t → s.blockOf t = some b →
    s.serves t = true → t.hasS a.toNat = true → d.toNat < b.nacc → (t.readS a.toNat).toNat % 256 = 0 →
    let off := (t.readS a.toNat).toNat
    (w.fmt.toNat ≤ 3 →
      let src := matrixFmt w.fmt.toNat
      let n := src.bits / 8
      let cell := fun e => fcvt src (if w.fmt = 0 then f64 else f32) { rnd := .rne, nfz := modeNfz t.mode } false (Memory.readNat b.scratch (off + n * e) n)
      off + 1024 * n ≤ b.scrsz →
      ∃ s' b', exec (.macw m d a w) s = .next s' ∧ s'.block? b.uid = some b' ∧ s'.mem = s.mem ∧ s'.cores = s.cores ∧
        s'.team? t.uid = some (finished t (nextPc t (.macw m d a w)) 1) ∧
        b' = { b with
          accs := (List.range 1024).foldl (fun l e => Table.set l (1024 * d.toNat + e) (BitVec.ofNat 64 (cell e).bits)) b.accs,
          mflags := setAccf (b.mflags ||| ((List.range 1024).foldl (fun fl e => fl ||| (cell e).flags) (0 : Byte)).setWidth 32) d.toNat (w.fmt == 0) }) ∧
    (r.fmt.toNat ≤ 3 → r.rc.toNat ≤ 6 →
      let dst := matrixFmt r.fmt.toNat
      let n := dst.bits / 8
      off + 1024 * n ≤ b.scrsz →
      let out := macrElements s b d.toNat (if (b.mflags >>> (16 + d.toNat)).getLsbD 0 then f64 else f32) r.fmt.toNat (rcOf t.mode r.rc.toNat)
        (modeNfz t.mode) (t.thread t.firstLive).cv
      ∃ s' b', exec (.macr m a d r) s = .next s' ∧ s'.block? b.uid = some b' ∧ s'.mem = s.mem ∧ s'.cores = s.cores ∧
        s'.team? t.uid = some { finished t (nextPc t (.macr m a d r)) 1 with
          threads := modifyAt t.threads t.firstLive fun th => { th with cv := out.2 } } ∧
        b'.scratch = Memory.writeBytes b.scratch off (out.1.flatMap fun e => leBytes n e.1.bits) ∧ b'.accs = b.accs ∧
        b'.mflags = b.mflags ||| (out.1.foldl (fun fl e => fl ||| e.1.flags) (0 : Byte)).setWidth 32))

/-- R279, R280, R381, R385: MRSV takes the core's free matrix unit and a slot of the estate, and says whether the team has it; MREL gives it
back; MWAIT goes on when the block's matrix work is done, and else waits. -/
def Obligations.MatrixReservation : Prop :=
  ∀ (s : State) (t : Team) (b : Block) (m : Mods) (d : Reg), Calm s t → Seated t → Quiet s t → s.blockOf t = some b → t.core < 576 →
    (t.hasP d.toNat = true → ∃ t', (t' = { finished t (nextPc t (.mrsv m d)) (maskRows t.running).length with
          threads := t'.threads, estate := t'.estate, dirty := t'.dirty, fDirty := t'.fDirty, auxDirty := t'.auxDirty }) ∧
        ((s.coreAt t.core).reservation = none → (Estate.freeSlot t.estate).isSome = true →
          exec (.mrsv m d) s = .next ((s.modCore t.core fun k => { k with reservation := some t.uid }).setTeam t') ∧
          t'.threads = withPredicate t d.toNat true ∧ t'.estate = entered t kindMatrix (BitVec.ofNat 64 t.core)) ∧
        ((s.coreAt t.core).reservation = none → Estate.freeSlot t.estate = none →
          exec (.mrsv m d) s = .next (s.setTeam t') ∧ t'.threads = withPredicate t d.toNat false ∧ t'.estate = t.estate) ∧
        (∀ u, (s.coreAt t.core).reservation = some u →
          exec (.mrsv m d) s = .next (s.setTeam t') ∧ t'.threads = withPredicate t d.toNat (u == t.uid) ∧ t'.estate = t.estate)) ∧
    ((s.coreAt t.core).reservation = some t.uid →
      exec (.mrel m) s = .next ((s.modCore t.core fun k => { k with reservation := none }).setTeam
        (finished { t with estate := released s t kindMatrix (BitVec.ofNat 64 t.core), shadowUnit := false } (nextPc t (.mrel m)) 1))) ∧
    (∃ e, exec (.mwait m) s = .next (s.setTeam
      (if b.matrixDone b.nextJob then finished t (nextPc t (.mwait m)) 1 else waitsFor t (.mwait m) (.mwait b.nextJob) e)))

/-- R287, R292, R294: RCQ evaluates the weight set of the core for each live lane's record in scratch, once its charge is granted, and
writes the outputs, with a ticket under train; RCT deposits a target at each live lane's ticket.
R296, R291: each RCCTL sets its parameter of the die's Tapster from s[a], refuses nothing that its range allows, and changes nothing else;
LOADW takes the master weights from the image, zeroes the moments and the step count, and publishes the image as the next set. -/
def Obligations.Radiance : Prop :=
  (∀ (s : State) (t : Team) (b : Block) (m : Mods) (d a c : Reg), Calm s t → Seated t → Quiet s t → s.blockOf t = some b →
    let rows := (maskRows t.running).length
    (∀ (l : LRcq) (s1 : State), (∀ k, k < (if l.train then 4 else 3) → t.hasV (d.toNat + k) = true) → t.hasS a.toNat = true → s.serves t = true →
      (s.coreAt t.core).weightSet = s.setNumber (dieOf t.core) →
      let base := (t.readS a.toNat).toNat
      base % 16 = 0 → (∀ p, maskHas (liveMask t) p = true → recordOff t base p + 48 ≤ b.scrsz) →
      s.rcqTurn t = true → s.grantPasses t rows = some s1 →
      ∃ (s' : State) (t' : Team) (tk : Nat → Word), exec (.rcq m d a l) s = .next s' ∧ s'.team? t.uid = some t' ∧ s'.mem = s.mem ∧ s'.blocks = s.blocks ∧
        s'.grids = s.grids ∧ s'.cores = (s.modCore t.core fun k => { k with lastSlot := t.slot }).cores ∧ (l.train = false → t'.estate = t.estate) ∧
        t' = { finished t (nextPc t (.rcq m d a l)) rows with
          threads := t.threads.map (fun th =>
            if isLive t th then Wrote th d.toNat (radianceOf s t base th.pos ++ if l.train then [tk th.pos] else []) else th),
          estate := t'.estate, dirty := t'.dirty, fDirty := t'.fDirty }) ∧
    (t.hasV c.toNat = true → (Src.vs d.toNat 3).ok t = true →
      ∃ fd, exec (.rct m c d) s = .next (((maskLanes (liveMask t)).foldl (fun s p =>
          s.deposit (dieOf t.core) ((standing t p).readV c.toNat) ((List.range 3).map fun k => (standing t p).readV (d.toNat + k))) s).modTeam
        t.uid fun u => { finished u (nextPc t (.rct m c d)) rows with
          threads := freeing t (freed m (.v c.toNat false) (.vs d.toNat 3)), fDirty := fd }))) ∧
  (∀ (s : State) (t : Team) (m : Mods) (a : Reg), Calm s t → Seated t → Quiet s t → liveMask t ≠ 0 → t.hasS a.toNat = true →
    let v := t.readS a.toNat
    let sets := fun (i : Instr) (f : Tapster → Tapster) => exec i s =
      .next ((s.modDie (dieOf t.core) fun d => { d with tapster := f d.tapster }).setTeam (finished t (nextPc t i) 1))
    (v.toNat ≤ 65535 → sets (.rcctlSteps m a) fun x => { x with steps := v }) ∧
    (positiveF32 v = true → sets (.rcctlLr m a) fun x => { x with lr := v }) ∧
    (fractionF32 v = true → sets (.rcctlBeta1 m a) fun x => { x with beta1 := v }) ∧
    (fractionF32 v = true → sets (.rcctlBeta2 m a) fun x => { x with beta2 := v }) ∧
    (positiveF32 v = true → sets (.rcctlEps m a) fun x => { x with eps := v }) ∧
    (sets (.rcctlFrame m a) fun x => { x with budget := x.steps.toNat }) ∧
    (sets (.rcctlFlush m a) fun x => x.freeWhere fun y => y.state == .filled) ∧
    (∀ p, s.procOf t = some p → v.toNat % 0x4000 = 0 → s.commonsRange (dieOf t.core) p v.toNat 0x4000 false = true → t.core < 576 →
      ∀ k off, s.commonsAt (dieOf t.core) v.toNat 1 = some (k, off) →
      let img := Memory.writeBytes [] 0 (Memory.readBytes (s.coreAt k).commons off 0x4000)
      ∃ s', exec (.rcctlLoadw m a) s = .next s' ∧ s'.mem = s.mem ∧ s'.blocks = s.blocks ∧
        s'.team? t.uid = some (finished t (nextPc t (.rcctlLoadw m a)) 1) ∧
        let x := (s'.dieAt (dieOf t.core)).tapster
        x.loaded = true ∧ x.t = 0 ∧ x.budget = x.steps.toNat ∧ x.steps = (s.dieAt (dieOf t.core)).tapster.steps ∧ x.m = [] ∧ x.v = [] ∧
        (∀ q, q < paramCount → Table.get x.master q = imageParam img q) ∧
        (RegionPlaced s (dieOf t.core) → Publishes s s' (dieOf t.core) (Memory.readBytes (s.coreAt k).commons off 0x4000))))

/-- R297: CTR of index 0x28 writes the die's SET, zero-extended, and of index 0x29 the optimiser steps since the last LOADW, to its pair;
neither changes anything else. -/
def Obligations.TapsterCounters : Prop :=
  ∀ (s : State) (t : Team) (m : Mods) (d : Reg), Calm s t → Seated t → Quiet s t → t.hasSP d.toNat = true →
    let gives := fun (l : LIdx) (v : Nat) => exec (.ctr m d l) s =
      .next (after 1 (s.setTeam (finished (t.writeSP d.toNat (BitVec.ofNat 64 v)) (nextPc t (.ctr m d l)) 1)))
    gives { idx := 0x28 } (s.setNumber (dieOf t.core)) ∧ gives { idx := 0x29 } (s.dieAt (dieOf t.core)).tapster.t

/-- R301, R302: RPKT sends the live lanes of home lanes 0 to 31 as one packet into the router's local slot, or waits for room; RPRCV takes the
result that the root holds, or waits for one. -/
def Obligations.ReductionPackets : Prop :=
  ∀ (s : State) (t : Team) (g : Grid) (m : Mods) (d a : Reg) (l : LTree), Calm s t → Seated t → Quiet s t → s.gridOf t = some g →
    (t.hasV a.toNat = true → (g.localSlot l.id.toNat t.core).isSome = true →
      (∀ s1, s.sendPacket t l.id.toNat (packetOf t a) = some s1 →
        ∃ t', exec (.rpkt m a l) s = .next (s1.setTeam t') ∧
          t' = { finished t (nextPc t (.rpkt m a l)) (maskRows t.running).length with threads := freeing t (freed m (.v a.toNat false) .none), fDirty := t'.fDirty }) ∧
      (s.sendPacket t l.id.toNat (packetOf t a) = none → ∃ w e, exec (.rpkt m a l) s =
        .next (s.setTeam (waitsFor (t.passed (extraPasses t.running)) (.rpkt m a l) w e)))) ∧
    (t.hasV d.toNat = true → t.hasS a.toNat = true → (g.rootAt l.id.toNat t.core).isSome = true → liveMask t ≠ 0 →
      (∀ p s1, s.takeResult t l.id.toNat = some (p, s1) →
        ∃ t', exec (.rprcv m d a l) s = .next (s1.setTeam t') ∧
          t' = { finished t (nextPc t (.rprcv m d a l)) (maskRows t.running).length with
            threads := receivedBy t d p, s := (t.writeS a.toNat p.status).s, dirty := t'.dirty, fDirty := t'.fDirty, auxDirty := t'.auxDirty }) ∧
      (s.takeResult t l.id.toNat = none → ∃ w e, exec (.rprcv m d a l) s = .next (s.setTeam (waitsFor t (.rprcv m d a l) w e))))

/-- R67, R68, R345, R410: SRD reads a lane's or the team's special register, SWR writes the flag byte without its bit 7, and CTR reads a
counter into a pair; index 0x21 clears MFLAGS [6:0] as it reads. CYCLE is a value of its own at each moment (log 15).
R155, R330: BNDS writes the bound register that its literal names from the 32 bytes of scratch at s[a].
R415: SYSC says its number, the team's joined name and s8 to s15 to the outside, and waits for the reply. -/
def Obligations.SpecialRegisters : Prop :=
  (∀ (s : State) (t : Team) (m : Mods) (d : Reg) (l : LIdx), Calm s t → Seated t → Quiet s t →
    let idx := l.idx.toNat
    let rows := (maskRows t.running).length
    (idx ≤ 3 → t.hasV d.toNat = true → ∃ t', exec (.srd m d l) s = .next (s.setTeam t') ∧
      t' = { finished t (nextPc t (.srd m d l)) rows with
        threads := t.threads.map (fun th => if maskHas t.running th.pos then th.writeV d.toNat (laneRegister t idx th) else th),
        recent := t'.recent, dirty := t'.dirty, fDirty := t'.fDirty }) ∧
    (∀ v, teamRegister t idx = some v → t.hasS d.toNat = true → ∃ t', exec (.srd m d l) s = .next (s.setTeam t') ∧
      t' = { finished (t.writeS d.toNat v) (nextPc t (.srd m d l)) 1 with recent := t'.recent }) ∧
    (∀ b v, s.blockOf t = some b → idx = 0x18 ∧ v = t.imga ∨ idx = 0x19 ∧ v = b.bimga ∨ idx = 0x1A ∧ v = Config.cycle t.core s.tick →
      t.hasSP d.toNat = true →
      ∃ t', exec (.srd m d l) s = .next (after 1 (s.setTeam t')) ∧
        t' = { finished (t.writeSP d.toNat v) (nextPc t (.srd m d l)) 1 with recent := t'.recent }) ∧
    (idx = 3 → t.hasV d.toNat = true → ∃ t', exec (.swr m d l) s = .next (s.setTeam t') ∧
      t' = { finished t (nextPc t (.swr m d l)) rows with
        threads := t.threads.map (fun th =>
          if maskHas t.running th.pos then
            { th.freeAll (freed m (.v d.toNat false) .none) with flags := (th.readV d.toNat).setWidth 8 &&& 0x7F } else th),
        fDirty := t'.fDirty, auxDirty := t'.auxDirty }) ∧
    (∀ b v, s.blockOf t = some b → counterOf s t b idx = some v → t.hasSP d.toNat = true →
      exec (.ctr m d l) s = .next (after 1 (s.setTeam (finished (t.writeSP d.toNat v) (nextPc t (.ctr m d l)) 1)))) ∧
    (∀ b, s.blockOf t = some b → t.hasSP d.toNat = true →
      exec (.ctrMflagsClear m d) s = .next (after 1 ((s.modBlock t.blk fun b => { b with mflags := b.mflags &&& ~~~0x7F#32 }).setTeam
        (finished (t.writeSP d.toNat (b.mflags.setWidth 64)) (nextPc t (.ctrMflagsClear m d)) 1))))) ∧
  (∀ (s : State) (t : Team) (b : Block) (bd : Bound) (m : Mods) (a : Reg) (l : LBnds), Calm s t → Quiet s t → s.blockOf t = some b →
    t.hasS a.toNat = true → (t.readS a.toNat).toNat % 32 = 0 → (t.readS a.toNat).toNat + 32 ≤ b.scrsz →
    Bound.parse (b.formatAt (t.readS a.toNat).toNat) = some bd →
    exec (.bnds m a l) s = .next ((s.modGrid t.gid fun g => g.putBound l.n.toNat t.uid bd).setTeam (finished t (nextPc t (.bnds m a l)) 1))) ∧
  (∀ (s : State) (t : Team) (m : Mods) (l : LSysc), Calm s t → Quiet s t → t.aside = none →
    ∃ e, exec (.sysc m l) s = .next ((s.say "SYSC" (s.syscRequest t l.n.toNat)).setTeam (waitsFor { t with sysc := .sent } (.sysc m l) (.sysc l.n) e)))

/-! ### Waits end, replies land, stores are performed -/

/-- R317 and the rule of each: a waiting BAR, BARW, GBAR, CWAIT, MWAIT or EVWAIT leaves, with its acquire and its result, once what it waits
for has come about.
R264 to R266, R375, R424: a waiting AWAIT returns a promise's status once it is no longer empty; a waiting LOCK acquires a lock that is
free, with one waiter fewer.
R149, R301, R302, R353, R382: a waiting ENQ, CPOST, MTLD, RPKT or RPRCV does its work once there is room for it.
R415: Serai's reply writes its bytes and s8 to s15, and the waiting SYSC leaves with an acquire at system scope. -/
def Obligations.WaitsEnd : Prop :=
  (∀ (s : State) (t : Team) (w : Wait), s.waiter t.uid = some (t, w) → Quiet s t →
    (∀ o ph, w = .bar o ph ∨ w = .barw o ph → s.phaseAt t.blk o ≠ ph → exec (.barWaitComplete t.uid) s = .next (s.setTeam (ended t))) ∧
    (∀ k, w = .gbar k → s.gbarDone t.gid k = true →
      exec (.gbarWaitComplete t.uid) s = .next ((s.acquire t.core 4).setTeam (ended t))) ∧
    (∀ n, w = .cwait n → (t.batchOf n).any t.batchesDone = true → exec (.cwaitComplete t.uid) s = .next (s.setTeam (ended t))) ∧
    (∀ n, w = .mwait n → (s.blockOf t).any (fun b => b.matrixDone n) = true → exec (.mwaitComplete t.uid) s = .next (s.setTeam (ended t))) ∧
    (∀ d i v, w = .evwait d i → s.eventOf t i = some v →
      ∃ rs, exec (.evwaitComplete t.uid) s =
        .next ((s.acquire t.core 4).setTeam { ended (t.writeS d.toNat v) with recent := rs }))) ∧
  (∀ (s : State) (t : Team) (w : Wait) (tg : Target), s.waiter t.uid = some (t, w) → Quiet s t → s.soft = [] →
    (∀ d va, w = .await d va → s.waitWord t .load va = some tg → promiseState (s.wordAt tg) ≠ 0 →
      ∃ rs, exec (.awaitWake t.uid) s =
        .next ((s.acquire t.core 4).setTeam { ended (t.writeS d.toNat (awaitStatus (s.wordAt tg))) with recent := rs })) ∧
    (∀ d va lanes, w = .lock d va lanes → s.waitWord t .store va = some tg → lockPoisoned (s.wordAt tg) = false →
      lockOwner (s.wordAt tg) = 0 → (Estate.freeSlot t.estate).isSome = true →
      let x := s.wordAt tg
      ∃ t', exec (.lockAcquireAfterWait t.uid) s = .next (after 1 (((s.putWord t.core tg
          (mkLock t.tag.toNat false false (fewerWaiters s.tick (lockWaiters x)))).acquire t.core 4).setTeam t')) ∧
        t' = { ended (t.passed (extraPasses lanes)) with
          threads := t.threads.map (fun th => if maskHas lanes th.pos then th.writeP d.toNat (lockBereaved x) else th),
          estate := entered t kindLock va, recent := t'.recent, auxDirty := t'.auxDirty, auxAbsent := t'.auxAbsent })) ∧
  (∀ (s : State) (t : Team) (b : Block) (w : Wait), s.waiter t.uid = some (t, w) → Seated t → Quiet s t → s.soft = [] → s.blockOf t = some b →
    (∀ k records frees nd, w = .enq k records frees → s.nodeOf t k = some nd → records.length ≤ nd.room →
      ∃ t', exec (.enqAfterWait t.uid) s = .next ((s.appendRecords t.gid k records).setTeam t') ∧
        t' = { ended t with threads := freedIn t t.waitEntry.pmask frees, fDirty := t'.fDirty, fAbsent := t'.fAbsent }) ∧
    (∀ off, w = .cpost off → s.courierFull t.core = false →
      ∀ p, s.procOf t = some p → ∃ s', exec (.cpostAfterWait t.uid) s = .next s' ∧
        Posts s t (ended t) b p (Memory.readNat b.scratch off 32) s') ∧
    (∀ jid tile src seen tm, w = .mtld jid → b.jobs.find? (fun j => j.id == jid) = some { id := jid, team := tm, work := .load tile src seen } →
      s.tileReady t b tile = true →
      ∃ s' b', exec (.mtldAfterWait t.uid) s = .next s' ∧ s'.mem = s.mem ∧ s'.team? t.uid = some (ended t) ∧ s'.block? b.uid = some b' ∧
        b'.tfull = b.tfull ||| (1#16 <<< tile) ∧ b'.scratch = b.scratch ∧ b'.accs = b.accs ∧ b'.jobs = b.jobs.filter fun j => j.id != jid) ∧
    (∀ k data frees s1, w = .rpkt k data frees → s.sendPacket t k data = some s1 →
      ∃ t', exec (.rpktAfterWait t.uid) s = .next (s1.setTeam t') ∧
        t' = { ended t with threads := freedIn t t.waitEntry.pmask frees, fDirty := t'.fDirty, fAbsent := t'.fAbsent }) ∧
    (∀ d sa k lanes p s1, w = .rprcv d sa k lanes → s.takeResult t k = some (p, s1) →
      ∃ t', exec (.rprcvComplete t.uid) s = .next (s1.setTeam t') ∧
        t' = { ended (t.passed (extraPasses t.running)) with
          threads := t.threads.map (fun th =>
            if maskHas lanes th.pos && t.home th.pos < 32 then th.writeV d.toNat (p.value (t.home th.pos)) else th),
          s := (t.writeS sa.toNat p.status).s, recent := t'.recent, dirty := t'.dirty, fDirty := t'.fDirty, auxDirty := t'.auxDirty,
          absent := t'.absent, fAbsent := t'.fAbsent, auxAbsent := t'.auxAbsent })) ∧
  (∀ (s : State) (t : Team) (n : BitVec 16) (r : SyscReply), s.waiter t.uid = some (t, .sysc n) → Quiet s t → t.sysc = .sent →
    exec (.syscReply t.uid r) s = .next (((s.seraiWrites t r.mem).acquire t.core 5).setTeam (ended { t.putArgs r.regs with sysc := .idle })))

/-- R135, R163: a team's oldest queued store is performed: its bytes stand where its address went, in device memory, in scratch or in
the commons, and no other byte of memory changes.
R55, R90, R214: the oldest outstanding load or atomic lands in its destination registers, but for dead lanes.
R53, R60, R61: the line that a team waits for arrives, and counts as a miss; a dirty line that leaves the cache and comes back reads
as it did, in whichever form it was packed. -/
def Obligations.StoresAndReplies : Prop :=
  (∀ (s : State) (t : Team) (e : StoreEntry) (rest : List StoreEntry), Alive s t → t.storeQ = e :: rest → s.watches = [] →
    ∃ s', exec (.storeQueueDrain t.uid) s = .next s' ∧ s'.team? t.uid = some { t with storeQ := rest } ∧
      (e.space = .device → s.badSector e.key = false → s'.mem = Memory.writeBytes s.mem e.key e.bytes ∧ s'.blocks = s.blocks) ∧
      (e.space = .scratch → s'.mem = s.mem ∧ s'.cores = s.cores ∧ ∀ b, s.block? (e.key / 2 ^ 32) = some b →
        ∃ b', s'.block? (e.key / 2 ^ 32) = some b' ∧ b'.scratch = Memory.writeBytes b.scratch (e.key % 2 ^ 32) e.bytes ∧
          b'.tiles = b.tiles ∧ b'.accs = b.accs) ∧
      (e.space = .commons → s'.mem = s.mem ∧ s'.blocks = s.blocks ∧ (e.key / 2 ^ 32 < 576 →
        (s'.coreAt (e.key / 2 ^ 32)).commons = Memory.writeBytes (s.coreAt (e.key / 2 ^ 32)).commons (e.key % 2 ^ 32) e.bytes))) ∧
  (∀ (s : State) (t : Team) (f : InFlight) (rest : List InFlight), Alive s t → s.soft = [] → t.inflight = f :: rest →
    let put := fun (u : Team) (r : RegRef) (x : Word) =>
      { (if f.atomic then u.lateWrite r x else u.writeRef r x) with recent := dropRefs u.recent r }
    let landed : Team := { f.writes.foldl (fun (u : Team) w => match w.1 with
        | .v h _ => if (u.thread h).life = .dead then u else put u w.1 w.2
        | r => put u r w.2) { t with inflight := [f] } with inflight := rest }
    (f.atomic = false → exec (.loadReply t.uid) s = .next (s.setTeam landed)) ∧
    (f.atomic = true → t.aside = none → exec (.atomicReply t.uid) s = .next (s.setTeam landed)) ∧
    (∀ l more, t.run = .missing (l :: more) → exec (.registerLineFill t.uid) s =
      .next (s.setTeam { t.fill l with run := if more.isEmpty then .ready else .missing more, rcmiss := t.rcmiss + 1 }))) ∧
  (∀ (t : Team) (k : Nat), Seated t → Memory.wf t.image = true → t.hasLine (.vector k) = true → t.isDirty (.vector k) = true →
    ((t.evict (.vector k)).fill (.vector k)).threads = t.threads)

/-! ### Engines -/

/-- R150 to R153, R345: a chunk of a copy between places of the part that it reaches, none of them uncorrectable, or from a peer, puts the
source's bytes at the destination and changes nothing else of memory; it counts them for the request, for its team's CBYTES and, by
count_down, for its barrier object. With the last one the request's item is complete and the Courier lets the request go. A pause ends when
its fault is resolved; where the fault is denied, and at a peer that does not answer, the copy ends with its status.
R195, R199: in a die cycle the pool takes the refill less what the private pools take, capped at 64 refills, and pays for traffic, to
no less than −64 refills. -/
def Obligations.CourierAndPool : Prop :=
  (∀ (s : State) (core : Nat) (q : CopyReq) (b : Block) (p : Process) (c : CopyChunk), Copying s core q b p → s.watches = [] → s.soft = [] →
    (∀ (t : Team) (sx dx : Nat → Target), q.paused = none → q.fits c = true → s.gridFrozen q.gid = false → s.poison = [] →
      b.shadowOf = none → b.sampled = false → memoriesWf s = true → s.team? q.team = some t →
      q.kind.toNat ≤ 3 ∨ (q.kind = 5 ∧ c.data.length = c.len) →
      (q.kind ≠ 5 → ∀ i, i < c.len →
        ∃ y, s.copyPlace b p q (sourceSide q.kind.toNat) q.src q.sstride .load c.row (c.off + i) = .at (sx i) y) →
      (∀ i, i < c.len → (∃ y, s.copyPlace b p q (destSide q.kind.toNat) q.dst q.dstride .store c.row (c.off + i) = .at (dx i) y) ∧
        Writable (dx i) ∧ (∀ k, k < i → dx k ≠ dx i) ∧ ∀ o, dx i = .scratch b.uid o → within o q.bar 16 = false) →
      ∃ s' b' t', exec (.courierCountDown core q.id c) s = .next s' ∧ s'.grids = s.grids ∧ s'.procs = s.procs ∧
        s'.block? q.blk = some b' ∧ s'.team? q.team = some t' ∧
        (∀ i, i < c.len → s'.homeBytes (dx i) 1 = if q.kind = 5 then [c.data.getD i 0] else s.homeBytes (sx i) 1) ∧
        (∀ a, (∀ i, i < c.len → dx i ≠ .phys a) → Memory.read s'.mem a = Memory.read s.mem a) ∧
        (∀ o, (∀ i, i < c.len → dx i ≠ .scratch b.uid o) → within o q.bar 16 = false → Memory.read b'.scratch o = Memory.read b.scratch o) ∧
        b'.obj q.bar = (countDown (b.obj q.bar) c.len).1 ∧ t'.cbytes = t.cbytes + BitVec.ofNat 64 c.len ∧
        (q.total ≤ q.counted + c.len → (s'.coreAt core).courier = ((s.coreAt core).courier.filter fun x => x.id != q.id) ∧
          t'.openBatch = itemEnded q.id q.status t.openBatch ∧ t'.batches = t.batches.map fun x => (x.1, itemEnded q.id q.status x.2)) ∧
        (q.counted + c.len < q.total → t'.openBatch = t.openBatch ∧ t'.batches = t.batches ∧
          (s'.coreAt core).courier = (s.coreAt core).courier.map fun x =>
            if x.id = q.id then { q with counted := q.counted + c.len, moved := (c.row, c.off, c.len) :: q.moved } else x)) ∧
    (∀ ix f, q.paused = some ix →
      (s.dieAt (dieOf core)).faults.find? (fun x => x.index == ix && x.team == q.team && 4 ≤ x.access.toNat) = some f →
      (f.status = 1 → exec (.copyFaultResume core q.id) s = .next ((s.freeFault (dieOf core) ix).modCore core fun k =>
        { k with courier := k.courier.map fun x => if x.id = q.id then { x with paused := none } else x })) ∧
      (f.status = 2 → Memory.wf b.scratch = true → ∃ s', exec (.copyFaultResume core q.id) s = .next s' ∧ CopyStops s s' core q b 6)) ∧
    (q.kind = 4 ∨ q.kind = 5 → Memory.wf b.scratch = true → ∃ s', exec (.peerRetryLimit core q.id) s = .next s' ∧ CopyStops s s' core q b 8)) ∧
  (∀ (s : State) (die bytes : Nat), die < 4 →
    let R := s.refill
    let F := ((s.floorsOn die).map Prod.snd).sum
    let taken := ((s.floorsOn die).map fun x => floorRefill x.2 F R).sum
    let moved := (s.dieAt die).traffic + bytes
    ∃ s', exec (.poolRefill die bytes) s = .next s' ∧ s'.mem = s.mem ∧ s'.teams = (s.ageWaits die).teams ∧ s'.blocks = (s.ageWaits die).blocks ∧
      (s'.dieAt die).traffic = moved % 256 ∧
      (s'.dieAt die).pool = max (min ((s.dieAt die).pool + R - taken) (64 * R) - 384 * ((moved / 256 : Nat) : Int)) (-(64 * R)))

/-- R143, R144, R32, R208: Serai's resolution of a pending entry sets its status once; the deferred path then resumes with its lanes and
owes the replay of its instruction; a pass that waits for room is made again.
R141, R142, R208: the lanes of a pass that fault on one page are split off as one DEFERRED entry, with one fault-queue entry, and a
replay-queue entry of STATE 3 keeps them and their operands; the other lanes go on. -/
def Obligations.FaultsResolve : Prop :=
  (∀ (s : State) (die idx : Nat) (f : FaultEntry), die < 4 → s.pendingFault die idx = some f → s.held f = false → s.restorePage f = s →
    let set := fun (st : BitVec 2) => { s.modDie die (fun d => { d with faults := d.faults.map fun x =>
      if x.index.toNat = idx && x.status = 0 then { x with status := st, order := s.clock } else x }) with clock := s.clock + 1 }
    exec (.faultStatusResolved die idx) s = .next (set 1) ∧ exec (.faultStatusDenied die idx) s = .next (set 2)) ∧
  (∀ (s : State) (t : Team) (e : PathEntry) (rest : List PathEntry) (f : FaultEntry), Alive s t → s.moves t = true → t.run = .choosing none →
    t.stack = e :: rest → e.kind = 1 → e.resv = 0 → (∀ x, rest.head? = some x → x.kind ≠ 1) →
    s.faultOf t e.ftag = some f → f.status = 1 ∨ f.status = 2 →
    let m := maskMinus (e.gmask &&& fullMask t.ngrp) t.retiredMask
    m ≠ 0 → exec (.deferredPathResume t.uid) s = .next ((s.takeFault t e.ftag).setTeam { t with
      mask := m, pc := e.pc, resumed := true, run := .ready, recent := [], stack := rest, replay := t.deferredReplay e m (f.status == 2) })) ∧
  (∀ (s : State) (t : Team) (pr : Process) (i : Instr) (f : MemForm) (tg : Nat → Target) (bad : Mask) (row k cause level page : Nat),
    Calm s t → Seated t → Quiet s t → RowLoad t i f row → s.procOf t = some pr →
    let good := maskMinus (liveMask t) bad
    bad ≠ 0 → maskMinus t.running bad ≠ 0 → (∀ p, maskHas bad p = true → maskHas (liveMask t) p = true ∧
      PageFaults s t pr (f.ea t p) f.l.bytes cause level ∧ (f.ea t p).toNat / 4096 = page) →
    (∀ p, maskHas good p = true → Places s t .device .load (f.ea t p) f.l.bytes (tg p) ∧ Current s t f.l (tg p)) →
    faultRoom s (dieOf t.core) 1 = true → t.stack.length < 256 → (∀ e ∈ t.rq.toList, e.state ≠ 3) → t.freeEntry = some k →
    ∃ s' t' ix x p0, exec i s = .next s' ∧ s'.team? t.uid = some t' ∧ s'.mem = s.mem ∧ s'.blocks = s.blocks ∧ lowestLane bad = some p0 ∧
      (s'.dieAt (dieOf t.core)).faults = ((s.dieAt (dieOf t.core)).faults.filter fun y => y.index.toNat != ix) ++ [x] ∧
      x = { vaddr := f.ea t p0, pc := t.pc, lmask := maskRow bad row, grid := BitVec.ofNat 32 t.gid, asn := BitVec.ofNat 16 pr.asn,
            core := BitVec.ofNat 10 t.core, tslot := BitVec.ofNat 6 t.slot, row := BitVec.ofNat 5 row, access := 0,
            level := BitVec.ofNat 4 level, cause := BitVec.ofNat 4 cause, status := 0, index := BitVec.ofNat 12 ix, team := t.uid, order := 0 } ∧
      t'.stack = { gmask := bad, resv := 0, ftag := BitVec.ofNat 12 ix, kind := 1, pc := t.pc } :: t.stack ∧
      t'.mask = maskMinus t.mask bad ∧ t'.pc = nextPc t i ∧ t'.run = .ready ∧ t'.split = t.split + 1 ∧
      t'.threads = freedIn t good f.frees ∧ t'.s = t.s ∧ t'.inflight = landing s t f tg good row ∧
      (let e := vget t'.rq k .free
       e.state = 3 ∧ e.pmask = bad ∧ e.pc = t.pc ∧ e.mode = t.mode ∧ e.word = (encode i).headD 0 ∧ e.lit = ((encode i).drop 1).headD 0 ∧
       ∀ p r w, maskHas bad p = true → f.base = .v r w → Table.get e.ops p = rdAt t f.base p)) ∧
  (∀ (s : State) (t : Team), Alive s t → s.moves t = true → t.run = .queueFull → faultRoom s (dieOf t.core) 1 = true →
    exec (.faultPostAfterWait t.uid) s = .next (s.setTeam { t with run := .ready }))

/-- R132, R139: Serai's page-table writes take effect and the range waits; the invalidation is complete when no store translated by an old
entry is queued, and no core and no die then holds a translation of it; a window or a contribution is set as granted.
R145 to R147, R209: the patrol corrects a sector, or counts it latent and poisons it; a word that becomes uncorrectable stays so.
R209, R211, R113: a live lane of a load whose sector is poisoned dies, with the poison pattern of TYPE in its destination, and is counted;
under the strict policy no lane dies, and the pass raises PAGE_FAULT with INFO [16] set for these lanes.
R193, R253: a node's open slot, and the built-in node's, closes by age; R301: an arriving packet that finds its slot free is placed
there, and a round that has timed out with a packet completes as INCOMPLETE. -/
def Obligations.MemoryService : Prop :=
  (∀ (s : State),
    (∀ r ptes, s.poison = [] → s.soft = [] → ∃ s', exec (.translationInvalidation r ptes) s = .next s' ∧ s'.invalidating = s.invalidating ++ [r] ∧
      s'.mem = ptes.foldl (fun m x => Memory.writeBytes m x.1 (leBytes 8 x.2.toNat)) s.mem ∧ s'.teams = s.teams ∧ s'.cores = s.cores) ∧
    (∀ r, s.invalidating.contains r = true → (∀ t ∈ s.teams, t.storesIn r = false) → ∃ s', exec (.invalidationComplete r) s = .next s' ∧ s'.mem = s.mem ∧
      s'.invalidating = s.invalidating.erase r ∧ s'.teams = s.teams ∧ (∀ k, k < 576 → ∀ x ∈ (s'.coreAt k).tlb, rangeCovers r x = false) ∧
      ∀ d, d < 4 → ∀ x ∈ (s'.dieAt d).dtlb, rangeCovers r x = false) ∧
    (∀ pid die cores p, die < 4 → (∀ c ∈ cores, c < 576 ∧ dieOf c = die) → s.proc? pid = some p →
      exec (.commonsWindowGrant pid die cores) s = .next (s.modProc pid fun p => { p with windows := (die, cores) :: p.windows.filter fun w => w.1 != die })) ∧
    (∀ core size, core < 576 → size % 0x10000 = 0 → size ≤ 0x80000 → (∀ b ∈ s.blocks, b.core = core → b.resident = false) →
      exec (.commonsContributionSet core size) s = .next (s.modCore core fun c => { c with contribution := size }))) ∧
  (∀ (s : State) (sector : Nat),
    (s.populated (32 * sector) 32 = true → s.poison.contains sector = false →
      (exec (.patrolRead sector .correctable) s =
        .next (s.modHub fun h => { h with corrected := logInc h.corrected (controllerOf (32 * sector)) })) ∧
      (∃ s', exec (.patrolRead sector .uncorrectable) s = .next s' ∧ s'.poison = sector :: s.poison ∧ s'.teams = s.teams ∧ s'.blocks = s.blocks ∧
        s'.hub = { (s.count 3).hub with latent := logInc s.hub.latent (controllerOf (32 * sector)) } ∧
        s'.mem = if 32 * sector < 0x200000000000 then Memory.writeBytes s.mem (32 * sector) ((List.range 32).map markerByte) else s.mem)) ∧
    (∀ c, s.siteOk c = true → s.soft.contains c = false → (∀ n, c ≠ .sector n) →
      exec (.uncorrectableSoftError c) s = .next { s with soft := c :: s.soft }) ∧
    (∀ n, s.siteOk (.sector n) = true → ∃ s', exec (.uncorrectableSoftError (.sector n)) s = .next s' ∧ s'.poison.contains n = true ∧
      s'.teams = s.teams ∧ s'.blocks = s.blocks)) ∧
  (∀ (s : State) (t : Team) (i : Instr) (f : MemForm) (tg : Nat → Target) (row : Nat) (l : List Nat),
    Calm s t → Seated t → Quiet s t → t.isGrid = true → RowLoad t i f row →
    (∀ p, maskHas (liveMask t) p = true → Places s t .device .load (f.ea t p) f.l.bytes (tg p) ∧ Current s t f.l (tg p) ∧
      ∀ pr, s.procOf t = some pr → ∀ a ∈ s.walkReadsFrom ((f.ea t p).toNat % 2 ^ 57) 5 pr.root, l.contains (a / 32) = false) →
    let s1 := { s with poison := l }
    let bad := filterMask (liveMask t) fun p => match tg p with | .phys pa => l.contains (pa / 32) | _ => false
    let good := maskMinus (liveMask t) bad
    ∀ p0, lowestLane bad = some p0 →
    (s.isStrict t = false → maskMinus t.running bad ≠ 0 →
      ∃ s' t', exec i s1 = .next s' ∧ s'.team? t.uid = some t' ∧ s'.mem = s.mem ∧ s'.blocks = s.blocks ∧
        t'.mask = maskMinus t.mask bad ∧ t'.stack = t.stack.map (fun e => { e with gmask := maskMinus e.gmask bad }) ∧ t'.pc = nextPc t i ∧
        t'.run = .ready ∧ t'.s = t.s ∧ t'.inflight = landing s t f tg good row ∧
        t'.threads = t.threads.map (fun th =>
          if maskHas bad th.pos then { th.writeDst f.dst (poisonOf t.mode f.l.pair) with life := .dead }
          else if maskHas good th.pos then th.freeAll f.frees else th) ∧
        (vget s'.hub.counters 2 0).toNat = min (2 ^ 64 - 1) ((vget s.hub.counters 2 0).toNat + (maskLanes bad).length)) ∧
    (∀ g, TakesTraps s t g → s.isStrict t = true →
      ∃ s' t', exec i s1 = .next s' ∧ s'.team? t.uid = some t' ∧ s'.mem = s.mem ∧ s'.blocks = s.blocks ∧ t'.pc = g.traph ∧ t'.mode = 0 ∧
        t'.threads = t.threads ∧ t'.s = t.s ∧ t'.inflight = [] ∧ t'.frame.cause = 0x0B ∧ t'.frame.info = 0x10000 ∧ t'.frame.tpc = t.pc ∧
        t'.frame.vaddr = f.ea t p0 ∧ t'.frame.lmask = bad)) ∧
  (∀ (s : State) (gid : Nat) (g : Grid), s.grid? gid = some g →
    (∀ node, node < g.nodes.length → ∃ s' g', exec (.slotAgeClose gid node) s = .next s' ∧ s'.grid? gid = some g' ∧ s'.mem = s.mem ∧ s'.teams = s.teams ∧
      g' = { g with nodes := modifyAt g.nodes node fun n => n.close true }) ∧
    (∀ r, g.relay = some r → r.waiting ≠ [] → exec (.slotAgeClose gid g.nodes.length) s = .next (s.modGrid gid fun g => { g with
      relay := some { r with waiting := [], closed := r.closed ++ [{ proposals := r.waiting, byAge := true, order := r.since }] } })) ∧
    (∀ idx q r, g.packets[idx]? = some q → g.isOldest idx q = true → g.routerAt q.tree q.die q.core = some r → q.slot = 0 → slotTaken r.now 0 = false →
      exec (.reductionPacketArrival gid idx) s = .next ((s.modGrid gid fun g =>
        { g with packets := g.packets.eraseIdx idx }.putRouter { r with now := fillSlot r.now 0 q.packet }).settleRounds gid q.tree q.die)) ∧
    (∀ tree core r, g.routers.find? (fun r => r.tree == tree && r.core == core) = some r → r.now.any Option.isSome = true → r.out = none →
      exec (.routerTimeout gid tree core) s =
        .next ((s.modGrid gid fun g => g.putRouter { r with timedOut := true }).settleRounds gid tree r.die)))

/-! ### Launches, admission, pre-emption, the end of teams, blocks and grids -/

/-- R182, R183, R232, R310: the launch call answers the first cause for which it fails, with nothing launched, or makes a grid under the
next identifier, none of whose blocks is admitted yet; a debug launch does so after its parameters are written and its windows granted. -/
def Obligations.Launching : Prop :=
  (∀ (s : State) (c : LaunchCall) (place : List (Nat × Nat)) (p : Process), (s.callProcess c).proc? c.pid = some p → s.poison = [] →
    let s0 := s.callProcess c
    let g0 := newGrid s.nextGid c place
    (g0.fieldsOk = false → s.launch c place = s0.say "BAD_DESCRIPTOR" []) ∧
    (g0.relayA ≠ 0 → relayOk (s0.readVirtNat p g0.relayA.toNat 64) = false → s.launch c place = s0.say "BAD_DESCRIPTOR" []) ∧
    (∀ e, s0.checkLaunch p g0 = .error e → s.launch c place = s0.say e []) ∧
    (∀ g, s0.checkLaunch p g0 = .ok g → g.gid = s.nextGid ∧ g.pid = c.pid ∧ g.desc = g0.desc ∧ g.debugged = c.debugged ∧ g.place = place ∧
      g.admitted = 0 ∧ g.done = false ∧ g0.fieldsOk = true ∧ g.nodes.length = g0.nnode ∧ s0.tooLarge p g0 = false ∧
      s0.queued c.pid c.queue.toNat < 256 ∧
      s.launch c place = ({ s0 with grids := s0.grids ++ [g], nextGid := s.nextGid + 1 } : State).say "LAUNCH" [s.nextGid])) ∧
  (∀ (s : State) (c : LaunchCall), s.hub.booted = true → exec (.launch c) s = .next (s.launch c [])) ∧
  (∀ (s : State) (r : RunCommand) (p : Process), s.hub.booted = true → r.params.all paramOk = true →
    let c := { r.call with debugged := true }
    let g0 := newGrid s.nextGid c r.place
    s.placementOk g0 = true → (s.callProcess c).proc? c.pid = some p →
    let s1 := r.params.foldl (fun s x => s.writeVirtNat p (g0.param.toNat + x.offset) 4 x.value.toNat) (s.callProcess c)
    exec (.xanRun r) s = .next (((s1.grantPlaces c.pid r.place).launch c r.place).adopt s.nextGid))

/-- R69, R130, R178, R187, R190, R194, R253, R269: a fresh block, the shadow of a sampled one, a node's batch, the Relay's batch and an
estate handler enter a core that is offered to them, as one new block with its teams, and no memory changes. -/
def Obligations.Admission : Prop :=
  ∀ (s : State) (gid core : Nat) (g : Grid) (p : Placement), s.grid? gid = some g →
    (s.placeOk g core g.teams g.ngrp p = true → s.offered g core 2 = true → s.freshFits g core = true →
      ∃ s' b ts g', exec (.blockAdmission gid g.admitted core p) s = .next s' ∧ s'.mem = s.mem ∧ s'.blocks = s.blocks ++ [b] ∧
        s'.teams = s.teams ++ ts ∧ b.gid = gid ∧ b.index = g.admitted ∧ b.core = core ∧ b.resident = true ∧ b.scratch = [] ∧ b.accs = [] ∧
        b.mflags = 0 ∧ b.tfull = 0 ∧ ts.length = g.teams ∧ (∀ k t, ts[k]? = some t → Enters g b k t) ∧
        s'.grid? gid = some g' ∧ g'.admitted = g.admitted + 1) ∧
    (∀ ix o, s.placeOk g core g.teams g.ngrp p = true → s.offered g core 2 = true → ix ≠ g.admitted → s.shadowDue g ix = some o → core ≠ o.core →
      s.admits g core g.askBlock = true →
      ∃ s' b ts, exec (.blockAdmission gid ix core p) s = .next s' ∧ s'.mem = s.mem ∧ s'.blocks = s.blocks ++ [b] ∧ s'.teams = s.teams ++ ts ∧
        b.shadowOf = some o.uid ∧ b.index = o.index ∧ b.core = core ∧ ts.length = g.teams ∧ ∀ k t, ts[k]? = some t → Enters g b k t ∧ t.tag = 0) ∧
    (∀ x, s.placeOk g core 1 g.ngrp p = true → s.offered g core 1 = true → s.admits g core g.askTeam = true → g.firstBatch = some x →
      s.batchTurn g x core = true → s.handlersBefore g core = false →
      (∀ n, g.nodes[x.node]? = some n →
        ∃ s' b t g', exec (.nodeBatchAdmission gid core p) s = .next s' ∧ s'.mem = s.mem ∧ s'.blocks = s.blocks ++ [b] ∧ s'.teams = s.teams ++ [t] ∧
          b.index = 0x80000000 + x.node ∧ b.core = core ∧ t.blk = b.uid ∧ t.core = core ∧ t.pc = n.entry ∧ t.mode = 0 ∧
          t.readSP 0 = BitVec.ofNat 64 (n.recordAt x.slot 0) ∧ t.readS 2 = BitVec.ofNat 32 b.index ∧ t.readS 3 = 0 ∧
          t.readS 4 = BitVec.ofNat 32 x.count ∧ (∀ h, h < 32 * g.ngrp → ((t.thread h).life = .live ↔ h < x.count)) ∧
          s'.grid? gid = some g' ∧ g'.nodes = modifyAt g.nodes x.node fun n => { n with slots := n.slots.set x.slot (.running x.count) }) ∧
      (∀ r q, g.nodes[x.node]? = none → g.relay = some r → r.closed[x.slot]? = some q →
        ∃ s' b t, exec (.nodeBatchAdmission gid core p) s = .next s' ∧ s'.mem = s.mem ∧ s'.blocks = s.blocks ++ [b] ∧ s'.teams = s.teams ++ [t] ∧
          b.index = 0xC0000000 ∧ b.core = core ∧ t.blk = b.uid ∧ t.core = core ∧ t.pc = r.pentry ∧
          t.readS 4 = BitVec.ofNat 32 q.proposals.length ∧
          ∀ h pr, q.proposals[h]? = some pr → h < 32 * g.ngrp → (t.thread h).life = .live ∧
            (t.thread h).readV 0 = BitVec.ofNat 32 pr.chain ∧ (t.thread h).readV 1 = BitVec.ofNat 32 pr.step)) ∧
    (∀ h dead, s.placeOk g core 1 1 p = true → s.offered g core 1 = true → s.admits g core g.askTeam = true →
      s.handlersBefore g core = false → s.batchesBefore g core = false → g.handlersDue.find? (fun h => h.mayGo core) = some h → s.team? h.dead = some dead →
      ∃ s' b t, exec (.estateHandlerAdmission gid core p) s = .next s' ∧ s'.mem = s.mem ∧ s'.blocks = s.blocks ++ [b] ∧ s'.teams = s.teams ++ [t] ∧
        t.blk = b.uid ∧ t.core = core ∧ t.pc = g.esth ∧ t.tag = h.tag ∧ t.estate = h.estate ∧ t.readS 4 = dead.tag ∧
        t.readS 5 = BitVec.ofNat 32 h.slot ∧ t.readSP 6 = dead.imga ∧ (h.heirless = true → t.frame = heirlessFrame dead h) ∧
        ∀ k, k < 32 → ((t.thread k).life = .live ↔ k = 0))

/-- R188, R212, R213, R54: a block that a starved one of a higher priority drives out stops, and its live teams enter the save handler, with
a save area that is assigned at the first pre-emption; when every one has left the handler, the block is off its core. It resumes on a core
of its die, in the restore handler. Which blocks are passed over, how they are ordered after a resumption, and that its scratch is zero as it
enters again are the model's choices (log 38). -/
def Obligations.Preemption : Prop :=
  ∀ (s : State) (gid core : Nat) (g : Grid) (b : Block) (call : PreemptCall), s.grid? gid = some g → s.block? b.uid = some b → b.gid = gid →
    call.block = b.uid →
    (b.saving = false → (∀ x ∈ s.blocks, x.preempting = false) → g.gang = false → s.yields b = true → s.starved g.prio = true →
      s.lastIn g b = true → g.saveh ≠ 0 → s.hasCopies b = false → s.savesOk g [b] call.saves = true →
      (∀ t ∈ s.teams, t.blk = b.uid → t.cause = 0 → t.run ≠ .queueFull ∧ (∀ l, t.run ≠ .wholePath l) ∧ t.mustFinish = none) →
      ∃ s' b', exec (.preempt gid call) s = .next s' ∧ s'.block? b.uid = some b' ∧ b'.preempting = true ∧ b'.saving = true ∧
        b'.saveAssigned = true ∧ (if b.saveAssigned then b'.saveBase = b.saveBase else call.saves.lookup b.uid = some b'.saveBase) ∧
        ∀ t, Single s t → t.blk = b.uid → ∃ t', s'.team? t.uid = some t' ∧ InContext g b' t t' g.saveh 2) ∧
    (b.preempting = true → b.saving = true → s.contextsDone b = true → s.hasCopies b = false →
      ∃ s' b', exec (.preempt gid call) s = .next s' ∧ s'.block? b.uid = some b' ∧ b'.preempting = false ∧ b'.resident = false) ∧
    (b.resuming = false → g.gang = false → s.resumeFits g b core = true → s.offered g core 0 = true → g.resth ≠ 0 →
      ∃ s' b', exec (.preemptResume gid b.uid core) s = .next s' ∧ s'.mem = s.mem ∧ s'.block? b.uid = some b' ∧ b'.core = core ∧
        b'.resident = true ∧ b'.resuming = true ∧ b'.scratch = [] ∧
        ∀ t, Single s t → t.blk = b.uid → ∃ t', s'.team? t.uid = some t' ∧ t'.core = core ∧ InContext g b t t' g.resth 3) ∧
    (b.resuming = true → s.contextsDone b = true →
      ∃ s' b', exec (.preemptResume gid b.uid core) s = .next s' ∧ s'.block? b.uid = some b' ∧ b'.resuming = false)

/-- R267, R425: a dead team's last holding goes to an heir that can take it, or is heirless: a lock's word is poisoned, a promise's is broken.
With no holding left the conveyance is over; one that a fault of the word has stopped goes on when the entry is resolved or denied. -/
def Obligations.Conveyances : Prop :=
  ∀ (s : State) (gid : Nat) (g : Grid) (c : Conveyance) (x : Team), s.grid? gid = some g → g.conveying.head? = some c →
    s.team? c.team = some x → s.gridFrozen gid = false → x.run = .ready → x.cause ≠ 0 → (∀ u ∈ s.teams, u.uid = x.uid → u = x) →
    (c.fault = none → Estate.last x.estate = none → exec (.convey gid) s = .next (s.endConvey gid c.team)) ∧
    (∀ k p pa, c.fault = none → Estate.last x.estate = some k →
      let e := Estate.slot x.estate k
      let rest := Estate.release x.estate k (s.heirKind x)
      let w := s.wordAt (.phys pa)
      Estate.last rest = none → e.kind = 1 ∨ e.kind = 2 → s.procOf x = some p → s.wordPlace p e.addr = .ok (.phys pa) →
      s.poison = [] → s.soft = [] → Memory.wf s.mem = true →
      (((s.heirOf g x e).filter fun h => s.acceptable g x e h) = none → e.quiet = true ∨ g.esth = 0 →
        ∃ s' x', exec (.convey gid) s = .next s' ∧ s'.team? x.uid = some x' ∧ x'.estate = rest ∧ x'.run = .ready ∧ s'.blocks = s.blocks ∧
          s'.wordAt (.phys pa) = (if e.kind = 1 then poisonedLock w else brokenPromise w) ∧
          (∀ a, ¬ (pa ≤ a ∧ a < pa + 8) → Memory.read s'.mem a = Memory.read s.mem a)) ∧
      (∀ h, ((s.heirOf g x e).filter fun h => s.acceptable g x e h) = some (.team h) → e.kind = 2 → s.team? h.uid = some h → h.cause = 0 →
        ∃ s' x' h', exec (.convey gid) s = .next s' ∧ s'.team? x.uid = some x' ∧ x'.estate = rest ∧ s'.team? h.uid = some h' ∧
          h'.estate = ((Estate.enter h.estate e.kind e.addr e.count.toNat true).map Prod.snd).getD h.estate ∧ s'.blocks = s.blocks ∧
          s'.wordAt (.phys pa) = conveyedPromise w ∧
          (∀ a, ¬ (pa ≤ a ∧ a < pa + 8) → Memory.read s'.mem a = Memory.read s.mem a))) ∧
    (∀ ix slot f, c.fault = some (ix, slot) → s.faultOf x ix = some f →
      let s1 := (s.freeFault (dieOf x.core) ix).modConvey gid x.uid fun c => { c with fault := none }
      (f.status = 0 → exec (.conveyanceWriteRetry gid) s = .next s) ∧
      (f.status = 1 → exec (.conveyanceWriteRetry gid) s = .next (State.conveyFrom gid x.uid 33 s1)) ∧
      (f.status = 2 → slot < 32 → exec (.conveyanceWriteRetry gid) s = .next (State.conveyFrom gid x.uid 33 (s1.denyConvey g x slot))) ∧
      (f.status = 2 → 32 ≤ slot → exec (.conveyanceWriteRetry gid) s = .next (s1.endConvey g.gid x.uid)))

/-- R181, R186, R215, R218, R231: the digests of a sampled block and its shadow are compared at its EXIT; a block all of whose teams have ended
completes, with its entry in the completion list; a grid all of whose blocks have completed is done, and its Waybill is said; the dump
of a frozen team is written and kept, and its death proceeds. -/
def Obligations.Completion : Prop :=
  (∀ (s : State) (gid : Nat) (g : Grid) (b sh : Block) (t : Team), s.grid? gid = some g → s.block? b.uid = some b → b.gid = gid →
    s.atDigest b = some t → s.team? t.uid = some t → s.blocks.find? (fun x => x.shadowOf == some b.uid) = some sh → s.moves t = true →
    s.blockOver sh = true → s.hasCopies b = false → b.digestDone = false →
    let marked := s.modBlock b.uid fun b => { b with digestDone := true }
    (b.digest = sh.digest → sh.mismatch = false → exec (.digestCompare gid b.uid) s = .next (marked.modTeam t.uid Team.passDigest)) ∧
    (b.digest ≠ sh.digest ∨ sh.mismatch = true → g.strict = false →
      exec (.digestCompare gid b.uid) s = .next ((marked.count 0).modTeam t.uid Team.passDigest)) ∧
    (b.digest ≠ sh.digest ∨ sh.mismatch = true → g.strict = true → s.gridOf t = some g → s.isShadow t = false → t.aside = none →
      t.frame.active = 0 → g.traph ≠ 0 →
      ∃ s' t', exec (.digestCompare gid b.uid) s = .next s' ∧ s'.mem = s.mem ∧ s'.team? t.uid = some t' ∧ t'.pc = g.traph ∧
        t'.frame.cause = 0x0F ∧ t'.frame.detail = 3)) ∧
  (∀ (s : State) (gid : Nat) (g : Grid) (b : Block), s.grid? gid = some g → s.block? b.uid = some b → b.gid = gid → b.complete = false →
    b.resident = true → b.preempting = false → b.resuming = false → s.blockOver b = true →
    (∀ p, b.index < g.count → b.shadowOf = none → b.published = true → (b.sampled = true → b.digestDone = true) → s.proc? g.pid = some p →
      ∃ s' b' g', exec (.blockCompletion gid b.uid) s = .next s' ∧ s'.teams = s.teams ∧ s'.block? b.uid = some b' ∧ b'.complete = true ∧
        b'.resident = false ∧ s'.grid? gid = some g' ∧ g'.completions = g.completions ++ [b.index] ∧
        s'.mem = if g.eventsA = 0 then s.mem else (s.writeVirtNat p (g.eventsA.toNat + 8 * b.index) 8
          (eventEntry (s.outcome b.uid) ((g.events.lookup b.index).getD 0xFFFFFFFF#32))).mem) ∧
    (g.count ≤ b.index ∨ b.shadowOf ≠ none →
      exec (.blockCompletion gid b.uid) s = .next (s.modBlock b.uid fun b => { b with complete := true, resident := false }))) ∧
  (∀ (s : State) (gid : Nat) (g : Grid) (w : WaybillTimes), s.grid? gid = some g → g.done = false → g.over = true →
    ∃ s' g', exec (.gridCompletion gid w) s = .next s' ∧ s'.grid? gid = some g' ∧ g'.done = true ∧ g'.routers = [] ∧ g'.ports = [] ∧
      s'.mem = s.mem ∧ s'.replies = s.replies ++ [{ status := "WAYBILL", values := gid :: (waybill s.hub w).map BitVec.toNat }] ∧
      s'.teams = s.teams ∧ s'.blocks = s.blocks) ∧
  (∀ (s : State) (t : Team) (g : Grid) (b : Block) (p : Process) (rest : List Nat), s.team? t.uid = some t → s.hub.dumpQueue = t.uid :: rest →
    t.run = .frozen → s.gridOf t = some g → s.blockOf t = some b → s.procOf t = some p →
    ∃ s' t', exec (.dumpCapture t.uid) s = .next s' ∧ s'.hub.dumps = { gid := t.gid, bytes := s.dumpOf g t b p } :: s.hub.dumps ∧
      s'.hub.dumpQueue = rest ∧ s'.team? t.uid = some t' ∧ t'.cause = causeFATAL)

/-- R295, R291: an optimiser step takes the 256 oldest filled samples of a loaded Tapster with budget left, frees them, updates every
parameter by Adam from their summed gradients, and publishes the new weights, rounded to BF16, as the next weight set; no device memory
and no team changes. What the manual leaves open of a gradient and of a power is free (log 13). -/
def Obligations.OptimiserStep : Prop :=
  ∀ (s : State) (die : Nat), die < 4 →
    let t := (s.dieAt die).tapster
    let batch := (filledSlots t).take 256
    t.budget ≠ 0 → t.loaded = true → batch.length = 256 →
    ∃ s', exec (.tapsterOptimiserStep die) s = .next s' ∧ s'.mem = s.mem ∧ s'.teams = s.teams ∧ s'.blocks = s.blocks ∧
      let x := (s'.dieAt die).tapster
      x.t = t.t + 1 ∧ x.budget = t.budget - 1 ∧ x.steps = t.steps ∧ x.lr = t.lr ∧ (∀ k ∈ batch, (x.slot k).state = .free) ∧
      (∀ k, k ∉ batch → x.slot k = t.slot k) ∧
      (s.soft = [] → RegionPlaced s die →
        Publishes s s' die (Memory.readBytes (imageOf fun i => Table.get x.master i) 0 0x4000)) ∧
      ∀ q, q < paramCount →
        let usable := (batch.map t.slot).filter fun y => (features y.record).all finiteF32 && y.target.all fun w => finiteF32 w.toNat
        let rounded := imageOf fun i => Table.get t.master i
        let weights := (List.range paramCount).map fun i => imageParam rounded i
        let sum := usable.foldl (fun (acc : Word) y => BitVec.ofNat 32 (fadd f32 rneEnv acc.toNat (gradient rounded weights y q).toNat).bits) 0
        (Table.get x.master q, Table.get x.m q, Table.get x.v q) =
          adam t (t.t + 1) (Table.get t.master q) (Table.get t.m q) (Table.get t.v q) sum

/-! ### Management, reset, heat -/

/-- R306, R307, R308: each management command is answered, with its code, status and sequence; what needs a signature is turned away
without one, when it does not verify, or when its sequence is not new, and else takes effect and moves the last accepted sequence on.
The status of an image that is refused (log 55), that the newest of a grid's dumps is kept (log 33), and what a warm reset ends and keeps
(log 56) are the model's choices. -/
def Obligations.Management : Prop :=
  (∀ (s : State) (q : Datagram), Unsigned q →
    exec (.identify q) s = .next (s.answer 1 0 q ([Config.serial.toNat, s.hub.securityVersion.toNat, s.hub.farPorts.toNat] ++
      byteNats s.hub.firmware ++ [s.hub.lastSeq.toNat])) ∧
    (q.body.length = 32 → exec (.attest q) s = .next (s.answer 2 0 q (byteNats (s.hub.report q.body)))) ∧
    (∀ img, exec (.loadImage q img) s = .next (s.answer 3 2 q [])) ∧
    (s.hub.booted = true →
      exec (.readCounters q) s = .next (s.answer 5 0 q (s.hub.counters.toList.map BitVec.toNat)) ∧
      exec (.resetWarm q) s = .next (if leNat q.body = 1 then s else s.answer 4 2 q []) ∧
      exec (.resetFull q) s = .next (if leNat q.body = 1 then s.answer 4 2 q [] else s) ∧ exec (.setPowerLimit q) s = .next (s.answer 6 2 q []) ∧
      exec (.retrieveDump q) s = .next (s.answer 7 2 q []) ∧ exec (.readErrorLog q) s = .next (s.answer 8 2 q []))) ∧
  (∀ (s : State) (q : Datagram), Signed s q → s.hub.booted = true →
    (∀ img, ∃ st s1, 1 ≤ st ∧ st ≤ 6 ∧ s1 = s.ticked.answer 3 st q [] ∧
      exec (.loadImage q (some img)) s = .next (ifVerified s 3 q (if imageOk img = true then
        (({ sequenced s q with hub := { s.hub with
              lastSeq := q.seq, nextImage := some img, digests := s.hub.digests ++ [Config.shake256 img] } } : State).answer 3 0 q []) else s1))) ∧
    (leNat q.body = 0 → q.body ≠ [] →
      exec (.resetWarm q) s = .next (ifVerified s 4 q ((sequenced s q).answer 4 0 q []).warmReset)) ∧
    (leNat q.body = 1 → exec (.resetFull q) s = .next (ifVerified s 4 q ((sequenced s q).answer 4 0 q []).fullReset)) ∧
    (1200 ≤ leNat q.body → leNat q.body ≤ 2600 → s.hub.applying = [] →
      exec (.setPowerLimit q) s = .next (ifVerified s 6 q
        (((sequenced s q).modHub fun h => h.setLimit (BitVec.ofNat 32 (leNat q.body))).answer 6 0 q [leNat q.body]))) ∧
    (1200 ≤ leNat q.body → leNat q.body ≤ 2600 → s.hub.applying ≠ [] →
      exec (.setPowerLimit q) s = .next (ifVerified s 6 q (s.answer 6 6 q []))) ∧
    (s.hub.dumps.find? (fun d => d.gid == leNat q.body) = none →
      exec (.retrieveDump q) s = .next (ifVerified s 7 q (s.answer 7 4 q []))) ∧
    (leNat q.body < 1200 ∨ 2600 < leNat q.body → exec (.setPowerLimit q) s = .next (ifVerified s 6 q (s.answer 6 3 q []))) ∧
    (∀ d, s.hub.dumps.find? (fun d => d.gid == leNat q.body) = some d →
      exec (.retrieveDump q) s = .next (ifVerified s 7 q ((sequenced s q).answer 7 0 q (byteNats d.bytes)))) ∧
    (exec (.readErrorLog q) s = .next (ifVerified s 8 q ((sequenced s q).answer 8 0 q (byteNats s.hub.errorLog))))) ∧
  (∀ (s : State) (q : Datagram), isRequest q = true → isSigned q = true → q.sig.length = 114 → q.seq ≤ s.hub.lastSeq → s.hub.booted = true →
    let stale := fun (code : Nat) (i : Instr) => exec i s = .next (ifVerified s code q (s.answer code 1 q []))
    (∀ img, stale 3 (.loadImage q img)) ∧ stale 6 (.setPowerLimit q) ∧ stale 7 (.retrieveDump q) ∧ stale 8 (.readErrorLog q) ∧
      (leNat q.body = 0 → stale 4 (.resetWarm q)) ∧ (leNat q.body = 1 → stale 4 (.resetFull q))) ∧
  (∀ (s : State) (code : BitVec 8) (q : Datagram), s.hub.booted = true → isRequest q = false ∨ code = 0 ∨ 8 < code.toNat →
    exec (.managementBadRequest code q) s = .next (s.answer code.toNat 1 q [])) ∧
  (∀ s : State, (s.warmReset).mem = s.mem ∧ (s.warmReset).teams = [] ∧ (s.warmReset).blocks = [] ∧ (s.warmReset).grids = [] ∧
    (s.warmReset).procs = [] ∧ (s.warmReset).hub.bootCount = s.hub.bootCount + 1 ∧ (s.warmReset).hub.commanded = s.hub.commanded)

/-- R305, R307, R308, R309: a part reset leaves every part as at reset, but for the storage that outlasts it, and runs an acceptable image;
105 °C starts throttling, a step of 10 ms lowers the effective limit by 100 W to no less than 1,200 W while a die is hotter, and
raises it toward the commanded one once all are below 95 °C; 115 °C resets the part. That memory and cores are then as at reset is the
model's choice (logs 4, 5, 56). -/
def Obligations.ResetsAndHeat : Prop :=
  (∀ (s : State) (b : BootFetch), bootOk b = true →
    ∃ s', exec (.partReset b) s = .next s' ∧ s'.mem = State.reset.mem ∧ s'.teams = [] ∧ s'.grids = [] ∧ s'.procs = [] ∧ s'.cores = State.reset.cores ∧
      s'.hub.counters = Vector.replicate 9 0 ∧ s'.hub.commanded = 2600 ∧ s'.hub.effective = 2600 ∧ s'.hub.bootCount = s.hub.bootCount + 1 ∧
      s'.hub.lastSeq = s.hub.lastSeq ∧ s'.hub.corrected = s.hub.corrected ∧ s'.hub.thermal = s.hub.thermal ∧ s'.hub.sysRate = b.sysRate ∧
      s'.hub.booted = (s.hub.nextImage.orElse fun _ => b.image).any imageOk) ∧
  (∀ (s : State) (img : List Byte), s.hub.booted = false → s.hub.romRan = true →
    ∃ s', exec (.bootImageRetry (some img)) s = .next s' ∧ s'.mem = s.mem ∧ s'.teams = s.teams ∧ s'.hub.booted = imageOk img ∧
      s'.hub.bootCount = s.hub.bootCount ∧ s'.hub.nextImage = s.hub.nextImage) ∧
  (∀ (s : State) (die : Nat) (temp : BitVec 16), die < 4 → 840 < temp.toInt → s.hub.throttling = none →
    ∃ h, exec (.thermalThrottleStart die temp) s = .next { s with hub := h } ∧ h.throttling = some die ∧ h.effective = s.hub.effective ∧
      h.thermal = ({ boot := s.hub.bootCount, limit := s.hub.effective, temp := temp, die := BitVec.ofNat 8 die, kind := 0 } :: s.hub.thermal).take 16) ∧
  (∀ (s : State) (temps : List (BitVec 16)), temps.length = 4 →
    ∃ h, exec (.throttleStep temps) s = .next { s with hub := h } ∧ h.commanded = s.hub.commanded ∧
      ((∃ x ∈ temps, 840 < x.toInt) → h.throttling.isSome = true ∧ (s.hub.throttling.isSome = true → h.throttling = s.hub.throttling) ∧
        (1200 ≤ s.hub.effective.toNat → h.effective.toNat = max 1200 (s.hub.effective.toNat - 100))) ∧
      ((∀ x ∈ temps, x.toInt ≤ 840) → (∃ x ∈ temps, 760 ≤ x.toInt) → h = s.hub) ∧
      ((∀ x ∈ temps, x.toInt < 760) → s.hub.commanded.toNat ≤ 2600 → s.hub.effective.toNat ≤ s.hub.commanded.toNat →
        h.throttling = none ∧ h.effective.toNat = min s.hub.commanded.toNat (s.hub.effective.toNat + 100))) ∧
  (∀ (s : State) (die : Nat) (temp : BitVec 16) (b : BootFetch), die < 4 → 920 ≤ temp.toInt → bootOk b = true →
    ∃ s', exec (.thermalReset die temp b) s = .next s' ∧ s'.mem = State.reset.mem ∧ s'.teams = [] ∧ s'.grids = [] ∧
      s'.hub.thermal.head? = some { boot := s.hub.bootCount, limit := 2600, temp := temp, die := BitVec.ofNat 8 die, kind := 2 } ∧
      s'.hub.thermalResets = satInc s.hub.thermalResets ∧ s'.hub.bootCount = s.hub.bootCount + 1)

/-! ### The debugger -/

/-- R223 to R228, R235, R285: watchpoints written and hit, the prompt and what waits at it, teams stopped and resumed by notices, a stopped team stepped, its lanes put in focus. -/
def Obligations.StopsAndSteps : Prop :=
  (∀ (s : State) (core idx : Nat) (v : BitVec 128), core < 576 → idx < 4 →
    (watchOk v = true → exec (.watchpointWrite core idx v) s = .next { s with
      watches := Table.set s.watches (4 * core + idx) v, watchGrids := s.watchGrids.filter fun x => x.1 != 4 * core + idx }) ∧
    (watchOk v = false → exec (.watchpointWrite core idx v) s = .next (s.say "BAD_WATCH" [core, idx]))) ∧
  (∀ (s : State) (h : WatchHit) (t : Team) (g : Grid), s.hits = [h] → s.team? h.team = some t → t.cause = 0 → t.frame.active = 0 → t.aside = none →
    s.gridOf t = some g →
    (g.debugged = true → ∃ t' : Team, exec (.watchpointHit 0) s =
        .next ((({ s with hits := [] } : State).say "hit" (h.home :: h.index :: t.uid :: maskLanes h.homes)).setTeam t') ∧
      t'.frame.cause = 0x12 ∧ t'.frame.vaddr = h.vaddr ∧
      t'.frame.tpc = h.pc ∧ t'.frame.lmask = t.placesOf h.homes ∧ t'.frame.info = BitVec.ofNat 64 h.index ∧ t'.frame.active = 0 ∧ t'.stop.isSome = true ∧
      t' = { t with frame := t'.frame, stop := t'.stop }) ∧
    (g.debugged = false → s.moves t = true → t.run = .ready → t.replay = [] → TakesTraps s t g → (∀ u ∈ s.teams, u.uid = t.uid → u = t) →
      ∃ s' t', exec (.watchpointHit 0) s = .next s' ∧ s'.mem = s.mem ∧ s'.hits = [] ∧ s'.team? t.uid = some t' ∧ t'.pc = g.traph ∧
        t'.frame.cause = 0x12 ∧ t'.frame.vaddr = h.vaddr ∧ t'.frame.tpc = h.pc ∧ t'.frame.active = 1 ∧
        t'.frame.skid = BitVec.ofNat 16 (t.insn - h.after).toNat ∧ t'.threads = t.threads ∧ t'.s = t.s)) ∧
  (∀ (s : State) (core : Nat) (n : Notice), (s.coreAt core).notices.find? (fun n => !n.resume) = some n →
    ∃ s', exec (.stopNotice core) s = .next s' ∧ s'.mem = s.mem ∧ s'.blocks = s.blocks ∧ s'.grids = s.grids ∧
      s'.teams = s.teams.map fun t =>
        if t.gid = n.gid ∧ t.core = core ∧ t.stop = none ∧ t.cause = 0 then { t with stop := (t.stopAt n.since).stop } else t) ∧
  (∀ (s : State) (core : Nat) (n : Notice), (s.coreAt core).notices.find? (fun n => n.resume) = some n →
    ∃ s', exec (.resumeNotice core) s = .next s' ∧ s'.mem = s.mem ∧ s'.blocks = s.blocks ∧ s'.grids = s.grids ∧
      s'.teams = s.teams.map fun t =>
        if t.gid = n.gid ∧ t.core = core ∧ t.stop.isSome = true then { t with stop := none, grant := false, passBreak := t.breakToPass } else t) ∧
  (∀ (s : State) (gid : Nat) (g : Grid), s.grid? gid = some g → g.debugged = true → s.prompting.contains gid = true →
    (s.returnsToPrompt g = false → exec (.xanContinue gid) s = .next s) ∧
    (s.returnsToPrompt g = true → ∃ s', exec (.xanContinue gid) s = .next s' ∧ s'.mem = s.mem ∧ s'.teams = s.teams ∧ s'.blocks = s.blocks ∧
      s'.prompting.contains g.gid = false ∧ { status := "prompt", values := [g.gid] } ∈ s'.replies ∧
      ∀ t ∈ s.teams, t.gid = g.gid → t.cause = 0 → t.stop = none → ∀ x, s.waitsOn t = some x → { status := x.1, values := x.2 } ∈ s'.replies)) ∧
  (∀ (s : State) (gid : Nat) (g : Grid), s.grid? gid = some g → g.debugged = true → s.prompting.contains gid = false →
    ∃ s', exec (.xanContinue gid) s = .next s' ∧ s'.mem = s.mem ∧ s'.teams = s.teams ∧ s'.blocks = s.blocks ∧ s'.grids = s.grids ∧
      s'.prompting = s.prompting ++ [gid] ∧
      ∀ k, k < 576 → (s'.coreAt k).notices = (s.coreAt k).notices ++
        if s.teams.any (fun t => t.gid == gid && t.core == k && t.stop.isSome && t.cause == 0) then [{ gid := gid, resume := true, since := none }] else []) ∧
  (∀ (s : State) (t : Team), Stopped s t →
    (∃ pb st, st = (if t.focus.isSome then (lowestLane t.running).map (· / 32) else none) ∧
      let u := { t with grant := true, passBreak := pb, stop := t.stop.map fun x => { x with row := st } }
      (t.focus ≠ some true → exec (.xanStep t.uid) s = .next (s.setTeam u)) ∧ exec (.xanStepForce t.uid) s = .next (s.setTeam u)) ∧
    (∀ lane, t.run = .ready → t.focus = none → lane < t.threads.length → maskHas t.running (t.thread lane).pos = true → t.replay ≠ [] →
      exec (.xanFocusLane t.uid lane) s = .next (s.say "refused: replay owed" [lane])) ∧
    (∀ lane, t.run = .ready → t.replay = [] → lane < t.threads.length → maskHas t.running (t.thread lane).pos = true → t.stack.length < 256 →
      let p := (t.thread lane).pos
      (∃ t', exec (.xanFocusLane t.uid lane) s = .next (s.setTeam t') ∧ t'.mask = t.running &&& onlyRow t.running (p / 32) ∧
        t'.focus = some false ∧ t'.threads = t.threads ∧ t'.pc = t.pc) ∧
      (∃ t', exec (.xanFocusLaneAlone t.uid lane) s = .next (s.setTeam t') ∧ t'.mask = t.running &&& maskOne p ∧ t'.focus = some true ∧
        t'.threads = t.threads ∧ t'.pc = t.pc ∧
        t'.stack = if maskMinus t.running (maskOne p) = 0 then t.stack
          else { parked t.pc (maskMinus t.running (maskOne p)) with kind := 2 } :: t.stack)) ∧
    (t.focus.isSome = true → exec (.xanFocusOff t.uid) s = .next (s.modTeam t.uid fun t =>
      if t.focus = none then t else { t with focus := none, stack := t.stack.map fun e => if e.kind = 2 then { e with kind := 0 } else e })) ∧
    (∀ r lanes v, (namedRefs r lanes).all (regExists t) = true →
      (t.awaits (namedRefs r lanes) = true → exec (.xanSet t.uid r lanes v) s = .next (s.say "BUSY" [t.uid])) ∧
      ∃ s' t', (t.awaits (namedRefs r lanes) = false → exec (.xanSet t.uid r lanes v) s = .next s') ∧
        exec (.xanSetForce t.uid r lanes v) s = .next s' ∧ s'.mem = s.mem ∧ s'.blocks = s.blocks ∧ s'.grids = s.grids ∧
        s'.team? t.uid = some t' ∧ t'.pc = t.pc ∧ t'.mask = t.mask ∧ t'.mode = t.mode ∧ t'.storeQ = t.storeQ ∧
        match r with
        | .s i => t'.readS i.toNat = v ∧ (∀ k, k ≠ i.toNat → t'.readS k = t.readS k) ∧ t'.threads = t.threads
        | .v i => t'.s = t.s ∧ ∀ h, t'.thread h = if h ∈ lanes then (t.thread h).writeV i.toNat v else t.thread h
        | .p i => t'.s = t.s ∧ ∀ h, t'.thread h = if h ∈ lanes then (t.thread h).writeP i.toNat (v != 0) else t.thread h))

/-- R219, R220, R222, R233, R258, R284: the debugger's other writes: the Porter held, its entries resolved, pages evicted, watchpoints and
breakpoints set. What PORTER_RESOLVE maps, and that it changes nothing where no page can be mapped (log 58), that a held commons watch names
its die and that held commands go with the grid (log 57), and the words of the replies (log 63) are the model's choices. -/
def Obligations.DebuggerWrites : Prop :=
  (∀ (s : State) (pid : Nat), exec (.xanPorterHold pid) s = .next (s.modProc pid fun p => { p with porterHold := true }) ∧
    (s.pendingOf pid = [] → ∀ pages, exec (.xanPorterRelease pid pages) s = .next (s.modProc pid fun p => { p with porterHold := false })) ∧
    (∀ i d pages, s.pendingOf pid = [(i, d)] → exec (.xanPorterRelease pid pages) s =
      .next ((s.releaseOne d i pages.head?).modProc pid fun p => { p with porterHold := false })) ∧
    ((∃ t ∈ s.teams, t.cause = 0 ∧ t.stop = none ∧ ∃ p, s.procOf t = some p ∧ p.pid = pid) →
      ∀ pages, exec (.xanPageEvict pid pages) s = .next (s.say "refused: process running" [])) ∧
    (∀ va p a, s.teams = [] → s.proc? pid = some p → s.leafSlot p (va : Double).toNat = some a → s.poison = [] → s.soft = [] →
      Memory.readNat s.mem a 8 % 2 = 1 → s.malformed (Memory.readNat s.mem a 8) 0 (va.toNat % 2 ^ 57) = false →
      let r : TransRange := { asn := p.asn, va := BitVec.ofNat 64 (va.toNat / 4096 * 4096), len := 4096 }
      ∃ s' p', exec (.xanPageEvict pid [va]) s = .next s' ∧ s'.mem = Memory.writeBytes s.mem a (leBytes 8 (Memory.readNat s.mem a 8 - 1)) ∧
        s'.teams = s.teams ∧ (∀ k, k < 576 → ∀ x ∈ (s'.coreAt k).tlb, rangeCovers r x = false) ∧
        (∀ d, d < 4 → ∀ x ∈ (s'.dieAt d).dtlb, rangeCovers r x = false) ∧
        s'.proc? pid = some p' ∧ (p'.backing.lookup (pageNumber va.toNat)).isSome = true)) ∧
  (∀ (s : State) (die idx page : Nat) (tables : List Nat) (f : FaultEntry) (p : Process), die < 4 → s.pendingFault die idx = some f →
    s.faultProc f = some p →
    (∀ pa, s.engineAddr p f.need f.vaddr.toNat = .ok pa → exec (.xanPorterResolve die idx (page, tables)) s = .next (s.resolveFault die idx 1)) ∧
    (∀ e pg, s.engineAddr p f.need f.vaddr.toNat = .error e → s.walk p.root f.vaddr.toNat = .page pg → f.cause = 0 →
      exec (.xanPorterResolve die idx (page, tables)) s = .next (s.resolveFault die idx 1)) ∧
    (∀ e, s.engineAddr p f.need f.vaddr.toNat = .error e → f.cause ≠ 0 ∨ (∃ c l, s.walk p.root f.vaddr.toNat = .fault c l) →
      (∀ s1, s.mapPage p f.vaddr.toNat (some page) tables = some s1 → exec (.xanPorterResolve die idx (page, tables)) s = .next (s1.resolveFault die idx 1)) ∧
      (s.mapPage p f.vaddr.toNat (some page) tables = none → exec (.xanPorterResolve die idx (page, tables)) s = .next s))) ∧
  (∀ (s : State) (c : WatchCommand) (k : Nat), s.grid? c.gid = none → c.space ≠ 3 → c.bcast ≠ 3 → c.kinds ≠ 0 → powerOfTwo c.len = some k →
    c.addr.toNat % c.len = 0 → watchCoresOk c = true → (c.space = 0 → c.core.isSome = true) →
    (c.space = 2 → c.die = none → exec (.xanWatch c) s = .next (s.say "refused: die" [])) ∧
    (c.space ≠ 2 ∨ c.die.isSome = true →
      exec (.xanWatch c) s = .next { s with heldWatches := s.heldWatches ++ [(watchHome c, watchValue c k)] })) ∧
  (∀ (s : State) (c : WatchCommand) (g : Grid) (k core : Nat), s.grid? c.gid = some g → g.debugged = true → c.space ≠ 3 → c.bcast ≠ 3 →
    c.kinds ≠ 0 → powerOfTwo c.len = some k → c.addr.toNat % c.len = 0 → watchHome c = some core → watchCoresOk c = true →
    (c.space = 0 → c.core.isSome = true) →
    let v := watchValue c k
    (g.admitted = 0 → exec (.xanWatch c) s = .next (s.modGrid c.gid fun g => { g with heldWatches := g.heldWatches ++ [(some core, v)] })) ∧
    (g.admitted ≠ 0 → (∀ j, s.freeWatch core = some j →
      exec (.xanWatch c) s = .next (({ s with
        watches := Table.set s.watches (4 * core + j) v,
        watchGrids := (4 * core + j, c.gid) :: s.watchGrids.filter fun x => x.1 != 4 * core + j } : State).say "watch" [core, j])) ∧
      (s.freeWatch core = none → exec (.xanWatch c) s = .next (s.say "refused: no free watchpoint on core" [core]))) ∧
    (∀ j, j < 4 → exec (.xanWatchDelete core j) s =
      .next { s with watches := Table.set s.watches (4 * core + j) (Table.get s.watches (4 * core + j) &&& ~~~1#128) })) ∧
  (∀ (s : State) (c : WatchCommand) (g : Grid) (k : Nat), s.grid? c.gid = some g → g.debugged = true → c.space = 1 → c.core = none →
    c.bcast ≠ 3 → c.kinds ≠ 0 → powerOfTwo c.len = some k → c.addr.toNat % c.len = 0 → watchCoresOk c = true → g.admitted = 0 →
    exec (.xanWatch c) s = .next (s.modGrid c.gid fun g => { g with heldWatches := g.heldWatches ++ [(none, watchValue c k)] })) ∧
  (∀ (s : State) (gid core : Nat) (g : Grid) (addr : Double) (bcast : BitVec 2), s.grid? gid = some g → g.debugged = true → bcast ≠ 3 → core < 576 →
    (exec (.xanBkptBcast gid bcast) s = .next (s.modGrid gid fun g => { g with bkptBcast := bcast })) ∧
    let held := fun (x : HeldBreak) (s : State) => s.modGrid gid fun g => { g with heldBreaks := g.heldBreaks ++ [x] }
    (∀ k, (s.coreAt core).breaks.toList.contains (some { addr := addr, gid := gid, bcast := bcast }) = false → (s.coreAt core).freeBreak = some k →
      core ∈ s.gridCores gid → exec (.xanBreakCore gid addr core bcast) s = .next (held { addr := addr, bcast := bcast, core := some core }
        (s.modCore core fun c => { c with breaks := vput c.breaks k (some { addr := addr, gid := gid, bcast := bcast }) }))) ∧
    (core ∉ s.gridCores gid →
      exec (.xanBreakCore gid addr core bcast) s = .next (held { addr := addr, bcast := bcast, core := some core } s)) ∧
    ((∀ n ∈ s.gridCores gid, (s.coreAt n).freeBreak.isSome = true) →
      exec (.xanBreak gid addr bcast) s = .next (held { addr := addr, bcast := bcast, core := none }
        ((s.gridCores gid).foldl (fun s n => s.writeBreak gid n addr bcast) s)))) ∧
  (∀ (s : State) (gid core : Nat) (addr : Double) (bcast : BitVec 2), s.grid? gid = none → bcast ≠ 3 → core < 576 →
    exec (.xanBreak gid addr bcast) s = .next { s with heldBreaks := s.heldBreaks ++ [{ addr := addr, bcast := bcast, core := none }] } ∧
    exec (.xanBreakCore gid addr core bcast) s =
      .next { s with heldBreaks := s.heldBreaks ++ [{ addr := addr, bcast := bcast, core := some core }] })

/-- R258, R286, R313: the debugger's readers say what they are asked for, and move nothing of the part. -/
def Obligations.DebuggerReads : Prop :=
  ∀ (s : State),
    (∀ t lane, s.team? t.uid = some t → ∃ l, exec (.xanCv t.uid lane) s = .next (s.say "cv" l) ∧
      l.take 64 = (List.range 64).map fun k => (byteOf (t.real.thread lane).cv.pack k).toNat) ∧
    (∀ gid g r p chain step, s.grid? gid = some g → g.relay = some r → s.proc? g.pid = some p →
      exec (.xanChain gid chain step) s =
        .next (s.say "chain" ((s.readVirt p (r.reca.toNat + 64 * (chain * r.steps + step - 1)) 64).map BitVec.toNat))) ∧
    (∀ gid g, s.grid? gid = some g → exec (.xanEvents gid) s = .next (s.say "events" ((List.range g.count).flatMap fun b =>
      [b, if (g.event? b).isSome then 1 else 0, ((g.event? b).getD 0).toNat, (s.eventWaiters gid b).length] ++ s.eventWaiters gid b))) ∧
    (∀ gid blk b, s.blocks.find? (fun b => b.gid == gid && b.index == blk && b.shadowOf.isNone) = some b →
      exec (.xanBlock gid blk) s = .next (s.say "block" [b.tfull.toNat, b.ntile, b.nacc, b.mflags.toNat, b.scrsz])) ∧
    (∀ t, s.team? t.uid = some t →
      (t.cause ≠ 0 → exec (.xanEstate t.uid) s = .next (s.say "no estate: team ended" [])) ∧
      (t.cause = 0 → ∃ l, exec (.xanEstate t.uid) s = .next (s.say "estate" l) ∧ (Estate.last t.estate = none → l = []))) ∧
    (∀ uid, s.team? uid = none → uid < s.nextUid → exec (.xanEstate uid) s = .next (s.say "no estate: team ended" []))

/-! ### The machine -/

/-- R175: in an ordered launch ATOMR gives each live lane, by ascending position, the team's next offsets, as many as its operand, and adds
the operand at its address. Beyond C it raises RESERVATION_EXCEEDED: no lane performs, and the counter is unchanged. -/
def Obligations.OrderedReservation : Prop :=
  ∀ (s : State) (t : Team) (g : Grid) (b : Block) (i : Instr) (f : AtomForm) (tg : Nat → Target) (row : Nat), Calm s t → Seated t → Quiet s t →
    TakesTraps s t g → g.ordered = true → s.blockOf t = some b → atomForm true i = none → atomForm false i = some f → f.ok t = true →
    liveMask t ≠ 0 →
    (∀ p, maskHas (liveMask t) p = true → p / 32 = row ∧ Places s t f.space .store (addressOf f.space (rdAt t f.base p) f.l.off) f.l.bytes (tg p)) →
    let lanes := maskLanes (liveMask t)
    let first := fun p => t.atomrN + ((lanes.filter fun q => decide (q < p)).map (f.x t)).sum
    let total := t.atomrN + (lanes.map (f.x t)).sum
    (total ≤ g.atomr →
      let done := atomicsAt t f.l tg (f.x t) (fun _ => 0) lanes s
      let s1 := if f.l.order.toNat % 2 = 1 then done.2.acquire t.core (narrowScope f.space f.l.scope) else done.2
      ∃ t' n, exec i s = .next (after 1 (s1.setTeam t')) ∧
        t' = { finished t (nextPc t i) n with
          threads := t.threads.map (fun th =>
            if isLive t th then (th.freeAll f.frees).writeDst (.v f.d.toNat f.l.width)
              (BitVec.ofNat 64 (((b.index * g.teams + t.tix) * g.atomr + first th.pos) % 2 ^ (8 * f.l.bytes))) else th),
          atomrN := total, dirty := t'.dirty, fDirty := t'.fDirty, auxDirty := t'.auxDirty }) ∧
    (g.atomr < total → ∃ t', exec i s = .next (s.setTeam t') ∧ t'.pc = g.traph ∧ t'.frame.cause = 0x10 ∧
      t'.frame.info = BitVec.ofNat 64 g.atomr ∧ t'.frame.lmask = filterMask (liveMask t) (fun p => decide (g.atomr < first p + f.x t p)) ∧
      t'.atomrN = t.atomrN ∧ t'.threads = t.threads ∧ t'.s = t.s)

/-- R296, R305, R307, R309: after reset nothing is launched or resident, no image runs, counters are 0, limits are 2,600 W, the Tapsters stand
on their defaults. That every memory reads as 0 (logs 4 and 5) and the values of registers that the spec leaves open (log 2) are
the model's choices. -/
def Obligations.ResetState : Prop :=
  let s := State.reset
  s.mem = [] ∧ s.teams = [] ∧ s.blocks = [] ∧ s.grids = [] ∧ s.procs = [] ∧ s.watches = [] ∧ s.hub.booted = false ∧
    s.hub.counters = Vector.replicate 9 0 ∧ s.hub.commanded = 2600 ∧ s.hub.effective = 2600 ∧ s.hub.thermal = [] ∧
    (∀ k, k < 576 → (s.coreAt k).commons = [] ∧ (s.coreAt k).reservation = none ∧ (s.coreAt k).courier = []) ∧
    ∀ d, d < 4 → (s.dieAt d).faults = [] ∧ (s.dieAt d).tapster.steps = 64 ∧ (s.dieAt d).tapster.loaded = false

/-- At reset every memory is in canonical form. -/
def Obligations.ResetMemories : Prop := memoriesWf State.reset = true

/-- Every step keeps every memory of the part in canonical form: device memory, scratch, tiles, save areas, commons, weight buffers, spill
regions. -/
def Obligations.StepKeepsMemories : Prop := ∀ (s s' : State), memoriesWf s = true → step s = .next s' → memoriesWf s' = true

/-- R76 to R89: decoding the words, or the bytes, of a well-formed instruction gives it back, with every operand; and only its own words
decode to an instruction. -/
def Obligations.DecodeEncode : Prop :=
  (∀ (i : Instr) (rest : List Word), i.wf = true → decode (encode i ++ rest) = .ok (i, rest) ∧ decodeBytes (encodeBytes i) = .ok i) ∧
  (∀ (ws : List Word) (i : Instr) (rest : List Word), decode ws = .ok (i, rest) → i.wf = true ∧ ws = encode i ++ rest)

/-- Words written out from the encodings of R76 to R89 decode to the instructions that they stand for. -/
def Obligations.DecodeWords : Prop :=
  let m : Mods := { lua := false, lub := false, stall := 0 }
  decodeWord 0x00400000 0 = .ok (.nop m) ∧
  decodeWord 0x00800000 0xFFFFFFFC = .ok (.bra m { offset := 0xFFFFFFFC }) ∧
  decodeWord 0x20010830 0 = .ok (.andVector m 1 2 3) ∧
  decodeWord 0x2802080C 0x000000FF = .error .reservedField ∧
  decodeWord 0x28020808 0x000000FF = .ok (.andLiteral { lua := true, lub := false, stall := 0 } 2 2 { imm := 0xFF }) ∧
  decodeWord 0x38400000 0 = .ok (.unassignedOpcode 0x38400000)

/-- R76 to R78, R191: where the words at the pc of the team that issues, the one that has the turn or that the schedule names next and no
candidate of its quadrant goes before, decode to an instruction, the step is that instruction, with what the debugger keeps of an issue; a
word with a reserved field, or an index of no parameter, raises its cause. The words are those of memory, where the core's instruction
cache holds no line of them or holds them as memory has them (log 71). When the instruction traps at a pass, the younger instructions
that the schedule says have issued take free replay entries, RPC is the address after the last, and nothing else changes (R202, R203,
log 1). A team that another candidate goes before issues nothing. An event that the schedule has next is the step. A step does nothing
else but to let lines leave a register cache that would hold more than its 4,096 (R10; log 7). -/
def Obligations.StepRunsDecoded : Prop :=
  (∀ (s0 : State) (rest : List Input) (stalled : List Nat) (t : Team) (young pa pb : Nat),
    (s0.inputs = [] ∧ rest = [] ∧ s0.turn = t.uid ∧ stalled = [] ∧ young = 0) ∨ s0.inputs = .issue t.uid stalled young :: rest →
    let b := { s0 with inputs := rest }
    let s := { b with turn := t.uid }
    s.team? t.uid = some t → s.mayIssue t = true → t.replay = [] →
    s.breakAt t = none → canonical t.pc = true → Mapped s t .fetch (t.pc.toNat % 2 ^ 57) pa →
    let w := s.readCode t.core pa
    (takesLiteral (fieldsOf w.1).op = true → Mapped s t .fetch ((t.pc + 4).toNat % 2 ^ 57) pb) →
    let l := if takesLiteral (fieldsOf w.1).op then w.2.readCode t.core pb else (0#32, w.2)
    let s1 := l.2
    let gives := fun o : Out => step s0 = Out.fit (if issuesNow t o then
        (if b.ranks exec t stalled then (o.withYounger exec b t young).noteSlot t (b.nextWord t) else .next s) else o) t.uid
    (∀ i, decodeWord w.1 l.1 = .ok i → gives (Out.afterIssue (exec i s1) t) ∧
      (t.grant = false → t.passBreak = none → ∀ s', exec i s1 = .next s' → (s'.gridOf t).any Grid.debugged = false →
        Out.afterIssue (exec i s1) t = .next s')) ∧
    (decodeWord w.1 l.1 = .error .reservedField → gives (Out.afterIssue (.next (s1.rawTrap exec t w.1 l.1 illegalEncoding)) t)) ∧
    (decodeWord w.1 l.1 = .error .unassignedIndex → gives (Out.afterIssue (.next (s1.rawTrap exec t w.1 l.1 illegalOperand)) t))) ∧
  (∀ (s : State) (core pa : Nat), let w := s.readCode core pa
    ((∀ x ∈ (s.coreAt core).icache, x.line ≠ pa / 128) → w.1 = BitVec.ofNat 32 (Memory.readNat s.mem pa 4) ∧ w.2.mem = s.mem ∧ w.2.teams = s.teams) ∧
    (∀ x, (s.coreAt core).icache.find? (fun l => l.line == pa / 128) = some x →
      x.data.extractLsb' (8 * (pa % 128)) 32 = BitVec.ofNat 32 (Memory.readNat s.mem pa 4) → w = (BitVec.ofNat 32 (Memory.readNat s.mem pa 4), s))) ∧
  (∀ (s0 s : State) (t0 u : Team) (young : Nat), s.team? t0.uid = some u →
    let y := s0.withYounger exec s t0 young
    (young = 0 ∨ u.frame.active ≠ 1 ∨ t0.frame.active ≠ 0 ∨ passCause u.frame.cause = false → y = s) ∧
    ∃ u', y = { s with teams := y.teams, tick := y.tick } ∧
      y.team? t0.uid = some u' ∧ u' = { u with rq := u'.rq, frame := { u.frame with rpc := u'.frame.rpc } } ∧
      ∀ e, e < 8 → vget u'.rq e .free = vget u.rq e .free ∨ (vget u.rq e .free).state = 0 ∧ (vget u'.rq e .free).state = 1) ∧
  (∀ (s : State) (keep : Nat), (∀ core, (((s.teams.filter fun t => t.core == core && t.cause == 0).map fun t =>
    t.nvec * t.ngrp + t.nvec + 26).sum) ≤ 4096) → s.fit keep = s) ∧
  (∀ (s : State) (uid : Nat) (stalled : List Nat) (young : Nat) (rest : List Input) (t : Team), s.inputs = .issue uid stalled young :: rest →
    s.team? uid = some t → s.mayIssue t = false → step s = Out.fit (.next { s with inputs := rest, turn := uid }) uid) ∧
  (∀ (s : State) (i : Instr) (rest : List Input), s.inputs = .event i :: rest → encode i = [] →
    let s1 := { s with inputs := rest }
    step s = Out.fit (Out.afterHit (exec i s1) exec s1) (Input.team s.turn s.inputs.head?) ∧
    (s.hits = [] → Out.afterHit (exec i s1) exec s1 = exec i s1)) ∧
  (∀ (s : State) (uid : Nat) (l : RegLine) (rest : List Input), s.inputs = .evict uid l :: rest →
    let s1 := { s with inputs := rest }
    ∃ s', step s = Out.fit (.next s') (Input.team s.turn s.inputs.head?) ∧
      (s' = s1 ∨ s' = s1.evictLine uid l ∧ (s.team? uid).any (fun t => s.mayEvict t l) = true))
end

