-- ==== Sys2Proof/Laws/State.lean ====
section
/-! SUPPORT. What each elementary update of State leaves in each field, and what a lookup finds after one. -/

namespace Sys2Proof.Machine

/-! ### State.setTeam -/

@[simp] theorem State.setTeam_mem (s : State) (t : Team) : (s.setTeam t).mem = s.mem := rfl
@[simp] theorem State.setTeam_poison (s : State) (t : Team) : (s.setTeam t).poison = s.poison := rfl
@[simp] theorem State.setTeam_soft (s : State) (t : Team) : (s.setTeam t).soft = s.soft := rfl
@[simp] theorem State.setTeam_teams (s : State) (t : Team) : (s.setTeam t).teams = s.teams.map fun u => if u.uid = t.uid then t else u := rfl
@[simp] theorem State.setTeam_blocks (s : State) (t : Team) : (s.setTeam t).blocks = s.blocks := rfl
@[simp] theorem State.setTeam_grids (s : State) (t : Team) : (s.setTeam t).grids = s.grids := rfl
@[simp] theorem State.setTeam_cores (s : State) (t : Team) : (s.setTeam t).cores = s.cores := rfl
@[simp] theorem State.setTeam_dies (s : State) (t : Team) : (s.setTeam t).dies = s.dies := rfl
@[simp] theorem State.setTeam_procs (s : State) (t : Team) : (s.setTeam t).procs = s.procs := rfl
@[simp] theorem State.setTeam_hub (s : State) (t : Team) : (s.setTeam t).hub = s.hub := rfl
@[simp] theorem State.setTeam_watches (s : State) (t : Team) : (s.setTeam t).watches = s.watches := rfl
@[simp] theorem State.setTeam_watchGrids (s : State) (t : Team) : (s.setTeam t).watchGrids = s.watchGrids := rfl
@[simp] theorem State.setTeam_hits (s : State) (t : Team) : (s.setTeam t).hits = s.hits := rfl
@[simp] theorem State.setTeam_heldBreaks (s : State) (t : Team) : (s.setTeam t).heldBreaks = s.heldBreaks := rfl
@[simp] theorem State.setTeam_heldWatches (s : State) (t : Team) : (s.setTeam t).heldWatches = s.heldWatches := rfl
@[simp] theorem State.setTeam_prompting (s : State) (t : Team) : (s.setTeam t).prompting = s.prompting := rfl
@[simp] theorem State.setTeam_invalidating (s : State) (t : Team) : (s.setTeam t).invalidating = s.invalidating := rfl
@[simp] theorem State.setTeam_walked (s : State) (t : Team) : (s.setTeam t).walked = s.walked := rfl
@[simp] theorem State.setTeam_nextUid (s : State) (t : Team) : (s.setTeam t).nextUid = s.nextUid := rfl
@[simp] theorem State.setTeam_nextGid (s : State) (t : Team) : (s.setTeam t).nextGid = s.nextGid := rfl
@[simp] theorem State.setTeam_clock (s : State) (t : Team) : (s.setTeam t).clock = s.clock := rfl
@[simp] theorem State.setTeam_inputs (s : State) (t : Team) : (s.setTeam t).inputs = s.inputs := rfl
@[simp] theorem State.setTeam_turn (s : State) (t : Team) : (s.setTeam t).turn = s.turn := rfl
@[simp] theorem State.setTeam_tick (s : State) (t : Team) : (s.setTeam t).tick = s.tick := rfl
@[simp] theorem State.setTeam_replies (s : State) (t : Team) : (s.setTeam t).replies = s.replies := rfl

/-! ### State.modTeam -/

@[simp] theorem State.modTeam_mem (s : State) (u : Nat) (f : Team → Team) : (s.modTeam u f).mem = s.mem := rfl
@[simp] theorem State.modTeam_poison (s : State) (u : Nat) (f : Team → Team) : (s.modTeam u f).poison = s.poison := rfl
@[simp] theorem State.modTeam_soft (s : State) (u : Nat) (f : Team → Team) : (s.modTeam u f).soft = s.soft := rfl
@[simp] theorem State.modTeam_teams (s : State) (u : Nat) (f : Team → Team) : (s.modTeam u f).teams = s.teams.map fun v => if v.uid = u then f v else v := rfl
@[simp] theorem State.modTeam_blocks (s : State) (u : Nat) (f : Team → Team) : (s.modTeam u f).blocks = s.blocks := rfl
@[simp] theorem State.modTeam_grids (s : State) (u : Nat) (f : Team → Team) : (s.modTeam u f).grids = s.grids := rfl
@[simp] theorem State.modTeam_cores (s : State) (u : Nat) (f : Team → Team) : (s.modTeam u f).cores = s.cores := rfl
@[simp] theorem State.modTeam_dies (s : State) (u : Nat) (f : Team → Team) : (s.modTeam u f).dies = s.dies := rfl
@[simp] theorem State.modTeam_procs (s : State) (u : Nat) (f : Team → Team) : (s.modTeam u f).procs = s.procs := rfl
@[simp] theorem State.modTeam_hub (s : State) (u : Nat) (f : Team → Team) : (s.modTeam u f).hub = s.hub := rfl
@[simp] theorem State.modTeam_watches (s : State) (u : Nat) (f : Team → Team) : (s.modTeam u f).watches = s.watches := rfl
@[simp] theorem State.modTeam_watchGrids (s : State) (u : Nat) (f : Team → Team) : (s.modTeam u f).watchGrids = s.watchGrids := rfl
@[simp] theorem State.modTeam_hits (s : State) (u : Nat) (f : Team → Team) : (s.modTeam u f).hits = s.hits := rfl
@[simp] theorem State.modTeam_heldBreaks (s : State) (u : Nat) (f : Team → Team) : (s.modTeam u f).heldBreaks = s.heldBreaks := rfl
@[simp] theorem State.modTeam_heldWatches (s : State) (u : Nat) (f : Team → Team) : (s.modTeam u f).heldWatches = s.heldWatches := rfl
@[simp] theorem State.modTeam_prompting (s : State) (u : Nat) (f : Team → Team) : (s.modTeam u f).prompting = s.prompting := rfl
@[simp] theorem State.modTeam_invalidating (s : State) (u : Nat) (f : Team → Team) : (s.modTeam u f).invalidating = s.invalidating := rfl
@[simp] theorem State.modTeam_walked (s : State) (u : Nat) (f : Team → Team) : (s.modTeam u f).walked = s.walked := rfl
@[simp] theorem State.modTeam_nextUid (s : State) (u : Nat) (f : Team → Team) : (s.modTeam u f).nextUid = s.nextUid := rfl
@[simp] theorem State.modTeam_nextGid (s : State) (u : Nat) (f : Team → Team) : (s.modTeam u f).nextGid = s.nextGid := rfl
@[simp] theorem State.modTeam_clock (s : State) (u : Nat) (f : Team → Team) : (s.modTeam u f).clock = s.clock := rfl
@[simp] theorem State.modTeam_inputs (s : State) (u : Nat) (f : Team → Team) : (s.modTeam u f).inputs = s.inputs := rfl
@[simp] theorem State.modTeam_turn (s : State) (u : Nat) (f : Team → Team) : (s.modTeam u f).turn = s.turn := rfl
@[simp] theorem State.modTeam_tick (s : State) (u : Nat) (f : Team → Team) : (s.modTeam u f).tick = s.tick := rfl
@[simp] theorem State.modTeam_replies (s : State) (u : Nat) (f : Team → Team) : (s.modTeam u f).replies = s.replies := rfl

/-! ### State.modBlock -/

@[simp] theorem State.modBlock_mem (s : State) (u : Nat) (f : Block → Block) : (s.modBlock u f).mem = s.mem := rfl
@[simp] theorem State.modBlock_poison (s : State) (u : Nat) (f : Block → Block) : (s.modBlock u f).poison = s.poison := rfl
@[simp] theorem State.modBlock_soft (s : State) (u : Nat) (f : Block → Block) : (s.modBlock u f).soft = s.soft := rfl
@[simp] theorem State.modBlock_teams (s : State) (u : Nat) (f : Block → Block) : (s.modBlock u f).teams = s.teams := rfl
@[simp] theorem State.modBlock_blocks (s : State) (u : Nat) (f : Block → Block) : (s.modBlock u f).blocks = s.blocks.map fun b => if b.uid = u then f b else b := rfl
@[simp] theorem State.modBlock_grids (s : State) (u : Nat) (f : Block → Block) : (s.modBlock u f).grids = s.grids := rfl
@[simp] theorem State.modBlock_cores (s : State) (u : Nat) (f : Block → Block) : (s.modBlock u f).cores = s.cores := rfl
@[simp] theorem State.modBlock_dies (s : State) (u : Nat) (f : Block → Block) : (s.modBlock u f).dies = s.dies := rfl
@[simp] theorem State.modBlock_procs (s : State) (u : Nat) (f : Block → Block) : (s.modBlock u f).procs = s.procs := rfl
@[simp] theorem State.modBlock_hub (s : State) (u : Nat) (f : Block → Block) : (s.modBlock u f).hub = s.hub := rfl
@[simp] theorem State.modBlock_watches (s : State) (u : Nat) (f : Block → Block) : (s.modBlock u f).watches = s.watches := rfl
@[simp] theorem State.modBlock_watchGrids (s : State) (u : Nat) (f : Block → Block) : (s.modBlock u f).watchGrids = s.watchGrids := rfl
@[simp] theorem State.modBlock_hits (s : State) (u : Nat) (f : Block → Block) : (s.modBlock u f).hits = s.hits := rfl
@[simp] theorem State.modBlock_heldBreaks (s : State) (u : Nat) (f : Block → Block) : (s.modBlock u f).heldBreaks = s.heldBreaks := rfl
@[simp] theorem State.modBlock_heldWatches (s : State) (u : Nat) (f : Block → Block) : (s.modBlock u f).heldWatches = s.heldWatches := rfl
@[simp] theorem State.modBlock_prompting (s : State) (u : Nat) (f : Block → Block) : (s.modBlock u f).prompting = s.prompting := rfl
@[simp] theorem State.modBlock_invalidating (s : State) (u : Nat) (f : Block → Block) : (s.modBlock u f).invalidating = s.invalidating := rfl
@[simp] theorem State.modBlock_walked (s : State) (u : Nat) (f : Block → Block) : (s.modBlock u f).walked = s.walked := rfl
@[simp] theorem State.modBlock_nextUid (s : State) (u : Nat) (f : Block → Block) : (s.modBlock u f).nextUid = s.nextUid := rfl
@[simp] theorem State.modBlock_nextGid (s : State) (u : Nat) (f : Block → Block) : (s.modBlock u f).nextGid = s.nextGid := rfl
@[simp] theorem State.modBlock_clock (s : State) (u : Nat) (f : Block → Block) : (s.modBlock u f).clock = s.clock := rfl
@[simp] theorem State.modBlock_inputs (s : State) (u : Nat) (f : Block → Block) : (s.modBlock u f).inputs = s.inputs := rfl
@[simp] theorem State.modBlock_turn (s : State) (u : Nat) (f : Block → Block) : (s.modBlock u f).turn = s.turn := rfl
@[simp] theorem State.modBlock_tick (s : State) (u : Nat) (f : Block → Block) : (s.modBlock u f).tick = s.tick := rfl
@[simp] theorem State.modBlock_replies (s : State) (u : Nat) (f : Block → Block) : (s.modBlock u f).replies = s.replies := rfl

/-! ### State.modGrid -/

@[simp] theorem State.modGrid_mem (s : State) (g : Nat) (f : Grid → Grid) : (s.modGrid g f).mem = s.mem := rfl
@[simp] theorem State.modGrid_poison (s : State) (g : Nat) (f : Grid → Grid) : (s.modGrid g f).poison = s.poison := rfl
@[simp] theorem State.modGrid_soft (s : State) (g : Nat) (f : Grid → Grid) : (s.modGrid g f).soft = s.soft := rfl
@[simp] theorem State.modGrid_teams (s : State) (g : Nat) (f : Grid → Grid) : (s.modGrid g f).teams = s.teams := rfl
@[simp] theorem State.modGrid_blocks (s : State) (g : Nat) (f : Grid → Grid) : (s.modGrid g f).blocks = s.blocks := rfl
@[simp] theorem State.modGrid_grids (s : State) (g : Nat) (f : Grid → Grid) : (s.modGrid g f).grids = s.grids.map fun x => if x.gid = g then f x else x := rfl
@[simp] theorem State.modGrid_cores (s : State) (g : Nat) (f : Grid → Grid) : (s.modGrid g f).cores = s.cores := rfl
@[simp] theorem State.modGrid_dies (s : State) (g : Nat) (f : Grid → Grid) : (s.modGrid g f).dies = s.dies := rfl
@[simp] theorem State.modGrid_procs (s : State) (g : Nat) (f : Grid → Grid) : (s.modGrid g f).procs = s.procs := rfl
@[simp] theorem State.modGrid_hub (s : State) (g : Nat) (f : Grid → Grid) : (s.modGrid g f).hub = s.hub := rfl
@[simp] theorem State.modGrid_watches (s : State) (g : Nat) (f : Grid → Grid) : (s.modGrid g f).watches = s.watches := rfl
@[simp] theorem State.modGrid_watchGrids (s : State) (g : Nat) (f : Grid → Grid) : (s.modGrid g f).watchGrids = s.watchGrids := rfl
@[simp] theorem State.modGrid_hits (s : State) (g : Nat) (f : Grid → Grid) : (s.modGrid g f).hits = s.hits := rfl
@[simp] theorem State.modGrid_heldBreaks (s : State) (g : Nat) (f : Grid → Grid) : (s.modGrid g f).heldBreaks = s.heldBreaks := rfl
@[simp] theorem State.modGrid_heldWatches (s : State) (g : Nat) (f : Grid → Grid) : (s.modGrid g f).heldWatches = s.heldWatches := rfl
@[simp] theorem State.modGrid_prompting (s : State) (g : Nat) (f : Grid → Grid) : (s.modGrid g f).prompting = s.prompting := rfl
@[simp] theorem State.modGrid_invalidating (s : State) (g : Nat) (f : Grid → Grid) : (s.modGrid g f).invalidating = s.invalidating := rfl
@[simp] theorem State.modGrid_walked (s : State) (g : Nat) (f : Grid → Grid) : (s.modGrid g f).walked = s.walked := rfl
@[simp] theorem State.modGrid_nextUid (s : State) (g : Nat) (f : Grid → Grid) : (s.modGrid g f).nextUid = s.nextUid := rfl
@[simp] theorem State.modGrid_nextGid (s : State) (g : Nat) (f : Grid → Grid) : (s.modGrid g f).nextGid = s.nextGid := rfl
@[simp] theorem State.modGrid_clock (s : State) (g : Nat) (f : Grid → Grid) : (s.modGrid g f).clock = s.clock := rfl
@[simp] theorem State.modGrid_inputs (s : State) (g : Nat) (f : Grid → Grid) : (s.modGrid g f).inputs = s.inputs := rfl
@[simp] theorem State.modGrid_turn (s : State) (g : Nat) (f : Grid → Grid) : (s.modGrid g f).turn = s.turn := rfl
@[simp] theorem State.modGrid_tick (s : State) (g : Nat) (f : Grid → Grid) : (s.modGrid g f).tick = s.tick := rfl
@[simp] theorem State.modGrid_replies (s : State) (g : Nat) (f : Grid → Grid) : (s.modGrid g f).replies = s.replies := rfl

/-! ### State.modProc -/

@[simp] theorem State.modProc_mem (s : State) (p : Nat) (f : Process → Process) : (s.modProc p f).mem = s.mem := rfl
@[simp] theorem State.modProc_poison (s : State) (p : Nat) (f : Process → Process) : (s.modProc p f).poison = s.poison := rfl
@[simp] theorem State.modProc_soft (s : State) (p : Nat) (f : Process → Process) : (s.modProc p f).soft = s.soft := rfl
@[simp] theorem State.modProc_teams (s : State) (p : Nat) (f : Process → Process) : (s.modProc p f).teams = s.teams := rfl
@[simp] theorem State.modProc_blocks (s : State) (p : Nat) (f : Process → Process) : (s.modProc p f).blocks = s.blocks := rfl
@[simp] theorem State.modProc_grids (s : State) (p : Nat) (f : Process → Process) : (s.modProc p f).grids = s.grids := rfl
@[simp] theorem State.modProc_cores (s : State) (p : Nat) (f : Process → Process) : (s.modProc p f).cores = s.cores := rfl
@[simp] theorem State.modProc_dies (s : State) (p : Nat) (f : Process → Process) : (s.modProc p f).dies = s.dies := rfl
@[simp] theorem State.modProc_procs (s : State) (p : Nat) (f : Process → Process) : (s.modProc p f).procs = s.procs.map fun x => if x.pid = p then f x else x := rfl
@[simp] theorem State.modProc_hub (s : State) (p : Nat) (f : Process → Process) : (s.modProc p f).hub = s.hub := rfl
@[simp] theorem State.modProc_watches (s : State) (p : Nat) (f : Process → Process) : (s.modProc p f).watches = s.watches := rfl
@[simp] theorem State.modProc_watchGrids (s : State) (p : Nat) (f : Process → Process) : (s.modProc p f).watchGrids = s.watchGrids := rfl
@[simp] theorem State.modProc_hits (s : State) (p : Nat) (f : Process → Process) : (s.modProc p f).hits = s.hits := rfl
@[simp] theorem State.modProc_heldBreaks (s : State) (p : Nat) (f : Process → Process) : (s.modProc p f).heldBreaks = s.heldBreaks := rfl
@[simp] theorem State.modProc_heldWatches (s : State) (p : Nat) (f : Process → Process) : (s.modProc p f).heldWatches = s.heldWatches := rfl
@[simp] theorem State.modProc_prompting (s : State) (p : Nat) (f : Process → Process) : (s.modProc p f).prompting = s.prompting := rfl
@[simp] theorem State.modProc_invalidating (s : State) (p : Nat) (f : Process → Process) : (s.modProc p f).invalidating = s.invalidating := rfl
@[simp] theorem State.modProc_walked (s : State) (p : Nat) (f : Process → Process) : (s.modProc p f).walked = s.walked := rfl
@[simp] theorem State.modProc_nextUid (s : State) (p : Nat) (f : Process → Process) : (s.modProc p f).nextUid = s.nextUid := rfl
@[simp] theorem State.modProc_nextGid (s : State) (p : Nat) (f : Process → Process) : (s.modProc p f).nextGid = s.nextGid := rfl
@[simp] theorem State.modProc_clock (s : State) (p : Nat) (f : Process → Process) : (s.modProc p f).clock = s.clock := rfl
@[simp] theorem State.modProc_inputs (s : State) (p : Nat) (f : Process → Process) : (s.modProc p f).inputs = s.inputs := rfl
@[simp] theorem State.modProc_turn (s : State) (p : Nat) (f : Process → Process) : (s.modProc p f).turn = s.turn := rfl
@[simp] theorem State.modProc_tick (s : State) (p : Nat) (f : Process → Process) : (s.modProc p f).tick = s.tick := rfl
@[simp] theorem State.modProc_replies (s : State) (p : Nat) (f : Process → Process) : (s.modProc p f).replies = s.replies := rfl

/-! ### State.modCore -/

@[simp] theorem State.modCore_mem (s : State) (n : Nat) (f : CoreState → CoreState) : (s.modCore n f).mem = s.mem := rfl
@[simp] theorem State.modCore_poison (s : State) (n : Nat) (f : CoreState → CoreState) : (s.modCore n f).poison = s.poison := rfl
@[simp] theorem State.modCore_soft (s : State) (n : Nat) (f : CoreState → CoreState) : (s.modCore n f).soft = s.soft := rfl
@[simp] theorem State.modCore_teams (s : State) (n : Nat) (f : CoreState → CoreState) : (s.modCore n f).teams = s.teams := rfl
@[simp] theorem State.modCore_blocks (s : State) (n : Nat) (f : CoreState → CoreState) : (s.modCore n f).blocks = s.blocks := rfl
@[simp] theorem State.modCore_grids (s : State) (n : Nat) (f : CoreState → CoreState) : (s.modCore n f).grids = s.grids := rfl
@[simp] theorem State.modCore_cores (s : State) (n : Nat) (f : CoreState → CoreState) : (s.modCore n f).cores = vput s.cores n (f (s.coreAt n)) := rfl
@[simp] theorem State.modCore_dies (s : State) (n : Nat) (f : CoreState → CoreState) : (s.modCore n f).dies = s.dies := rfl
@[simp] theorem State.modCore_procs (s : State) (n : Nat) (f : CoreState → CoreState) : (s.modCore n f).procs = s.procs := rfl
@[simp] theorem State.modCore_hub (s : State) (n : Nat) (f : CoreState → CoreState) : (s.modCore n f).hub = s.hub := rfl
@[simp] theorem State.modCore_watches (s : State) (n : Nat) (f : CoreState → CoreState) : (s.modCore n f).watches = s.watches := rfl
@[simp] theorem State.modCore_watchGrids (s : State) (n : Nat) (f : CoreState → CoreState) : (s.modCore n f).watchGrids = s.watchGrids := rfl
@[simp] theorem State.modCore_hits (s : State) (n : Nat) (f : CoreState → CoreState) : (s.modCore n f).hits = s.hits := rfl
@[simp] theorem State.modCore_heldBreaks (s : State) (n : Nat) (f : CoreState → CoreState) : (s.modCore n f).heldBreaks = s.heldBreaks := rfl
@[simp] theorem State.modCore_heldWatches (s : State) (n : Nat) (f : CoreState → CoreState) : (s.modCore n f).heldWatches = s.heldWatches := rfl
@[simp] theorem State.modCore_prompting (s : State) (n : Nat) (f : CoreState → CoreState) : (s.modCore n f).prompting = s.prompting := rfl
@[simp] theorem State.modCore_invalidating (s : State) (n : Nat) (f : CoreState → CoreState) : (s.modCore n f).invalidating = s.invalidating := rfl
@[simp] theorem State.modCore_walked (s : State) (n : Nat) (f : CoreState → CoreState) : (s.modCore n f).walked = s.walked := rfl
@[simp] theorem State.modCore_nextUid (s : State) (n : Nat) (f : CoreState → CoreState) : (s.modCore n f).nextUid = s.nextUid := rfl
@[simp] theorem State.modCore_nextGid (s : State) (n : Nat) (f : CoreState → CoreState) : (s.modCore n f).nextGid = s.nextGid := rfl
@[simp] theorem State.modCore_clock (s : State) (n : Nat) (f : CoreState → CoreState) : (s.modCore n f).clock = s.clock := rfl
@[simp] theorem State.modCore_inputs (s : State) (n : Nat) (f : CoreState → CoreState) : (s.modCore n f).inputs = s.inputs := rfl
@[simp] theorem State.modCore_turn (s : State) (n : Nat) (f : CoreState → CoreState) : (s.modCore n f).turn = s.turn := rfl
@[simp] theorem State.modCore_tick (s : State) (n : Nat) (f : CoreState → CoreState) : (s.modCore n f).tick = s.tick := rfl
@[simp] theorem State.modCore_replies (s : State) (n : Nat) (f : CoreState → CoreState) : (s.modCore n f).replies = s.replies := rfl

/-! ### State.modDie -/

@[simp] theorem State.modDie_mem (s : State) (d : Nat) (f : DieState → DieState) : (s.modDie d f).mem = s.mem := rfl
@[simp] theorem State.modDie_poison (s : State) (d : Nat) (f : DieState → DieState) : (s.modDie d f).poison = s.poison := rfl
@[simp] theorem State.modDie_soft (s : State) (d : Nat) (f : DieState → DieState) : (s.modDie d f).soft = s.soft := rfl
@[simp] theorem State.modDie_teams (s : State) (d : Nat) (f : DieState → DieState) : (s.modDie d f).teams = s.teams := rfl
@[simp] theorem State.modDie_blocks (s : State) (d : Nat) (f : DieState → DieState) : (s.modDie d f).blocks = s.blocks := rfl
@[simp] theorem State.modDie_grids (s : State) (d : Nat) (f : DieState → DieState) : (s.modDie d f).grids = s.grids := rfl
@[simp] theorem State.modDie_cores (s : State) (d : Nat) (f : DieState → DieState) : (s.modDie d f).cores = s.cores := rfl
@[simp] theorem State.modDie_dies (s : State) (d : Nat) (f : DieState → DieState) : (s.modDie d f).dies = vput s.dies d (f (s.dieAt d)) := rfl
@[simp] theorem State.modDie_procs (s : State) (d : Nat) (f : DieState → DieState) : (s.modDie d f).procs = s.procs := rfl
@[simp] theorem State.modDie_hub (s : State) (d : Nat) (f : DieState → DieState) : (s.modDie d f).hub = s.hub := rfl
@[simp] theorem State.modDie_watches (s : State) (d : Nat) (f : DieState → DieState) : (s.modDie d f).watches = s.watches := rfl
@[simp] theorem State.modDie_watchGrids (s : State) (d : Nat) (f : DieState → DieState) : (s.modDie d f).watchGrids = s.watchGrids := rfl
@[simp] theorem State.modDie_hits (s : State) (d : Nat) (f : DieState → DieState) : (s.modDie d f).hits = s.hits := rfl
@[simp] theorem State.modDie_heldBreaks (s : State) (d : Nat) (f : DieState → DieState) : (s.modDie d f).heldBreaks = s.heldBreaks := rfl
@[simp] theorem State.modDie_heldWatches (s : State) (d : Nat) (f : DieState → DieState) : (s.modDie d f).heldWatches = s.heldWatches := rfl
@[simp] theorem State.modDie_prompting (s : State) (d : Nat) (f : DieState → DieState) : (s.modDie d f).prompting = s.prompting := rfl
@[simp] theorem State.modDie_invalidating (s : State) (d : Nat) (f : DieState → DieState) : (s.modDie d f).invalidating = s.invalidating := rfl
@[simp] theorem State.modDie_walked (s : State) (d : Nat) (f : DieState → DieState) : (s.modDie d f).walked = s.walked := rfl
@[simp] theorem State.modDie_nextUid (s : State) (d : Nat) (f : DieState → DieState) : (s.modDie d f).nextUid = s.nextUid := rfl
@[simp] theorem State.modDie_nextGid (s : State) (d : Nat) (f : DieState → DieState) : (s.modDie d f).nextGid = s.nextGid := rfl
@[simp] theorem State.modDie_clock (s : State) (d : Nat) (f : DieState → DieState) : (s.modDie d f).clock = s.clock := rfl
@[simp] theorem State.modDie_inputs (s : State) (d : Nat) (f : DieState → DieState) : (s.modDie d f).inputs = s.inputs := rfl
@[simp] theorem State.modDie_turn (s : State) (d : Nat) (f : DieState → DieState) : (s.modDie d f).turn = s.turn := rfl
@[simp] theorem State.modDie_tick (s : State) (d : Nat) (f : DieState → DieState) : (s.modDie d f).tick = s.tick := rfl
@[simp] theorem State.modDie_replies (s : State) (d : Nat) (f : DieState → DieState) : (s.modDie d f).replies = s.replies := rfl

/-! ### State.modHub -/

@[simp] theorem State.modHub_mem (s : State) (f : Hub → Hub) : (s.modHub f).mem = s.mem := rfl
@[simp] theorem State.modHub_poison (s : State) (f : Hub → Hub) : (s.modHub f).poison = s.poison := rfl
@[simp] theorem State.modHub_soft (s : State) (f : Hub → Hub) : (s.modHub f).soft = s.soft := rfl
@[simp] theorem State.modHub_teams (s : State) (f : Hub → Hub) : (s.modHub f).teams = s.teams := rfl
@[simp] theorem State.modHub_blocks (s : State) (f : Hub → Hub) : (s.modHub f).blocks = s.blocks := rfl
@[simp] theorem State.modHub_grids (s : State) (f : Hub → Hub) : (s.modHub f).grids = s.grids := rfl
@[simp] theorem State.modHub_cores (s : State) (f : Hub → Hub) : (s.modHub f).cores = s.cores := rfl
@[simp] theorem State.modHub_dies (s : State) (f : Hub → Hub) : (s.modHub f).dies = s.dies := rfl
@[simp] theorem State.modHub_procs (s : State) (f : Hub → Hub) : (s.modHub f).procs = s.procs := rfl
@[simp] theorem State.modHub_hub (s : State) (f : Hub → Hub) : (s.modHub f).hub = f s.hub := rfl
@[simp] theorem State.modHub_watches (s : State) (f : Hub → Hub) : (s.modHub f).watches = s.watches := rfl
@[simp] theorem State.modHub_watchGrids (s : State) (f : Hub → Hub) : (s.modHub f).watchGrids = s.watchGrids := rfl
@[simp] theorem State.modHub_hits (s : State) (f : Hub → Hub) : (s.modHub f).hits = s.hits := rfl
@[simp] theorem State.modHub_heldBreaks (s : State) (f : Hub → Hub) : (s.modHub f).heldBreaks = s.heldBreaks := rfl
@[simp] theorem State.modHub_heldWatches (s : State) (f : Hub → Hub) : (s.modHub f).heldWatches = s.heldWatches := rfl
@[simp] theorem State.modHub_prompting (s : State) (f : Hub → Hub) : (s.modHub f).prompting = s.prompting := rfl
@[simp] theorem State.modHub_invalidating (s : State) (f : Hub → Hub) : (s.modHub f).invalidating = s.invalidating := rfl
@[simp] theorem State.modHub_walked (s : State) (f : Hub → Hub) : (s.modHub f).walked = s.walked := rfl
@[simp] theorem State.modHub_nextUid (s : State) (f : Hub → Hub) : (s.modHub f).nextUid = s.nextUid := rfl
@[simp] theorem State.modHub_nextGid (s : State) (f : Hub → Hub) : (s.modHub f).nextGid = s.nextGid := rfl
@[simp] theorem State.modHub_clock (s : State) (f : Hub → Hub) : (s.modHub f).clock = s.clock := rfl
@[simp] theorem State.modHub_inputs (s : State) (f : Hub → Hub) : (s.modHub f).inputs = s.inputs := rfl
@[simp] theorem State.modHub_turn (s : State) (f : Hub → Hub) : (s.modHub f).turn = s.turn := rfl
@[simp] theorem State.modHub_tick (s : State) (f : Hub → Hub) : (s.modHub f).tick = s.tick := rfl
@[simp] theorem State.modHub_replies (s : State) (f : Hub → Hub) : (s.modHub f).replies = s.replies := rfl

/-! ### State.count -/

@[simp] theorem State.count_mem (s : State) (n : Nat) : (s.count n).mem = s.mem := rfl
@[simp] theorem State.count_poison (s : State) (n : Nat) : (s.count n).poison = s.poison := rfl
@[simp] theorem State.count_soft (s : State) (n : Nat) : (s.count n).soft = s.soft := rfl
@[simp] theorem State.count_teams (s : State) (n : Nat) : (s.count n).teams = s.teams := rfl
@[simp] theorem State.count_blocks (s : State) (n : Nat) : (s.count n).blocks = s.blocks := rfl
@[simp] theorem State.count_grids (s : State) (n : Nat) : (s.count n).grids = s.grids := rfl
@[simp] theorem State.count_cores (s : State) (n : Nat) : (s.count n).cores = s.cores := rfl
@[simp] theorem State.count_dies (s : State) (n : Nat) : (s.count n).dies = s.dies := rfl
@[simp] theorem State.count_procs (s : State) (n : Nat) : (s.count n).procs = s.procs := rfl
@[simp] theorem State.count_hub (s : State) (n : Nat) : (s.count n).hub = { s.hub with counters := vput s.hub.counters n (satInc (vget s.hub.counters n 0)) } := rfl
@[simp] theorem State.count_watches (s : State) (n : Nat) : (s.count n).watches = s.watches := rfl
@[simp] theorem State.count_watchGrids (s : State) (n : Nat) : (s.count n).watchGrids = s.watchGrids := rfl
@[simp] theorem State.count_hits (s : State) (n : Nat) : (s.count n).hits = s.hits := rfl
@[simp] theorem State.count_heldBreaks (s : State) (n : Nat) : (s.count n).heldBreaks = s.heldBreaks := rfl
@[simp] theorem State.count_heldWatches (s : State) (n : Nat) : (s.count n).heldWatches = s.heldWatches := rfl
@[simp] theorem State.count_prompting (s : State) (n : Nat) : (s.count n).prompting = s.prompting := rfl
@[simp] theorem State.count_invalidating (s : State) (n : Nat) : (s.count n).invalidating = s.invalidating := rfl
@[simp] theorem State.count_walked (s : State) (n : Nat) : (s.count n).walked = s.walked := rfl
@[simp] theorem State.count_nextUid (s : State) (n : Nat) : (s.count n).nextUid = s.nextUid := rfl
@[simp] theorem State.count_nextGid (s : State) (n : Nat) : (s.count n).nextGid = s.nextGid := rfl
@[simp] theorem State.count_clock (s : State) (n : Nat) : (s.count n).clock = s.clock := rfl
@[simp] theorem State.count_inputs (s : State) (n : Nat) : (s.count n).inputs = s.inputs := rfl
@[simp] theorem State.count_turn (s : State) (n : Nat) : (s.count n).turn = s.turn := rfl
@[simp] theorem State.count_tick (s : State) (n : Nat) : (s.count n).tick = s.tick := rfl
@[simp] theorem State.count_replies (s : State) (n : Nat) : (s.count n).replies = s.replies := rfl

/-! ### State.say -/

@[simp] theorem State.say_mem (s : State) (x : String) (v : List Nat) : (s.say x v).mem = s.mem := rfl
@[simp] theorem State.say_poison (s : State) (x : String) (v : List Nat) : (s.say x v).poison = s.poison := rfl
@[simp] theorem State.say_soft (s : State) (x : String) (v : List Nat) : (s.say x v).soft = s.soft := rfl
@[simp] theorem State.say_teams (s : State) (x : String) (v : List Nat) : (s.say x v).teams = s.teams := rfl
@[simp] theorem State.say_blocks (s : State) (x : String) (v : List Nat) : (s.say x v).blocks = s.blocks := rfl
@[simp] theorem State.say_grids (s : State) (x : String) (v : List Nat) : (s.say x v).grids = s.grids := rfl
@[simp] theorem State.say_cores (s : State) (x : String) (v : List Nat) : (s.say x v).cores = s.cores := rfl
@[simp] theorem State.say_dies (s : State) (x : String) (v : List Nat) : (s.say x v).dies = s.dies := rfl
@[simp] theorem State.say_procs (s : State) (x : String) (v : List Nat) : (s.say x v).procs = s.procs := rfl
@[simp] theorem State.say_hub (s : State) (x : String) (v : List Nat) : (s.say x v).hub = s.hub := rfl
@[simp] theorem State.say_watches (s : State) (x : String) (v : List Nat) : (s.say x v).watches = s.watches := rfl
@[simp] theorem State.say_watchGrids (s : State) (x : String) (v : List Nat) : (s.say x v).watchGrids = s.watchGrids := rfl
@[simp] theorem State.say_hits (s : State) (x : String) (v : List Nat) : (s.say x v).hits = s.hits := rfl
@[simp] theorem State.say_heldBreaks (s : State) (x : String) (v : List Nat) : (s.say x v).heldBreaks = s.heldBreaks := rfl
@[simp] theorem State.say_heldWatches (s : State) (x : String) (v : List Nat) : (s.say x v).heldWatches = s.heldWatches := rfl
@[simp] theorem State.say_prompting (s : State) (x : String) (v : List Nat) : (s.say x v).prompting = s.prompting := rfl
@[simp] theorem State.say_invalidating (s : State) (x : String) (v : List Nat) : (s.say x v).invalidating = s.invalidating := rfl
@[simp] theorem State.say_walked (s : State) (x : String) (v : List Nat) : (s.say x v).walked = s.walked := rfl
@[simp] theorem State.say_nextUid (s : State) (x : String) (v : List Nat) : (s.say x v).nextUid = s.nextUid := rfl
@[simp] theorem State.say_nextGid (s : State) (x : String) (v : List Nat) : (s.say x v).nextGid = s.nextGid := rfl
@[simp] theorem State.say_clock (s : State) (x : String) (v : List Nat) : (s.say x v).clock = s.clock := rfl
@[simp] theorem State.say_inputs (s : State) (x : String) (v : List Nat) : (s.say x v).inputs = s.inputs := rfl
@[simp] theorem State.say_turn (s : State) (x : String) (v : List Nat) : (s.say x v).turn = s.turn := rfl
@[simp] theorem State.say_tick (s : State) (x : String) (v : List Nat) : (s.say x v).tick = s.tick := rfl
@[simp] theorem State.say_replies (s : State) (x : String) (v : List Nat) : (s.say x v).replies = s.replies ++ [{ status := x, values := v }] := rfl

/-! ### State.ticked -/

@[simp] theorem State.ticked_mem (s : State) : (s.ticked).mem = s.mem := rfl
@[simp] theorem State.ticked_poison (s : State) : (s.ticked).poison = s.poison := rfl
@[simp] theorem State.ticked_soft (s : State) : (s.ticked).soft = s.soft := rfl
@[simp] theorem State.ticked_teams (s : State) : (s.ticked).teams = s.teams := rfl
@[simp] theorem State.ticked_blocks (s : State) : (s.ticked).blocks = s.blocks := rfl
@[simp] theorem State.ticked_grids (s : State) : (s.ticked).grids = s.grids := rfl
@[simp] theorem State.ticked_cores (s : State) : (s.ticked).cores = s.cores := rfl
@[simp] theorem State.ticked_dies (s : State) : (s.ticked).dies = s.dies := rfl
@[simp] theorem State.ticked_procs (s : State) : (s.ticked).procs = s.procs := rfl
@[simp] theorem State.ticked_hub (s : State) : (s.ticked).hub = s.hub := rfl
@[simp] theorem State.ticked_watches (s : State) : (s.ticked).watches = s.watches := rfl
@[simp] theorem State.ticked_watchGrids (s : State) : (s.ticked).watchGrids = s.watchGrids := rfl
@[simp] theorem State.ticked_hits (s : State) : (s.ticked).hits = s.hits := rfl
@[simp] theorem State.ticked_heldBreaks (s : State) : (s.ticked).heldBreaks = s.heldBreaks := rfl
@[simp] theorem State.ticked_heldWatches (s : State) : (s.ticked).heldWatches = s.heldWatches := rfl
@[simp] theorem State.ticked_prompting (s : State) : (s.ticked).prompting = s.prompting := rfl
@[simp] theorem State.ticked_invalidating (s : State) : (s.ticked).invalidating = s.invalidating := rfl
@[simp] theorem State.ticked_walked (s : State) : (s.ticked).walked = s.walked := rfl
@[simp] theorem State.ticked_nextUid (s : State) : (s.ticked).nextUid = s.nextUid := rfl
@[simp] theorem State.ticked_nextGid (s : State) : (s.ticked).nextGid = s.nextGid := rfl
@[simp] theorem State.ticked_clock (s : State) : (s.ticked).clock = s.clock := rfl
@[simp] theorem State.ticked_inputs (s : State) : (s.ticked).inputs = s.inputs := rfl
@[simp] theorem State.ticked_turn (s : State) : (s.ticked).turn = s.turn := rfl
@[simp] theorem State.ticked_tick (s : State) : (s.ticked).tick = s.tick + 1 := rfl
@[simp] theorem State.ticked_replies (s : State) : (s.ticked).replies = s.replies := rfl

/-! ### Lookups -/

variable {s : State} {t u : Team} {n m : Nat}

/-- A team that a lookup finds bears the number asked for. -/
theorem State.team?_uid (h : s.team? n = some t) : t.uid = n := by
  simpa using List.find?_some h

theorem State.block?_uid {b : Block} (h : s.block? n = some b) : b.uid = n := by simpa using List.find?_some h

theorem State.grid?_gid {g : Grid} (h : s.grid? n = some g) : g.gid = n := by simpa using List.find?_some h

theorem State.proc?_pid {p : Process} (h : s.proc? n = some p) : p.pid = n := by simpa using List.find?_some h

/-- Looking in a list whose elements are replaced, by an update that keeps every key, finds the updated element. -/
theorem find?_map_keyed {α : Type} (key : α → Nat) (g : α → α) (hg : ∀ a, key (g a) = key a) (l : List α) (k : Nat) :
    (l.map g).find? (fun a => key a == k) = (l.find? fun a => key a == k).map g := by
  induction l with
  | nil => rfl
  | cons a l ih =>
    by_cases h : key a = k
    · simp [List.find?_cons, hg, h]
    · simp [List.find?_cons, hg, h, ih]

/-- What a lookup finds after an update of the elements of key n. -/
theorem find?_modKeyed {α : Type} (key : α → Nat) (f : α → α) (hf : ∀ a, key (f a) = key a) (l : List α) (n k : Nat) :
    (l.map fun a => if key a = n then f a else a).find? (fun a => key a == k) =
      (l.find? fun a => key a == k).map fun a => if k = n then f a else a := by
  rw [find?_map_keyed key _ (fun a => by split <;> simp [hf])]
  cases h : l.find? fun a => key a == k with
  | none => rfl
  | some a =>
    have : key a = k := by simpa using List.find?_some h
    simp [this]

theorem State.team?_setTeam (s : State) (t : Team) (k : Nat) :
    (s.setTeam t).team? k = if k = t.uid then (s.team? k).map (fun _ => t) else s.team? k := by
  have h := find?_map_keyed Team.uid (fun u => if u.uid = t.uid then t else u) (fun a => by split <;> simp [*]) s.teams k
  simp only [State.team?, State.setTeam_teams]
  rw [h]
  cases hs : s.teams.find? fun a => a.uid == k with
  | none => simp
  | some a =>
    have : a.uid = k := by simpa using List.find?_some hs
    subst this
    split <;> simp [*]

theorem State.team?_setTeam_self (h : s.team? t.uid = some u) : (s.setTeam t).team? t.uid = some t := by
  simp [State.team?_setTeam, h]

theorem State.team?_modTeam (s : State) (f : Team → Team) (hf : ∀ t, (f t).uid = t.uid) (n k : Nat) :
    (s.modTeam n f).team? k = (s.team? k).map fun t => if k = n then f t else t :=
  find?_modKeyed Team.uid f hf s.teams n k

theorem State.block?_modBlock (s : State) (f : Block → Block) (hf : ∀ b, (f b).uid = b.uid) (n k : Nat) :
    (s.modBlock n f).block? k = (s.block? k).map fun b => if k = n then f b else b :=
  find?_modKeyed Block.uid f hf s.blocks n k

theorem State.grid?_modGrid (s : State) (f : Grid → Grid) (hf : ∀ g, (f g).gid = g.gid) (n k : Nat) :
    (s.modGrid n f).grid? k = (s.grid? k).map fun g => if k = n then f g else g :=
  find?_modKeyed Grid.gid f hf s.grids n k

theorem State.proc?_modProc (s : State) (f : Process → Process) (hf : ∀ p, (f p).pid = p.pid) (n k : Nat) :
    (s.modProc n f).proc? k = (s.proc? k).map fun p => if k = n then f p else p :=
  find?_modKeyed Process.pid f hf s.procs n k

/-! Updates of one part leave lookups of the others alone. -/

@[simp] theorem State.setTeam_block? (s : State) (t : Team) (k : Nat) : (s.setTeam t).block? k = s.block? k := rfl
@[simp] theorem State.setTeam_grid? (s : State) (t : Team) (k : Nat) : (s.setTeam t).grid? k = s.grid? k := rfl
@[simp] theorem State.setTeam_proc? (s : State) (t : Team) (k : Nat) : (s.setTeam t).proc? k = s.proc? k := rfl
@[simp] theorem State.setTeam_coreAt (s : State) (t : Team) (k : Nat) : (s.setTeam t).coreAt k = s.coreAt k := rfl
@[simp] theorem State.setTeam_dieAt (s : State) (t : Team) (k : Nat) : (s.setTeam t).dieAt k = s.dieAt k := rfl
@[simp] theorem State.setTeam_gridOf (s : State) (t u : Team) : (s.setTeam t).gridOf u = s.gridOf u := rfl
@[simp] theorem State.setTeam_blockOf (s : State) (t u : Team) : (s.setTeam t).blockOf u = s.blockOf u := rfl
@[simp] theorem State.setTeam_procOf (s : State) (t u : Team) : (s.setTeam t).procOf u = s.procOf u := rfl
@[simp] theorem State.setTeam_isShadow (s : State) (t u : Team) : (s.setTeam t).isShadow u = s.isShadow u := rfl
@[simp] theorem State.modTeam_block? (s : State) (n : Nat) (f : Team → Team) (k : Nat) : (s.modTeam n f).block? k = s.block? k := rfl
@[simp] theorem State.modTeam_grid? (s : State) (n : Nat) (f : Team → Team) (k : Nat) : (s.modTeam n f).grid? k = s.grid? k := rfl
@[simp] theorem State.modTeam_coreAt (s : State) (n : Nat) (f : Team → Team) (k : Nat) : (s.modTeam n f).coreAt k = s.coreAt k := rfl
@[simp] theorem State.modTeam_dieAt (s : State) (n : Nat) (f : Team → Team) (k : Nat) : (s.modTeam n f).dieAt k = s.dieAt k := rfl
@[simp] theorem State.modBlock_team? (s : State) (n : Nat) (f : Block → Block) (k : Nat) : (s.modBlock n f).team? k = s.team? k := rfl
@[simp] theorem State.modBlock_grid? (s : State) (n : Nat) (f : Block → Block) (k : Nat) : (s.modBlock n f).grid? k = s.grid? k := rfl
@[simp] theorem State.modGrid_team? (s : State) (n : Nat) (f : Grid → Grid) (k : Nat) : (s.modGrid n f).team? k = s.team? k := rfl
@[simp] theorem State.modGrid_block? (s : State) (n : Nat) (f : Grid → Grid) (k : Nat) : (s.modGrid n f).block? k = s.block? k := rfl
@[simp] theorem State.modCore_team? (s : State) (n : Nat) (f : CoreState → CoreState) (k : Nat) : (s.modCore n f).team? k = s.team? k := rfl
@[simp] theorem State.modCore_grid? (s : State) (n : Nat) (f : CoreState → CoreState) (k : Nat) : (s.modCore n f).grid? k = s.grid? k := rfl
@[simp] theorem State.modCore_block? (s : State) (n : Nat) (f : CoreState → CoreState) (k : Nat) : (s.modCore n f).block? k = s.block? k := rfl
@[simp] theorem State.modDie_team? (s : State) (n : Nat) (f : DieState → DieState) (k : Nat) : (s.modDie n f).team? k = s.team? k := rfl
@[simp] theorem State.modDie_grid? (s : State) (n : Nat) (f : DieState → DieState) (k : Nat) : (s.modDie n f).grid? k = s.grid? k := rfl

/-! ### Updates of one team compose -/

theorem State.setTeam_setTeam (s : State) {t u : Team} (h : u.uid = t.uid) : (s.setTeam t).setTeam u = s.setTeam u := by
  simp only [State.setTeam, List.map_map, h]
  congr 1
  apply List.map_congr_left
  intro a _
  by_cases ha : a.uid = t.uid <;> simp [ha]

theorem State.modTeam_setTeam (s : State) {t : Team} {f : Team → Team} (h : (f t).uid = t.uid) (hn : n = t.uid) :
    (s.setTeam t).modTeam n f = s.setTeam (f t) := by
  subst hn
  simp only [State.setTeam, State.modTeam, List.map_map, h]
  congr 1
  apply List.map_congr_left
  intro a _
  by_cases ha : a.uid = t.uid <;> simp [ha]

/-! ### Register files as vectors -/

@[simp] theorem vget_vput_self {α : Type} {k : Nat} (v : Vector α k) (i : Nat) (x d : α) (h : i < k) :
    vget (vput v i x) i d = x := by
  simp [vget, vput, h]

theorem vget_vput_ne {α : Type} {k : Nat} (v : Vector α k) {i j : Nat} (x d : α) (h : i ≠ j) :
    vget (vput v i x) j d = vget v j d := by
  simp [vget, vput, Vector.getElem?_setIfInBounds_ne h]

end Sys2Proof.Machine
end

