-- ==== Sys2Proof/Laws/Issue.lean ====
section
/-! SUPPORT. Issue, the checks at issue and completion, for a team that issues undisturbed. -/

namespace Sys2Proof.Machine

open Sys2Proof Safety

variable {s : State} {t u : Team} {i : Instr} {f : Ctx → Team → State → State}

/-- The context of an instruction that is no replay. -/
def Ctx.plain (i : Instr) (t : Team) : Ctx :=
  { i := i, word := (encode i).headD 0, lit := ((encode i).drop 1).headD 0, len := 4 * (encode i).length, pc := t.pc, uid := t.uid,
    mode := t.mode, rp := none }

theorem Ctx.of_plain (i : Instr) (h : t.replay = []) : Ctx.of i t = Ctx.plain i t := by
  simp [Ctx.of, Ctx.plain, h]

@[simp] theorem Ctx.plain_rp (i : Instr) (t : Team) : (Ctx.plain i t).rp = none := rfl
@[simp] theorem Ctx.plain_uid (i : Instr) (t : Team) : (Ctx.plain i t).uid = t.uid := rfl
@[simp] theorem Ctx.plain_mode (i : Instr) (t : Team) : (Ctx.plain i t).mode = t.mode := rfl
@[simp] theorem Ctx.plain_pc (i : Instr) (t : Team) : (Ctx.plain i t).pc = t.pc := rfl
@[simp] theorem Ctx.plain_next (i : Instr) (t : Team) : (Ctx.plain i t).next = nextPc t i := rfl
@[simp] theorem Ctx.plain_lanes (i : Instr) (t u : Team) : (Ctx.plain i t).lanes u = u.running := rfl

theorem Team.begin_plain (h : t.inflight = []) (i : Instr) : t.begin (Ctx.plain i t) = t := by
  simp [Team.begin, Team.deliver, h]

@[simp] theorem State.scrubRegs_sound (h : s.soft = []) (t : Team) (l : List RegRef) : s.scrubRegs t l = s := by
  simp [State.scrubRegs, h]

@[simp] theorem State.softOf_sound (h : s.soft = []) (t : Team) : s.softOf t = [] := by simp [State.softOf, h]

/-- An instruction that is not rolled back for a line that is absent leaves its effect. -/
theorem State.unlessMissing_present {s s0 : State} (h0 : t.run = .ready) (h : ∀ u, s.team? t.uid = some u → ∀ l, u.run ≠ .missing l) :
    s.unlessMissing s0 t = s := by
  unfold State.unlessMissing
  rw [h0]
  cases hu : s.team? t.uid with
  | none => rfl
  | some u =>
    have := h u hu
    cases hr : u.run <;> simp_all

/-- No dump holds the grid's stores. -/
@[simp] theorem State.unlessHeld_thawed {s s0 : State} (h : s0.gridFrozen t.gid = false) : s.unlessHeld s0 t = s := by
  simp [State.unlessHeld, h]

/-- An undisturbed team issues: the effect runs from the state in which the team stands as it was, unless it finds a line absent. -/
theorem issue_calm (h : Calm s t)
    (hm : ∀ u, (f (Ctx.plain i t) t (s.setTeam t)).team? t.uid = some u → ∀ l, u.run ≠ .missing l) :
    issue i s f = .next (f (Ctx.plain i t) t (s.setTeam t)) := by
  have hs : (s.setTeam t).soft = [] := h.sound
  have hc : { Ctx.of i t with soft := s.softOf t } = Ctx.plain i t := by
    rw [Ctx.of_plain i h.owes, State.softOf_sound h.sound]; rfl
  simp [issue, hc, h.turn, Team.begin_plain h.awaits, h.windows, h.awaits, State.scrubRegs_sound hs,
    State.unlessMissing_present h.ready hm, h.thawed]

/-- An undisturbed team's effect that ends in a known state. -/
theorem issue_calm_eq (h : Calm s t) {s' : State} (e : f (Ctx.plain i t) t (s.setTeam t) = s')
    (hm : ∀ u, s'.team? t.uid = some u → ∀ l, u.run ≠ .missing l) : issue i s f = .next s' := by
  subst e; exact issue_calm h hm

theorem State.modTeam_set (s : State) {t : Team} {f : Team → Team} (h : (f t).uid = t.uid) :
    (s.setTeam t).modTeam t.uid f = s.setTeam (f t) := State.modTeam_setTeam s h rfl

/-- The team that an undisturbed team's effect starts from. -/
theorem State.team?_calm (h : Calm s t) (hu : u.uid = t.uid) : (s.setTeam u).team? t.uid = some u := by
  have e : s.team? t.uid = some t := by rw [State.team?_uid h.turn]; exact h.turn
  rw [State.team?_setTeam]
  simp [hu, e]

/-- An undisturbed team's effect on itself alone. -/
theorem issue_calm_set (h : Calm s t) (e : f (Ctx.plain i t) t (s.setTeam t) = s.setTeam u) (hu : u.uid = t.uid)
    (hr : ∀ l, u.run ≠ .missing l) : issue i s f = .next (s.setTeam u) := by
  refine issue_calm_eq h e fun w hw => ?_
  rw [State.team?_calm h hu, Option.some.injEq] at hw
  exact hw ▸ hr

/-- Completion while a thread still runs, or a replay is still owed. -/
theorem State.finish_running {c : Ctx} (e : s.team? c.uid = some u) (hrun : u.running ≠ 0) (pc : Double) :
    s.finish c pc = s.setTeam { u.goOn c pc with insn := u.insn + 1 } := by
  have hm : ({ u.goOn c pc with insn := u.insn + 1 } : Team).running = u.running := by
    unfold Team.goOn
    repeat' split
    all_goals rfl
  simp only [State.finish, e]
  exact if_neg fun h => hrun (hm ▸ of_decide_eq_true (Bool.and_eq_true _ _ ▸ h).1)

/-- Completion of an instruction whose team still has running threads: the windows of R91 age. -/
theorem State.finish_plain (h : Calm s t) (hu : u.uid = t.uid) (hrun : u.running ≠ 0) (pc : Double) :
    (s.setTeam u).finish (Ctx.plain i t) pc = s.setTeam
      { u with pc := pc, insn := u.insn + 1, resumed := false, recent := ageRecent u.recent (1 + stallOf (Ctx.plain i t).word) } := by
  rw [State.finish_running (State.team?_calm h hu) hrun, State.setTeam_setTeam s (by rfl)]
  simp [Team.goOn]

/-- Completion of an instruction of one pass that acts on the team alone. -/
theorem State.finishTeam_plain (h : Calm s t) {g : Team → Team} (hu : (g t).uid = t.uid) (hr : (g t).recent = [])
    (hrun : (g t).running ≠ 0) (pc : Double) :
    (s.setTeam t).finishTeam (Ctx.plain i t) g pc = s.setTeam (finished (g t) pc 1) := by
  have e : (s.setTeam t).modTeam t.uid (fun t => (g t).passed 1) = s.setTeam ((g t).passed 1) :=
    State.modTeam_set s (by simpa [Team.passed] using hu)
  rw [State.finishTeam, Ctx.plain_uid, e, State.finish_plain h (u := (g t).passed 1) hu hrun]
  show s.setTeam _ = _
  simp [Team.passed, finished, hr, ageRecent]

/-- No cause applies at issue. -/
structure Unstopped (t : Team) (x : Srcs) (k : Check) : Prop where
  priv : k.priv = false
  legal : k.illegal = false
  exist : x.ok t = true
  typed : k.unsupported = none
  extra : k.extra = none

theorem Ctx.issueTrap_none (hu : modeChk t.mode = false) (hg : t.aside.isSome = true → modeGuard t.mode ≤ 3) {x : Srcs} {k : Check}
    (h : Unstopped t x k) (live : Mask) (guarded : Bool) : (Ctx.plain i t).issueTrap t live guarded x k = none := by
  have hb : (Ctx.plain i t).badGuard t guarded = false := by
    cases ha : t.aside.isSome with
    | false => simp [Ctx.badGuard, ha]
    | true => have := hg ha; simp [Ctx.badGuard, this]
  simp [Ctx.issueTrap, h.priv, h.legal, h.exist, hb, h.typed, h.extra, hu]

/-- Nothing that a calm team reads is absent. -/
theorem Ctx.missingLines_calm (h : Calm s t) (c : Ctx) (live : Mask) (guarded : Bool) (x : Srcs) (flags : Bool) (also : List RegRef) :
    c.missingLines t live guarded x flags also = [] := by
  obtain ⟨h1, h2, h3⟩ := h.present
  simp [Ctx.missingLines, h1, h2, h3]

/-- With no cause at issue the effect runs, given the live lanes. -/
theorem checked_plain (h : Calm s t) {x : Srcs} {k : Check} (hk : Unstopped t x k) (guarded : Bool)
    (f : Ctx → Team → Mask → State → State) (s' : State) :
    checked guarded x k f (Ctx.plain i t) t s' =
      f (Ctx.plain i t) t (if guarded then (Ctx.plain i t).live t s'.tick else t.running) s' := by
  simp only [checked, Ctx.plain_lanes, Ctx.missingLines_calm h, List.isEmpty_nil, Bool.not_true, Bool.false_eq_true, if_false]
  rw [Ctx.issueTrap_none h.unchecked h.guarded hk]
  simp only [h.ready]

end Sys2Proof.Machine
end

