-- ==== Sys2Proof/Laws/Mask.lean ====
section
/-! SUPPORT. Masks over physical positions: which positions each operation holds, and their lists. -/

namespace Sys2Proof.Machine

open Sys2Proof

variable {m k : Mask} {p q g : Nat}

theorem maskHas_lt (h : maskHas m p = true) : p < 1024 := BitVec.lt_of_getLsbD h

theorem maskHas_of_ge (m : Mask) (h : ¬ p < 1024) : maskHas m p = false := BitVec.getLsbD_of_ge m p (Nat.le_of_not_lt h)

@[simp] theorem maskHas_zero (p : Nat) : maskHas 0#1024 p = false := by simp [maskHas]

@[simp] theorem maskHas_or (m k : Mask) (p : Nat) : maskHas (m ||| k) p = (maskHas m p || maskHas k p) := by simp [maskHas]

@[simp] theorem maskHas_and (m k : Mask) (p : Nat) : maskHas (m &&& k) p = (maskHas m p && maskHas k p) := by simp [maskHas]

theorem maskHas_one (p q : Nat) (h : q < 1024) : maskHas (maskOne p) q = decide (p = q) := by
  unfold maskHas maskOne
  rw [BitVec.getLsbD_shiftLeft, BitVec.getLsbD_one]
  by_cases e : p = q
  · subst e; simp [h]
  · by_cases hlt : q < p
    · simp [e, hlt]
    · have : q - p ≠ 0 := by omega
      simp [e, h, this]

theorem maskHas_minus (m k : Mask) (p : Nat) : maskHas (maskMinus m k) p = (maskHas m p && !maskHas k p) := by
  by_cases h : p < 1024
  · simp [maskHas, maskMinus, h]
  · simp [maskHas_of_ge _ h]

/-- Two masks with the same positions are equal. -/
theorem mask_ext (h : ∀ p, p < 1024 → maskHas m p = maskHas k p) : m = k :=
  BitVec.eq_of_getLsbD_eq fun i hi => h i hi

theorem maskHas_foldl_or (l : List Nat) (m : Mask) (h : p < 1024) :
    maskHas (l.foldl (fun m q => m ||| maskOne q) m) p = (maskHas m p || l.contains p) := by
  induction l generalizing m with
  | nil => simp
  | cons a l ih =>
    rw [List.foldl_cons, ih, maskHas_or, maskHas_one _ _ h, List.contains_cons]
    by_cases e : a = p
    · simp [e]
    · have : (p == a) = false := by simpa using Ne.symm e
      simp [e, this]

theorem maskHas_maskOf (l : List Nat) (h : p < 1024) : maskHas (maskOf l) p = l.contains p := by
  rw [maskOf, maskHas_foldl_or l 0 h]; simp

theorem mem_rowLanes : p ∈ rowLanes m g ↔ p / 32 = g ∧ maskHas m p = true := by
  simp only [rowLanes, List.mem_filter, List.mem_map, List.mem_range]
  constructor
  · rintro ⟨⟨j, hj, rfl⟩, h⟩
    exact ⟨by omega, h⟩
  · rintro ⟨rfl, h⟩
    exact ⟨⟨p % 32, Nat.mod_lt _ (by omega), by omega⟩, h⟩

/-- A row is listed when it holds a position. -/
theorem mem_maskRows : g ∈ maskRows m ↔ ∃ p, p / 32 = g ∧ maskHas m p = true := by
  simp only [maskRows, List.mem_filter, List.mem_range, maskRow, bne_iff_ne, ne_eq]
  constructor
  · rintro ⟨hg, h⟩
    apply Classical.byContradiction
    intro hn
    apply h
    apply BitVec.eq_of_getLsbD_eq
    intro i hi
    rw [BitVec.getLsbD_extractLsb']
    have : maskHas m (32 * g + i) ≠ true := fun hm => hn ⟨32 * g + i, by omega, hm⟩
    simp [maskHas] at this
    simp [hi, this]
  · rintro ⟨p, rfl, h⟩
    have hp := maskHas_lt h
    refine ⟨by omega, fun hz => ?_⟩
    have : (BitVec.extractLsb' (32 * (p / 32)) 32 m).getLsbD (p % 32) = true := by
      rw [BitVec.getLsbD_extractLsb']
      have e : 32 * (p / 32) + p % 32 = p := by omega
      rw [e]
      simp [Nat.mod_lt]
      exact h
    rw [hz] at this
    simp at this

theorem mem_maskLanes : p ∈ maskLanes m ↔ maskHas m p = true := by
  simp only [maskLanes, List.mem_flatMap, mem_maskRows, mem_rowLanes]
  constructor
  · rintro ⟨g, -, -, h⟩; exact h
  · intro h; exact ⟨p / 32, ⟨p, rfl, h⟩, rfl, h⟩

theorem nodup_maskRows (m : Mask) : (maskRows m).Nodup := List.Nodup.filter _ List.nodup_range

theorem maskHas_onlyRow (m : Mask) (g p : Nat) : maskHas (onlyRow m g) p = (maskHas m p && decide (p / 32 = g)) := by
  by_cases h : p < 1024
  · have e : ∀ n, (0xFFFFFFFF#1024).getLsbD n = decide (n < 32) := by
      intro n
      have : (0xFFFFFFFF#1024) = BitVec.setWidth 1024 (BitVec.allOnes 32) := by decide +kernel
      rw [this, BitVec.getLsbD_setWidth, BitVec.getLsbD_allOnes]
      by_cases hn : n < 32
      · have : n < 1024 := by omega
        simp [hn, this]
      · simp [hn]
    unfold maskHas onlyRow
    rw [BitVec.getLsbD_and, BitVec.getLsbD_shiftLeft, e]
    congr 1
    by_cases hg : p / 32 = g
    · have h1 : ¬ p < 32 * g := by omega
      have h2 : p - 32 * g < 32 := by omega
      simp [h, hg, h1, h2]
    · by_cases h1 : p < 32 * g
      · simp [hg, h1]
      · have h2 : ¬ p - 32 * g < 32 := by omega
        simp [hg, h2]
  · simp [maskHas_of_ge _ h]

theorem mem_rowLanes_onlyRow : p ∈ rowLanes (onlyRow m g) g ↔ p / 32 = g ∧ maskHas m p = true := by
  rw [mem_rowLanes, maskHas_onlyRow]; simp; tauto

theorem rowLanes_onlyRow (m : Mask) (g : Nat) : rowLanes (onlyRow m g) g = rowLanes m g := by
  simp only [rowLanes]
  apply List.filter_congr
  intro p hp
  simp only [List.mem_map, List.mem_range] at hp
  obtain ⟨j, hj, rfl⟩ := hp
  have : (32 * g + j) / 32 = g := by omega
  simp [maskHas_onlyRow, this]

/-- The row of a mask in which no pass issues is empty. -/
theorem maskHas_of_row_not_listed (h : g ∉ maskRows m) (hp : p / 32 = g) : maskHas m p = false := by
  cases e : maskHas m p with
  | false => rfl
  | true => exact absurd (mem_maskRows.mpr ⟨p, hp, e⟩) h

theorem maskLanes_zero : maskLanes 0 = [] := by
  have : ∀ p, p ∉ maskLanes 0 := fun p h => by simpa [show maskHas 0 p = false from maskHas_zero p] using mem_maskLanes.mp h
  exact List.eq_nil_iff_forall_not_mem.mpr this

end Sys2Proof.Machine
end

