-- ==== Sys2Proof/Laws/Seats.lean ====
section
/-! SUPPORT. Threads and their positions: which thread stands where, running and retired threads, helper lanes. -/

namespace Sys2Proof.Machine

open Sys2Proof Safety

variable {t u : Team} {th : Thread} {p q h : Nat}

/-- Home lanes are a matter of positions alone. -/
theorem Team.home_congr (e : t.threads.map Thread.pos = u.threads.map Thread.pos) (p : Nat) : t.home p = u.home p := by
  have hidx : t.homeAt p = u.homeAt p := by
    have : ∀ l : List Thread, l.findIdx? (fun th => th.pos == p) = (l.map Thread.pos).findIdx? (fun q => q == p) := by
      intro l; rw [List.findIdx?_map]; rfl
    simp [Team.homeAt, this, e]
  have hget : (t.threads[p]?).map Thread.pos = (u.threads[p]?).map Thread.pos := by
    rw [← List.getElem?_map, ← List.getElem?_map, e]
  unfold Team.home
  cases ht : t.threads[p]? with
  | none =>
    rw [ht] at hget
    cases hu : u.threads[p]? with
    | none => exact hidx
    | some b => rw [hu] at hget; simp at hget
  | some a =>
    rw [ht] at hget
    cases hu : u.threads[p]? with
    | none => rw [hu] at hget; simp at hget
    | some b =>
      rw [hu] at hget
      simp only [Option.map_some, Option.some.injEq] at hget
      simp [hget, hidx]

end Sys2Proof.Machine

namespace Sys2Proof.Safety

open Sys2Proof Machine

variable {t : Team} {th : Thread} {p h : Nat}

theorem Seated.nodup (hs : Seated t) : (t.threads.map Thread.pos).Nodup := hs.seats.nodup_iff.mpr List.nodup_range

theorem Seated.pos_lt (hs : Seated t) (hm : th ∈ t.threads) : th.pos < 32 * t.ngrp := by
  have := hs.seats.mem_iff.mp (List.mem_map_of_mem hm)
  simpa using this

theorem Seated.pos_lt_1024 (hs : Seated t) (hm : th ∈ t.threads) : th.pos < 1024 := by
  have := hs.pos_lt hm; have := hs.groups; omega

/-- Every position of the team's groups has its thread. -/
theorem Seated.occupied (hs : Seated t) (hp : p < 32 * t.ngrp) : ∃ (h : Nat) (th : Thread), t.threads[h]? = some th ∧ th.pos = p := by
  have : p ∈ t.threads.map Thread.pos := hs.seats.mem_iff.mpr (List.mem_range.mpr hp)
  obtain ⟨th, hm, rfl⟩ := List.mem_map.mp this
  obtain ⟨h, hh⟩ := List.getElem?_of_mem hm
  exact ⟨h, th, hh, rfl⟩

/-- The thread found at a position is the one that stands there. -/
theorem Seated.home_eq (hs : Seated t) (hh : t.threads[h]? = some th) : t.home th.pos = h := by
  have hn := hs.nodup
  have hlt : h < t.threads.length := (List.getElem?_eq_some_iff.mp hh).1
  have hth : t.threads[h] = th := (List.getElem?_eq_some_iff.mp hh).2
  have inj : ∀ k (hk : k < t.threads.length), t.threads[k].pos = th.pos → k = h := by
    intro k hk e
    have := (List.nodup_iff_injective_getElem.mp hn)
    have e' : (t.threads.map Thread.pos)[k]'(by simpa using hk) = (t.threads.map Thread.pos)[h]'(by simpa using hlt) := by
      simp [e, hth]
    exact congrArg Fin.val (@this ⟨k, by simpa using hk⟩ ⟨h, by simpa using hlt⟩ e')
  have hidx : t.homeAt th.pos = h := by
    unfold Team.homeAt
    cases e : t.threads.findIdx? fun x => x.pos == th.pos with
    | none =>
      have := List.findIdx?_eq_none_iff.mp e th (List.mem_of_getElem? hh)
      simp at this
    | some k =>
      obtain ⟨hk, hp, -⟩ := List.findIdx?_eq_some_iff_getElem.mp e
      simpa using inj k hk (by simpa using hp)
  unfold Team.home
  cases e : t.threads[th.pos]? with
  | none => exact hidx
  | some x =>
    simp only
    by_cases hx : x.pos = th.pos
    · rw [if_pos hx]
      obtain ⟨hk, hg⟩ := List.getElem?_eq_some_iff.mp e
      exact inj _ hk (by rw [hg]; exact hx)
    · rw [if_neg hx]; exact hidx

theorem Seated.thread_home (hs : Seated t) (hm : th ∈ t.threads) : t.thread (t.home th.pos) = th := by
  obtain ⟨h, hh⟩ := List.getElem?_of_mem hm
  rw [hs.home_eq hh, Team.thread, hh]; rfl

end Sys2Proof.Safety

namespace Sys2Proof.Machine

open Sys2Proof Safety

variable {t u : Team} {p : Nat}

theorem maskHas_foldl_threads (l : List Thread) (f : Thread → Bool) (m : Mask) (hp : p < 1024) :
    maskHas (l.foldl (fun m th => if f th then m ||| maskOne th.pos else m) m) p =
      (maskHas m p || l.any fun th => f th && th.pos == p) := by
  induction l generalizing m with
  | nil => simp
  | cons a l ih =>
    rw [List.foldl_cons, ih, List.any_cons]
    cases hf : f a with
    | false => simp
    | true =>
      rw [if_pos rfl, maskHas_or, maskHas_one _ _ hp]
      by_cases e : a.pos = p
      · simp [e]
      · have : (a.pos == p) = false := by simpa using e
        simp [e, this]

theorem Team.maskHas_where (t : Team) (f : Thread → Bool) (hp : p < 1024) :
    maskHas (t.maskWhere f) p = t.threads.any fun th => f th && th.pos == p := by
  rw [Team.maskWhere, maskHas_foldl_threads _ _ _ hp]; simp

theorem Team.maskHas_retired (t : Team) (hp : p < 1024) :
    maskHas t.retiredMask p = t.threads.any fun th => th.retired && th.pos == p := by
  rw [Team.retiredMask, maskHas_foldl_threads _ _ _ hp]; simp

/-- Threads that differ in neither position nor life leave the retired mask alone. -/
theorem Team.retiredMask_congr (g : Thread → Thread) (hp : ∀ th, (g th).pos = th.pos) (hl : ∀ th, (g th).life = th.life)
    (e : u.threads = t.threads.map g) : u.retiredMask = t.retiredMask := by
  unfold Team.retiredMask
  rw [e, List.foldl_map]
  simp [Thread.retired, hp, hl]

theorem Team.running_congr (g : Thread → Thread) (hp : ∀ th, (g th).pos = th.pos) (hl : ∀ th, (g th).life = th.life)
    (e : u.threads = t.threads.map g) (hm : u.mask = t.mask) : u.running = t.running := by
  unfold Team.running
  rw [Team.retiredMask_congr g hp hl e, hm]

theorem Team.helpers_congr (g : Thread → Thread) (hp : ∀ th, (g th).pos = th.pos) (hl : ∀ th, (g th).life = th.life)
    (e : u.threads = t.threads.map g) (hm : u.mask = t.mask) : u.helpers = t.helpers := by
  unfold Team.helpers Team.maskWhere
  rw [Team.running_congr g hp hl e hm, e, List.foldl_map]
  simp [hp, hl]

theorem quadStarts_has (i : Nat) (h : i < 1024) : quadStarts.getLsbD i = decide (i % 4 = 0) := by
  have : ∀ i : Fin 1024, quadStarts.getLsbD i = decide (i.val % 4 = 0) := by decide +kernel
  exact this ⟨i, h⟩

/-- A position of a quad that holds a position of the mask. -/
theorem maskHas_quadsOf {m : Mask} (h : maskHas (quadsOf m) p = true) : ∃ q, q / 4 = p / 4 ∧ maskHas m q = true := by
  have key : ∀ i, ((m ||| (m >>> 1) ||| (m >>> 2) ||| (m >>> 3)) &&& quadStarts).getLsbD i = true →
      i % 4 = 0 ∧ ∃ q, q / 4 = i / 4 ∧ m.getLsbD q = true := by
    intro i hi
    have hlt : i < 1024 := BitVec.lt_of_getLsbD hi
    rw [BitVec.getLsbD_and, quadStarts_has i hlt] at hi
    simp only [BitVec.getLsbD_or, BitVec.getLsbD_ushiftRight, Bool.and_eq_true, Bool.or_eq_true, decide_eq_true_eq] at hi
    obtain ⟨hm, h4⟩ := hi
    refine ⟨h4, ?_⟩
    rcases hm with ((h | h) | h) | h
    · exact ⟨i, rfl, h⟩
    · exact ⟨1 + i, by omega, h⟩
    · exact ⟨2 + i, by omega, h⟩
    · exact ⟨3 + i, by omega, h⟩
  unfold maskHas quadsOf at h
  simp only [BitVec.getLsbD_or, BitVec.getLsbD_shiftLeft, Bool.or_eq_true, Bool.and_eq_true, Bool.not_eq_true', decide_eq_true_eq,
    decide_eq_false_iff_not] at h
  unfold maskHas
  rcases h with ((h | ⟨⟨h0, h1⟩, h⟩) | ⟨⟨h0, h1⟩, h⟩) | ⟨⟨h0, h1⟩, h⟩
  · obtain ⟨-, q, hq, e⟩ := key _ h; exact ⟨q, hq, e⟩
  · obtain ⟨h4, q, hq, e⟩ := key _ h; exact ⟨q, by omega, e⟩
  · obtain ⟨h4, q, hq, e⟩ := key _ h; exact ⟨q, by omega, e⟩
  · obtain ⟨h4, q, hq, e⟩ := key _ h; exact ⟨q, by omega, e⟩

/-- A helper lane stands in a row in which a pass issues. -/
theorem Team.helper_row (h : maskHas t.helpers p = true) : p / 32 ∈ maskRows t.running := by
  have : maskHas (quadsOf t.running) p = true := by
    unfold Team.helpers at h
    rw [maskHas_and] at h
    simp only [Bool.and_eq_true] at h
    exact h.2
  obtain ⟨q, hq, hm⟩ := maskHas_quadsOf this
  exact mem_maskRows.mpr ⟨q, by omega, hm⟩

end Sys2Proof.Machine
end

