-- ==== Sys2Proof/Laws/Alu.lean ====
section
/-! SUPPORT. What an instruction of classes 1 to 4 does, said once: each lane's thread after all passes is a function of the
threads of its row before them, and nothing else of the state changes. -/

namespace Sys2Proof.Machine

open Sys2Proof Safety

variable {s : State} {t u : Team} {i : Instr} {al : Alu} {c : Ctx}

/-! ### The result of one lane -/

/-- What the pass of row g is given by a team. -/
def pinAt (al : Alu) (c : Ctx) (t : Team) (tick : Nat) (live helpers : Mask) (g : Nat) : PassIn :=
  { c := c, t := t, row := g, live := onlyRow live g, exec := onlyRow live g ||| onlyRow helpers g,
    rd := fun k p => c.read t tick al.x k p }

/-- The result of the lane at position p. -/
def passOut (al : Alu) (c : Ctx) (t : Team) (tick : Nat) (live helpers : Mask) (p : Nat) : LaneOut :=
  al.f (pinAt al c t tick live helpers (p / 32)) p

/-- Whether the lane at position p keeps its destination. -/
def passKeeps (al : Alu) (c : Ctx) (t : Team) (tick : Nat) (live helpers : Mask) (p : Nat) : Bool :=
  al.keeps (pinAt al c t tick live helpers (p / 32)) p

/-- A lane's result depends on the operands and threads of its own row, and on which lanes run and help, alone. -/
def Alu.Local (al : Alu) : Prop :=
  ∀ pin pin' : PassIn, pin.c = pin'.c → pin.row = pin'.row → pin.live = pin'.live → pin.exec = pin'.exec →
    pin.t.running = pin'.t.running → pin.t.helpers = pin'.t.helpers →
    (∀ k q, q / 32 = pin.row → pin.rd k q = pin'.rd k q) → (∀ q, q / 32 = pin.row → pin.th q = pin'.th q) →
    ∀ p, p / 32 = pin.row → al.f pin p = al.f pin' p ∧ al.keeps pin p = al.keeps pin' p

/-- A thread after the write-back of its pass. -/
def aluThread (al : Alu) (c : Ctx) (t : Team) (tick : Nat) (live helpers : Mask) (th : Thread) : Thread :=
  let o := passOut al c t tick live helpers th.pos
  let th1 := th.freeAll (freesOf al.m al.x)
  if maskHas live th.pos then
    let th2 := if al.writes th.pos && !passKeeps al c t tick live helpers th.pos then th1.writeDst al.dst o.val else th1
    { th2 with flags := (th2.flags &&& ~~~o.clear) ||| o.flags, cv := o.cv.getD th2.cv }
  else if maskHas helpers th.pos then
    if al.writes th.pos && !passKeeps al c t tick live helpers th.pos then
      th1.writeDst al.dst (if o.flags &&& modeTraps c.mode = 0 then o.val else al.pois th.pos)
    else th1
  else th

@[simp] theorem Thread.free_pos (th : Thread) (i : Nat) : (th.free i).pos = th.pos := rfl
@[simp] theorem Thread.free_life (th : Thread) (i : Nat) : (th.free i).life = th.life := rfl

@[simp] theorem Thread.freeAll_pos (th : Thread) (l : List Nat) : (th.freeAll l).pos = th.pos := by
  unfold Thread.freeAll
  induction l generalizing th with
  | nil => rfl
  | cons a l ih => rw [List.foldl_cons, ih]; rfl

@[simp] theorem Thread.freeAll_life (th : Thread) (l : List Nat) : (th.freeAll l).life = th.life := by
  unfold Thread.freeAll
  induction l generalizing th with
  | nil => rfl
  | cons a l ih => rw [List.foldl_cons, ih]; rfl

@[simp] theorem Thread.freeAll_flags (th : Thread) (l : List Nat) : (th.freeAll l).flags = th.flags := by
  unfold Thread.freeAll
  induction l generalizing th with
  | nil => rfl
  | cons a l ih => rw [List.foldl_cons, ih]; rfl

@[simp] theorem Thread.freeAll_cv (th : Thread) (l : List Nat) : (th.freeAll l).cv = th.cv := by
  unfold Thread.freeAll
  induction l generalizing th with
  | nil => rfl
  | cons a l ih => rw [List.foldl_cons, ih]; rfl

theorem Thread.writeDst_keeps (th : Thread) (d : Dst) (x : Double) :
    (th.writeDst d x).pos = th.pos ∧ (th.writeDst d x).life = th.life ∧ (th.writeDst d x).flags = th.flags ∧
      (th.writeDst d x).cv = th.cv := by
  cases d with
  | none => exact ⟨rfl, rfl, rfl, rfl⟩
  | v r w => cases w <;> exact ⟨rfl, rfl, rfl, rfl⟩
  | p r =>
    by_cases h : r = 0
    · simp [Thread.writeDst, Thread.writeP, h]
    · cases hb : x.getLsbD 0 <;> simp [Thread.writeDst, Thread.writeP, h]

@[simp] theorem Thread.writeDst_pos (th : Thread) (d : Dst) (x : Double) : (th.writeDst d x).pos = th.pos := (th.writeDst_keeps d x).1
@[simp] theorem Thread.writeDst_life (th : Thread) (d : Dst) (x : Double) : (th.writeDst d x).life = th.life := (th.writeDst_keeps d x).2.1
@[simp] theorem Thread.writeDst_flags (th : Thread) (d : Dst) (x : Double) : (th.writeDst d x).flags = th.flags :=
  (th.writeDst_keeps d x).2.2.1
@[simp] theorem Thread.writeDst_cv (th : Thread) (d : Dst) (x : Double) : (th.writeDst d x).cv = th.cv := (th.writeDst_keeps d x).2.2.2

theorem aluThread_pos (al : Alu) (c : Ctx) (t : Team) (tick : Nat) (live helpers : Mask) (th : Thread) :
    (aluThread al c t tick live helpers th).pos = th.pos := by
  unfold aluThread
  repeat' split
  all_goals simp

theorem aluThread_life (al : Alu) (c : Ctx) (t : Team) (tick : Nat) (live helpers : Mask) (th : Thread) :
    (aluThread al c t tick live helpers th).life = th.life := by
  unfold aluThread
  repeat' split
  all_goals simp

/-! ### One pass -/

theorem passGet_table (f : Nat → LaneOut) {l : List Nat} {p : Nat} (h : p ∈ l) : passGet (passTable l f) p = f p := by
  induction l with
  | nil => simp at h
  | cons a l ih =>
    unfold passTable at ih ⊢
    rw [List.map_cons, passGet]
    by_cases e : a = p
    · simp [e]
    · rw [if_neg e]
      exact ih (by simpa [Ne.symm e] using h)

theorem trapLanes_none {live : Mask} {row : Nat} {out : Nat → LaneOut} {traps : Byte}
    (h : ∀ p ∈ rowLanes live row, (out p).flags &&& traps = 0) : trapLanes live row out traps = (0, 0) := by
  unfold trapLanes
  have : ∀ l : List Nat, (∀ p ∈ l, (out p).flags &&& traps = 0) →
      l.foldl (fun (x : Mask × Byte) p => let f := (out p).flags &&& traps; if f = 0 then (x.1, x.2) else (x.1 ||| maskOne p, x.2 ||| f)) (0, 0) = (0, 0) := by
    intro l hl
    induction l with
    | nil => rfl
    | cons a l ih =>
      rw [List.foldl_cons]
      simp only [hl a (by simp), if_true]
      exact ih fun p hp => hl p (by simp [hp])
  exact this _ h

/-- The fields of a team that passes do not touch. -/
def Team.samePass (t u : Team) : Prop :=
  u = { t with threads := u.threads, passes := u.passes, dirty := u.dirty, fDirty := u.fDirty, auxDirty := u.auxDirty,
               absent := u.absent, fAbsent := u.fAbsent, auxAbsent := u.auxAbsent }

theorem Team.samePass_refl (t : Team) : t.samePass t := rfl

theorem Team.samePass_trans {t u w : Team} (h : t.samePass u) (h' : u.samePass w) : t.samePass w := by
  unfold Team.samePass at *; rw [h', h]

theorem Team.markFreed_samePass (t : Team) (l : List Nat) : t.samePass (t.markFreed l) ∧ (t.markFreed l).threads = t.threads ∧
    (t.markFreed l).passes = t.passes := by
  unfold Team.markFreed; split <;> exact ⟨rfl, rfl, rfl⟩

theorem Team.markV_samePass (t : Team) (i g : Nat) : t.samePass (t.markV i g) ∧ (t.markV i g).threads = t.threads ∧
    (t.markV i g).passes = t.passes := by
  unfold Team.markV; split <;> exact ⟨rfl, rfl, rfl⟩

theorem Team.markP_samePass (t : Team) (i : Nat) : t.samePass (t.markP i) ∧ (t.markP i).threads = t.threads ∧
    (t.markP i).passes = t.passes := by
  unfold Team.markP Team.markAux; split <;> exact ⟨rfl, rfl, rfl⟩

theorem Team.markF_samePass (t : Team) (g : Nat) : t.samePass (t.markF g) ∧ (t.markF g).threads = t.threads ∧
    (t.markF g).passes = t.passes := by
  unfold Team.markF Team.markAux; split <;> exact ⟨rfl, rfl, rfl⟩

theorem Team.markDst_samePass (t : Team) (d : Dst) (g : Nat) : t.samePass (t.markDst d g) ∧ (t.markDst d g).threads = t.threads ∧
    (t.markDst d g).passes = t.passes := by
  cases d with
  | none => exact ⟨rfl, rfl, rfl⟩
  | p r => exact t.markP_samePass r
  | v r w =>
    have h1 := t.markV_samePass r g
    cases w with
    | false => exact h1
    | true =>
      have h2 := (t.markV r g).markV_samePass (r + 1) g
      exact ⟨Team.samePass_trans h1.1 h2.1, h2.2.1.trans h1.2.1, h2.2.2.trans h1.2.2⟩

/-- Write-back of one pass changes threads and the bookkeeping of lines alone. -/
theorem Team.writePass_spec (t : Team) (al : Alu) (g : Nat) (live exec : Mask) (out : Nat → LaneOut) (keeps : Nat → Bool) (traps : Byte) :
    t.samePass (t.writePass al g live exec out keeps traps) ∧ (t.writePass al g live exec out keeps traps).passes = t.passes ∧
    (t.writePass al g live exec out keeps traps).threads = t.threads.map fun th =>
      let th1 := th.freeAll (freesOf al.m al.x)
      if maskHas exec th.pos then
        if maskHas live th.pos then
          let th2 := if al.writes th.pos && !keeps th.pos then th1.writeDst al.dst (out th.pos).val else th1
          { th2 with flags := (th2.flags &&& ~~~(out th.pos).clear) ||| (out th.pos).flags, cv := (out th.pos).cv.getD th2.cv }
        else if al.writes th.pos && !keeps th.pos then
          th1.writeDst al.dst (if (out th.pos).flags &&& traps = 0 then (out th.pos).val else al.pois th.pos)
        else th1
      else th := by
  have base : ∀ w : Team, t.samePass w → ∀ l g', t.samePass ((w.markFreed l).markDst al.dst g') ∧
      ((w.markFreed l).markDst al.dst g').threads = w.threads ∧ ((w.markFreed l).markDst al.dst g').passes = w.passes := by
    intro w hw l g'
    have h1 := w.markFreed_samePass l
    have h2 := (w.markFreed l).markDst_samePass al.dst g'
    exact ⟨Team.samePass_trans hw (Team.samePass_trans h1.1 h2.1), h2.2.1.trans h1.2.1, h2.2.2.trans h1.2.2⟩
  unfold Team.writePass
  extract_lets frees ths anyFlag t1 t2
  have hw : t.samePass t1 := rfl
  have hb := base t1 hw frees g
  by_cases he : exec = 0
  · rw [if_pos he]; exact ⟨hw, rfl, rfl⟩
  · rw [if_neg he]
    cases anyFlag with
    | false => exact ⟨hb.1, hb.2.2, hb.2.1⟩
    | true =>
      have h3 := t2.markF_samePass g
      exact ⟨Team.samePass_trans hb.1 h3.1, h3.2.2.trans hb.2.2, h3.2.1.trans hb.2.1⟩

/-! ### All passes -/

/-- The threads of a team after the passes of the rows `done`. -/
def afterRows (al : Alu) (c : Ctx) (t : Team) (tick : Nat) (live helpers : Mask) (done : List Nat) : List Thread :=
  t.threads.map fun th => if th.pos / 32 ∈ done then aluThread al c t tick live helpers th else th

theorem readHaz_calm (h : t.recent = []) (tick : Nat) (r : RegRef) : t.readHaz tick r = t.readRef r := by
  simp [Team.readHaz, h]

/-- A row that has not passed yet reads and holds what it did before. -/
theorem unpassed_row (hs : Seated t) (hrec : t.recent = []) (hrp : c.rp = none) {done : List Nat} {tick : Nat} {live helpers : Mask}
    (hsame : t.samePass u) (hth : u.threads = afterRows al c t tick live helpers done) {q : Nat} (hq : q / 32 < t.ngrp)
    (hd : q / 32 ∉ done) :
    u.thread (u.home q) = t.thread (t.home q) ∧ ∀ k, c.read u tick al.x k q = c.read t tick al.x k q := by
  have hpos : u.threads.map Thread.pos = t.threads.map Thread.pos := by
    rw [hth, afterRows, List.map_map]
    apply List.map_congr_left
    intro th _
    simp only [Function.comp_apply]
    split <;> simp [aluThread_pos]
  have hhome : u.home q = t.home q := Team.home_congr hpos q
  obtain ⟨h, th, hh, hp⟩ := hs.occupied (p := q) (by omega)
  have hth' : u.threads[h]? = some th := by
    rw [hth, afterRows, List.getElem?_map, hh]
    simp [hp, hd]
  have e1 : t.home q = h := by rw [← hp]; exact hs.home_eq hh
  have ethread : u.thread (u.home q) = t.thread (t.home q) := by
    rw [hhome, e1, Team.thread, Team.thread, hth', hh]
  refine ⟨ethread, fun k => ?_⟩
  have hur : u.recent = [] := by rw [hsame]; exact hrec
  have hus : u.s = t.s := by rw [hsame]
  have hreadS : ∀ r, u.readRef (refS r) = t.readRef (refS r) := by intro r; simp [Team.readRef, refS, Team.readS, hus]
  have hreadV : ∀ r, u.readRef (refV (u.home q) r) = t.readRef (refV (t.home q) r) := by
    intro r; simp only [Team.readRef, refV]; rw [ethread]
  have hreadP : ∀ r, u.readRef (refP (u.home q) r) = t.readRef (refP (t.home q) r) := by
    intro r; simp only [Team.readRef, refP]; rw [ethread]
  unfold Ctx.read
  rw [hrp]
  cases hx : al.x.get k <;>
    simp only [Team.readSrc, readHaz_calm hur, readHaz_calm hrec, hreadS, hreadV, hreadP]

/-- The results of row g's lanes. -/
def rowOut (al : Alu) (c : Ctx) (t : Team) (tick : Nat) (live helpers : Mask) (g : Nat) : Nat → LaneOut :=
  passGet (passTable (rowLanes (onlyRow live g ||| onlyRow helpers g) g) (al.f (pinAt al c t tick live helpers g)))

theorem maskMinus_zero (m : Mask) : maskMinus m 0 = m := by
  refine mask_ext fun p hp => ?_
  unfold maskMinus
  rw [maskHas_and, maskHas, maskHas, BitVec.getLsbD_not, show BitVec.getLsbD (0 : Mask) p = false from maskHas_zero p]
  simp [hp]

/-- An instruction that is no replay reads nothing uncorrectable where no register word of its team is. -/
theorem Ctx.badLanes_sound (h : c.soft = []) (hr : c.rp = none) (t : Team) (live : Mask) (x : Srcs) (exch : Option (List (Nat × Nat))) :
    c.badLanes t live x exch = 0 := by
  simp [Ctx.badLanes, h, hr]

theorem runPasses_cons {tick : Nat} {live helpers : Mask} {g : Nat} {rows : List Nat} {k : Consume} (hrp : c.rp = none)
    (hcs : c.soft = []) (hk : k.logs = 0)
    (h : trapLanes (onlyRow live g) g (rowOut al c u tick live helpers g) (modeTraps c.mode) = (0, 0)) :
    Team.runPasses al c tick k live helpers (g :: rows) u = Team.runPasses al c tick k live helpers rows
      ((u.passed 1).writePass al g (onlyRow live g) (onlyRow live g ||| onlyRow helpers g) (rowOut al c u tick live helpers g)
        (al.keeps (pinAt al c u tick live helpers g)) (modeTraps c.mode)) := by
  unfold rowOut pinAt at *
  have hb : c.badLanes u (onlyRow live g) al.x al.check.exch ||| (k.logs &&& onlyRow live g) = 0 := by
    rw [Ctx.badLanes_sound hcs hrp, hk]; simp
  simp only [Team.runPasses, hb, Team.killPass, bne_self_eq_false, Bool.and_false, Bool.false_eq_true, if_false, if_true, maskMinus_zero, h]

/-- What the passes of an instruction do to a team, when no lane traps: the threads of the rows that pass, and bookkeeping. -/
theorem runPasses_spec (hs : Seated t) (hrec : t.recent = []) (hrp : c.rp = none) (hcs : c.soft = []) (hl : al.Local) {tick : Nat}
    {live helpers : Mask} {k : Consume} (hk : k.logs = 0) (rows : List Nat) :
    ∀ (done : List Nat) (u : Team), rows.Nodup → (∀ g ∈ rows, g ∉ done ∧ g < t.ngrp) →
      (∀ p, maskHas live p = true → p / 32 ∈ rows → (passOut al c t tick live helpers p).flags &&& modeTraps c.mode = 0) →
      t.samePass u → u.threads = afterRows al c t tick live helpers done →
      ∃ w, Team.runPasses al c tick k live helpers rows u = (w, none) ∧ t.samePass w ∧
        w.passes = u.passes + BitVec.ofNat 64 rows.length ∧ w.threads = afterRows al c t tick live helpers (done ++ rows) := by
  induction rows with
  | nil =>
    intro done u _ _ _ hsame hth
    exact ⟨u, rfl, hsame, by simp, by simpa using hth⟩
  | cons g rows ih =>
    intro done u hnd hg htrap hsame hth
    have hgd := hg g (by simp)
    -- the lanes of the row compute from the team as it was
    have hpin : ∀ p, p / 32 = g → al.f (pinAt al c u tick live helpers g) p = passOut al c t tick live helpers p ∧
        al.keeps (pinAt al c u tick live helpers g) p = passKeeps al c t tick live helpers p := by
      intro p hp
      unfold passOut passKeeps
      rw [hp]
      have hm : u.mask = t.mask := by rw [hsame]
      have hpos : ∀ th : Thread, (if th.pos / 32 ∈ done then aluThread al c t tick live helpers th else th).pos = th.pos := by
        intro th; split <;> simp [aluThread_pos]
      have hlife : ∀ th : Thread, (if th.pos / 32 ∈ done then aluThread al c t tick live helpers th else th).life = th.life := by
        intro th; split <;> simp [aluThread_life]
      refine hl (pinAt al c u tick live helpers g) (pinAt al c t tick live helpers g) rfl rfl rfl rfl
        (Team.running_congr _ hpos hlife hth hm) (Team.helpers_congr _ hpos hlife hth hm) ?_ ?_ p hp
      · intro k q hq
        exact (unpassed_row hs hrec hrp hsame hth (by have : q / 32 = g := hq; omega)
          (by have : q / 32 = g := hq; rw [this]; exact hgd.1)).2 k
      · intro q hq
        exact (unpassed_row hs hrec hrp hsame hth (by have : q / 32 = g := hq; omega)
          (by have : q / 32 = g := hq; rw [this]; exact hgd.1)).1
    obtain ⟨lv, hlvd⟩ : ∃ m, m = onlyRow live g := ⟨_, rfl⟩
    obtain ⟨ex, hexd⟩ : ∃ m, m = onlyRow live g ||| onlyRow helpers g := ⟨_, rfl⟩
    obtain ⟨out, houtd⟩ : ∃ f, f = rowOut al c u tick live helpers g := ⟨_, rfl⟩
    have hout : ∀ p, p / 32 = g → maskHas ex p = true → out p = passOut al c t tick live helpers p := by
      intro p hp hx
      rw [houtd, rowOut, ← hexd]
      rw [passGet_table _ (mem_rowLanes.mpr ⟨hp, hx⟩)]
      exact (hpin p hp).1
    obtain ⟨kp, hkpd⟩ : ∃ f, f = al.keeps (pinAt al c u tick live helpers g) := ⟨_, rfl⟩
    have hkeep : ∀ p, p / 32 = g → kp p = passKeeps al c t tick live helpers p := fun p hp => hkpd ▸ (hpin p hp).2
    have hlv : ∀ p, maskHas lv p = (maskHas live p && decide (p / 32 = g)) := by
      intro p; rw [hlvd]; exact maskHas_onlyRow live g p
    have hex : ∀ p, maskHas ex p = ((maskHas live p || maskHas helpers p) && decide (p / 32 = g)) := by
      intro p
      rw [hexd, maskHas_or, maskHas_onlyRow, maskHas_onlyRow, Bool.and_or_distrib_right]
    have ht0 : trapLanes lv g out (modeTraps c.mode) = (0, 0) := by
      apply trapLanes_none
      intro p hp
      obtain ⟨hp, hm⟩ := mem_rowLanes.mp hp
      rw [hlv] at hm
      simp only [Bool.and_eq_true, decide_eq_true_eq] at hm
      rw [hout p hp (by rw [hex]; simp [hm.1, hp])]
      exact htrap p hm.1 (by simp [hp])
    rw [runPasses_cons hrp hcs hk (by rw [← hlvd, ← houtd]; exact ht0), ← hexd, ← hlvd, ← houtd, ← hkpd]
    have hw := (u.passed 1).writePass_spec al g lv ex out kp (modeTraps c.mode)
    have hsame' : t.samePass ((u.passed 1).writePass al g lv ex out kp (modeTraps c.mode)) :=
      Team.samePass_trans hsame (Team.samePass_trans (show u.samePass (u.passed 1) from rfl) hw.1)
    obtain ⟨w, h1, h2, h3, h4⟩ := ih (done ++ [g]) _ (List.nodup_cons.mp hnd).2
      (fun r hr => ⟨by
        have := (hg r (by simp [hr])).1
        have : r ≠ g := fun e => (List.nodup_cons.mp hnd).1 (e ▸ hr)
        simp [*], (hg r (by simp [hr])).2⟩)
      (fun p hp hr => htrap p hp (by simp [hr])) hsame' (by
        rw [hw.2.2]
        show List.map _ u.threads = _
        rw [hth, afterRows, afterRows, List.map_map]
        apply List.map_congr_left
        intro th hm
        simp only [Function.comp_apply]
        by_cases hd : th.pos / 32 ∈ done
        · -- a row that has passed already
          have hne : th.pos / 32 ≠ g := fun e => hgd.1 (e ▸ hd)
          have hexf : maskHas ex th.pos = false := by rw [hex]; simp [hne]
          simp [hd, aluThread_pos, hexf]
        · by_cases hr : th.pos / 32 = g
          · have hmem : th.pos / 32 ∈ done ++ [g] := by simp [hr]
            rw [if_neg hd, if_pos hmem]
            unfold aluThread
            by_cases hlive : maskHas live th.pos = true
            · have h1 : maskHas ex th.pos = true := by rw [hex]; simp [hlive, hr]
              have h2 : maskHas lv th.pos = true := by rw [hlv]; simp [hlive, hr]
              simp only [if_pos h1, if_pos h2, if_pos hlive, hout _ hr h1, hkeep _ hr]
            · by_cases hhelp : maskHas helpers th.pos = true
              · have h1 : maskHas ex th.pos = true := by rw [hex]; simp [hhelp, hr]
                have h2 : ¬ maskHas lv th.pos = true := by rw [hlv]; simp [hlive]
                simp only [if_pos h1, if_neg h2, if_neg hlive, if_pos hhelp, hout _ hr h1, hkeep _ hr]
              · have h1 : ¬ maskHas ex th.pos = true := by rw [hex]; simp [hlive, hhelp]
                simp only [if_neg h1, if_neg hlive, if_neg hhelp]
          · have hmem : th.pos / 32 ∉ done ++ [g] := by simp [hd, hr]
            have hexf : maskHas ex th.pos = false := by rw [hex]; simp [hr]
            simp [hd, hr, hexf])
    refine ⟨w, h1, h2, ?_, ?_⟩
    · rw [h3, hw.2.1]
      show u.passes + BitVec.ofNat 64 1 + _ = _
      rw [List.length_cons, BitVec.add_assoc, ← BitVec.ofNat_add, Nat.add_comm 1]
    · rw [h4]; simp [afterRows]

/-! ### Live lanes and operands -/

theorem maskHas_filterMask (m : Mask) (f : Nat → Bool) (p : Nat) : maskHas (filterMask m f) p = (maskHas m p && f p) := by
  by_cases h : p < 1024
  · rw [filterMask, maskHas_maskOf _ h, Bool.eq_iff_iff]
    simp [mem_maskLanes]
  · simp [maskHas_of_ge _ h]

theorem modeGuard_lt (m : Word) : modeGuard m < 16 := (m.extractLsb' 0 4).isLt

theorem guard_eq (hs : Seated t) (hrec : t.recent = []) (tick : Nat) {th : Thread} (hm : th ∈ t.threads) (i : Instr) :
    (Ctx.plain i t).guard t tick th.pos = guardHolds t th := by
  have hg := modeGuard_lt t.mode
  unfold Ctx.guard guardHolds
  simp only [Ctx.plain_mode, readHaz_calm hrec, refP, Team.readRef, hs.thread_home hm]
  have e : (BitVec.ofNat 4 (modeGuard t.mode)).toNat = modeGuard t.mode := by simp; omega
  rw [e]
  by_cases h0 : modeGuard t.mode = 0
  · simp [h0, Thread.readP]
  · rw [if_neg h0]
    cases th.readP (modeGuard t.mode) <;> simp

theorem live_plain (i : Instr) (t : Team) (tick : Nat) : (Ctx.plain i t).live t tick =
    if modeGuard t.mode = 0 then (if modeSense t.mode then 0 else t.running)
    else filterMask t.running ((Ctx.plain i t).guard t tick) := rfl

theorem live_eq (hs : Seated t) (hrec : t.recent = []) (tick : Nat) {th : Thread} (hm : th ∈ t.threads) (i : Instr) :
    maskHas ((Ctx.plain i t).live t tick) th.pos = isLive t th := by
  rw [live_plain]
  unfold isLive
  split
  · rename_i h0
    unfold guardHolds
    rw [h0]
    split
    · rename_i hse; rw [hse]; simp [Thread.readP]
    · rename_i hse; simp [Thread.readP, hse]
  · rw [maskHas_filterMask, guard_eq hs hrec tick hm]

theorem live_running (t : Team) (tick : Nat) (i : Instr) {p : Nat} (h : maskHas ((Ctx.plain i t).live t tick) p = true) :
    maskHas t.running p = true := by
  rw [live_plain] at h
  split at h
  · split at h
    · simp at h
    · exact h
  · rw [maskHas_filterMask] at h
    simp only [Bool.and_eq_true] at h
    exact h.1

theorem running_within (hs : Seated t) {p : Nat} (h : maskHas t.running p = true) : p < 32 * t.ngrp := by
  apply hs.within
  unfold Team.running at h
  rw [maskHas_and] at h
  simp only [Bool.and_eq_true] at h
  exact h.1

/-- Reading an operand for the thread at a position is reading that thread's registers. -/
theorem read_eq (hs : Seated t) (hrec : t.recent = []) (tick : Nat) {th : Thread} (hm : th ∈ t.threads) (i : Instr) {x : Srcs}
    (k : Nat) (hok : (x.get k).ok t = true) (hvs : ∀ r n, x.get k = .vs r n → 0 < n) :
    (Ctx.plain i t).read t tick x k th.pos = operand t th (x.get k) := by
  have hv := hs.vregs
  have hss := hs.sregs
  have tn : ∀ r, r < 64 → (BitVec.ofNat 6 r).toNat = r := by intro r h; simp; omega
  unfold Ctx.read
  cases hx : x.get k with
  | none => rfl
  | imm v => rfl
  | v r w =>
    rw [hx] at hok
    simp only [Ctx.plain_rp, Team.readSrc, readHaz_calm hrec, refV, Team.readRef, hs.thread_home hm, operand]
    cases w with
    | false =>
      simp only [Src.ok, Bool.false_eq_true, if_false, Team.hasV, decide_eq_true_eq] at hok ⊢
      rw [tn r (by omega)]
    | true =>
      simp only [Src.ok, if_true, Team.hasVP, Bool.and_eq_true, decide_eq_true_eq] at hok ⊢
      rw [tn r (by omega), tn (r + 1) (by omega)]
  | vv r =>
    rw [hx] at hok
    simp only [Src.ok, Team.hasV, Bool.and_eq_true, decide_eq_true_eq] at hok
    simp only [Ctx.plain_rp, Team.readSrc, readHaz_calm hrec, refV, Team.readRef, hs.thread_home hm, operand]
    rw [tn r (by omega), tn (r + 1) (by omega)]
  | vs r n =>
    rw [hx] at hok
    simp only [Src.ok, Team.hasV, List.all_eq_true, List.mem_range, decide_eq_true_eq] at hok
    simp only [Ctx.plain_rp, Team.readSrc, readHaz_calm hrec, refV, Team.readRef, hs.thread_home hm, operand]
    have := hok 0 (hvs r n hx)
    rw [tn r (by omega)]
  | s r w =>
    rw [hx] at hok
    have hS : ∀ r, t.hasS r = true → r < 64 := by
      intro r h
      simp only [Team.hasS, Bool.or_eq_true, Bool.and_eq_true, decide_eq_true_eq] at h
      omega
    simp only [Ctx.plain_rp, Team.readSrc, readHaz_calm hrec, refS, Team.readRef, operand]
    cases w with
    | false =>
      simp only [Src.ok, Bool.false_eq_true, if_false] at hok ⊢
      rw [tn r (hS r hok)]
    | true =>
      simp only [Src.ok, if_true, Team.hasSP, Bool.and_eq_true] at hok ⊢
      rw [tn r (hS r hok.1.2), tn (r + 1) (hS _ hok.2)]
  | p r =>
    rw [hx] at hok
    have hr : r < 16 := by
      simp only [Src.ok, Team.hasP] at hok
      split at hok <;> simp at hok <;> omega
    have e : (BitVec.ofNat 4 r).toNat = r := by simp; omega
    simp only [Ctx.plain_rp, Team.readSrc, readHaz_calm hrec, refP, Team.readRef, hs.thread_home hm, operand, e]
    by_cases h0 : r = 0
    · simp [h0, Thread.readP]
    · rw [if_neg h0]
      cases th.readP r <;> simp

/-! ### The whole instruction -/

/-- The helper lanes that execute an instruction (R38). -/
def aluHelpers (al : Alu) (i : Instr) (t : Team) (tick : Nat) : Mask :=
  if al.helps then filterMask t.helpers ((Ctx.plain i t).guard t tick) else 0

theorem Team.openWindow_spec (t0 t : Team) (al : Alu) (c : Ctx) (m : Mask) :
    ∃ rs, t0.openWindow t al c m = { t with recent := rs } := by
  unfold Team.openWindow
  extract_lets lanes t1
  have h1 : ∃ rs, t1 = { t with recent := rs } := by
    simp only [t1]
    split
    · exact ⟨t.recent, rfl⟩
    · exact ⟨_, rfl⟩
  clear_value t1
  obtain ⟨rs, rfl⟩ := h1
  repeat' split
  all_goals exact ⟨_, rfl⟩

theorem aluThread_idle (al : Alu) (c : Ctx) (t : Team) (tick : Nat) {live helpers : Mask} {th : Thread}
    (h : maskHas live th.pos = false) (h' : maskHas helpers th.pos = false) : aluThread al c t tick live helpers th = th := by
  simp [aluThread, h, h']

theorem ite_false_or_not {α : Type} (b : Bool) (x y : α) : (if (false || !b) = true then x else y) = if b = true then y else x := by
  cases b <;> rfl

/-- Passes in which no thread's life changes kill no lane. -/
theorem State.noteDeaths_alive {t u : Team} {f : Thread → Thread} (s : State) (c : Ctx) (hf : ∀ th, (f th).life = th.life)
    (h : u.threads = t.threads.map f) : s.noteDeaths c t u = s := by
  have he : ∀ k, (u.thread k).life = (t.thread k).life := by
    intro k
    rw [Team.thread, Team.thread, h, List.getElem?_map]
    cases t.threads[k]? <;> simp [hf]
  unfold State.noteDeaths
  simp [he]

/-- An instruction of classes 1 to 4 of an undisturbed team completes when nothing stops it at issue and no live lane raises an
enabled flag: the threads are those of `aluThread`, and nothing else changes but the pc, the counts and the bookkeeping. -/
theorem execAlu_calm (hc : Calm s t) (hs : Seated t) {mk : Ctx → Team → Nat → Alu} (hal : mk (Ctx.plain i t) t s.tick = al)
    (hun : Unstopped t al.x { al.check with illegal := al.check.illegal || !al.dst.ok t }) (hl : al.Local)
    (hd : ∀ r, al.logReads = some r → (s.setTeam t).badLogs t r ((Ctx.plain i t).live t s.tick) = 0)
    (htrap : ∀ p, maskHas ((Ctx.plain i t).live t s.tick) p = true →
      (passOut al (Ctx.plain i t) t s.tick ((Ctx.plain i t).live t s.tick) (aluHelpers al i t s.tick) p).flags &&& modeTraps t.mode = 0) :
    ∃ n rs d f a l k j, execAlu i s mk = .next (s.setTeam
      { finished t (nextPc t i) n with
        threads := t.threads.map (aluThread al (Ctx.plain i t) t s.tick ((Ctx.plain i t).live t s.tick) (aluHelpers al i t s.tick)),
        recent := rs, dirty := d, fDirty := f, auxDirty := a, absent := l, auxAbsent := k, fAbsent := j }) := by
  obtain ⟨live, hlive⟩ : ∃ m, m = (Ctx.plain i t).live t s.tick := ⟨_, rfl⟩
  obtain ⟨helpers, hhelp⟩ : ∃ m, m = aluHelpers al i t s.tick := ⟨_, rfl⟩
  have hsoft : (s.setTeam t).soft = [] := hc.sound
  have hk : (Consume.mk ((al.logReads.map fun r => (s.setTeam t).badLogs t r live).getD 0) ((s.setTeam t).isStrict t)).logs = 0 := by
    cases e : al.logReads with
    | none => rfl
    | some r => simpa [hlive] using hd r e
  obtain ⟨w, hw1, hw2, hw3, hw4⟩ := runPasses_spec (al := al) (c := Ctx.plain i t) hs hc.windows rfl rfl hl (tick := s.tick) (live := live)
    (helpers := helpers) hk (maskRows (t.running ||| live)) [] t (nodup_maskRows _)
    (fun g hg => ⟨by simp, by
      obtain ⟨p, rfl, hm⟩ := mem_maskRows.mp hg
      rw [maskHas_or] at hm
      have hr : maskHas t.running p = true := by
        rcases (Bool.or_eq_true _ _).mp hm with h | h
        · exact h
        · exact live_running t s.tick i (hlive ▸ h)
      have := running_within hs hr
      omega⟩)
    (fun p hp _ => by
      have := htrap p (hlive ▸ hp)
      rwa [← hlive, ← hhelp] at this)
    (Team.samePass_refl t) (by simp [afterRows])
  have hth : w.threads = t.threads.map (aluThread al (Ctx.plain i t) t s.tick live helpers) := by
    rw [hw4, afterRows]
    apply List.map_congr_left
    intro th hm
    by_cases hin : th.pos / 32 ∈ [] ++ maskRows (t.running ||| live)
    · rw [if_pos hin]
    · rw [if_neg hin, aluThread_idle]
      · cases e : maskHas live th.pos with
        | false => rfl
        | true => exact absurd (mem_maskRows.mpr ⟨th.pos, rfl, by simp [e]⟩) hin
      · cases e : maskHas helpers th.pos with
        | false => rfl
        | true =>
          have hh : maskHas t.helpers th.pos = true := by
            rw [hhelp, aluHelpers] at e
            split at e
            · rw [maskHas_filterMask] at e; simp only [Bool.and_eq_true] at e; exact e.1
            · exact absurd e (by rw [show maskHas 0 th.pos = false from maskHas_zero _]; simp)
          have := Team.helper_row hh
          obtain ⟨q, hq, hm'⟩ := mem_maskRows.mp this
          exact absurd (mem_maskRows.mpr ⟨q, hq, by simp [hm']⟩) hin
  obtain ⟨rs, hrs⟩ := t.openWindow_spec w al (Ctx.plain i t) (live ||| helpers)
  have huid : w.uid = t.uid := by rw [hw2]
  have hmask : w.mask = t.mask := by rw [hw2]
  have hret : w.retiredMask = t.retiredMask :=
    Team.retiredMask_congr _ (fun th => aluThread_pos al _ t _ live helpers th) (fun th => aluThread_life al _ t _ live helpers th) hth
  have hrun : ({ w with recent := rs } : Team).running ≠ 0 := by
    show w.mask &&& ~~~w.retiredMask ≠ 0
    rw [hmask, hret]; exact hc.runs
  have hsoft' : (s.setTeam { w with recent := rs }).soft = [] := hc.sound
  refine ⟨(maskRows (t.running ||| live)).length, ageRecent rs (1 + stallOf (Ctx.plain i t).word), w.dirty, w.fDirty, w.auxDirty,
    w.absent, w.auxAbsent, w.fAbsent, ?_⟩
  have hset : (s.setTeam t).setTeam { w with recent := rs } = s.setTeam { w with recent := rs } := State.setTeam_setTeam s huid
  have hhelp' : (if (Ctx.plain i t).rp.isSome || !al.helps then 0 else filterMask t.helpers ((Ctx.plain i t).guard t s.tick)) = helpers := by
    rw [hhelp, aluHelpers]
    exact ite_false_or_not al.helps 0 _
  have hbody : al.body (Ctx.plain i t) t live (s.setTeam t) = (s.setTeam { w with recent := rs }).finish (Ctx.plain i t) (nextPc t i) := by
    unfold Alu.body
    simp only [show (s.setTeam t).tick = s.tick from rfl]
    rw [hhelp']
    simp only [passRows, Ctx.plain_lanes, hw1, Ctx.plain_next]
    rw [State.noteDeaths_alive _ _ (fun th => aluThread_life al _ t _ live helpers th) hth, hrs, hset, State.scrubRegs_sound hsoft']
  rw [State.finish_plain hc (u := { w with recent := rs }) huid hrun] at hbody
  refine Eq.trans (issue_calm_set hc (u := { w with
    pc := nextPc t i, insn := w.insn + 1, resumed := false, recent := ageRecent rs (1 + stallOf (Ctx.plain i t).word) }) ?_ huid ?_) ?_
  · simp only [show (s.setTeam t).tick = s.tick from rfl, hal]
    rw [checked_plain hc hun]
    simp only [if_true, show (s.setTeam t).tick = s.tick from rfl, ← hlive]
    exact hbody
  · intro l
    show w.run ≠ .missing l
    rw [show w.run = t.run by rw [hw2], hc.ready]
    exact RunState.noConfusion
  refine congrArg (fun u => Host.Outcome.next (s.setTeam u)) ?_
  subst hlive hhelp
  rw [← hth]
  conv_lhs => rw [hw2]
  rw [hw3]
  rfl

/-! ### Instructions whose lanes compute on their own -/

/-- A value that an operand can have: an immediate's own, and 32 bits of a register that is no pair. -/
def Src.fits (x : Src) (v : Double) : Prop :=
  match x with
  | .none => v = 0
  | .imm k => v = k
  | .v _ w => w = false → v = (v.setWidth 32).setWidth 64
  | .s _ w => w = false → v = (v.setWidth 32).setWidth 64
  | .vv _ => True
  | .vs _ _ => v = (v.setWidth 32).setWidth 64
  | .p _ => v = 0 ∨ v = 1

theorem operand_fits (t : Team) (th : Thread) (x : Src) : x.fits (operand t th x) := by
  have narrow : ∀ w : Word, (w.setWidth 64 : Double) = ((w.setWidth 64 : Double).setWidth 32).setWidth 64 := by
    intro w; simp [BitVec.setWidth_setWidth_of_le]
  cases x with
  | none => rfl
  | imm k => rfl
  | vv r => trivial
  | vs r n => exact narrow _
  | v r w => intro h; subst h; exact narrow _
  | s r w => intro h; subst h; exact narrow _
  | p r => unfold operand Src.fits; cases th.readP r <;> simp

theorem Alu.local_of_lanes {g : Double → Double → Double → LaneOut}
    (h : ∀ pin p, al.f pin p = g (pin.rd 0 p) (pin.rd 1 p) (pin.rd 2 p)) (hk : al.keeps = fun _ _ => false) : al.Local := by
  intro pin pin' _ _ _ _ _ _ hr _ p hp
  rw [h, h, hr 0 p hp, hr 1 p hp, hr 2 p hp, hk]
  exact ⟨rfl, rfl⟩

/-- How an instruction of classes 1 to 4 is of a lane form: the same operands, destination and last use, and in every lane the
form's result. -/
structure Alu.IsForm (al : Alu) (f : LaneForm) : Prop where
  a : al.x.a = f.a
  b : al.x.b = f.b
  d : al.x.d = f.d
  dst : al.dst = f.dst
  frees : freesOf al.m al.x = f.frees
  fmt : al.fmt = f.fmt
  writes : al.writes = fun _ => true
  helps : al.helps = true
  keeps : al.keeps = fun _ _ => false
  draws : al.logReads = none
  pois : al.pois = fun _ => al.dst.poison al.fmt
  single : ∀ r n, al.x.a ≠ .vs r n ∧ al.x.b ≠ .vs r n ∧ al.x.d ≠ .vs r n
  lanes : ∃ g : Double → Double → Double → LaneOut, (∀ pin p, al.f pin p = g (pin.rd 0 p) (pin.rd 1 p) (pin.rd 2 p)) ∧
    (∀ a b d, (g a b d).cv = none ∧ (g a b d).clear = 0) ∧
    ∀ a b d, f.a.fits a → f.b.fits b → f.d.fits d → g a b d = f.val a b d

theorem execAlu_form (hc : Calm s t) (hs : Seated t) {mk : Ctx → Team → Nat → Alu} (hal : mk (Ctx.plain i t) t s.tick = al)
    {f : LaneForm} (hf : al.IsForm f) (hk : al.check.priv = false ∧ al.check.illegal = false ∧ al.check.unsupported = none ∧ al.check.extra = none)
    (hok : f.ok t = true) (hun : f.untrapped t) :
    ∃ t', execAlu i s mk = .next (s.setTeam t') ∧ f.Result t t' i := by
  obtain ⟨g, hg, hpure, hval⟩ := hf.lanes
  simp only [LaneForm.ok, Bool.and_eq_true] at hok
  obtain ⟨⟨⟨hoka, hokb⟩, hokd⟩, hokdst⟩ := hok
  have hget : ∀ k, (al.x.get k).ok t = true ∧ ∀ r n, al.x.get k = .vs r n → 0 < n := by
    intro k
    unfold Srcs.get
    have hsg := hf.single
    split
    · exact ⟨hf.a ▸ hoka, fun r n e => absurd e (hsg r n).1⟩
    · exact ⟨hf.b ▸ hokb, fun r n e => absurd e (hsg r n).2.1⟩
    · exact ⟨hf.d ▸ hokd, fun r n e => absurd e (hsg r n).2.2⟩
  have hout : ∀ th ∈ t.threads, ∀ live helpers, passOut al (Ctx.plain i t) t s.tick live helpers th.pos = f.out t th := by
    intro th hm live helpers
    have hr : ∀ k, (Ctx.plain i t).read t s.tick al.x k th.pos = operand t th (al.x.get k) :=
      fun k => read_eq hs hc.windows s.tick hm i k (hget k).1 (hget k).2
    unfold passOut
    rw [hg]
    simp only [pinAt, hr]
    show g (operand t th al.x.a) (operand t th al.x.b) (operand t th al.x.d) = _
    rw [hf.a, hf.b, hf.d, hval _ _ _ (operand_fits t th _) (operand_fits t th _) (operand_fits t th _)]
    rfl
  have hpure' : ∀ th ∈ t.threads, (f.out t th).cv = none ∧ (f.out t th).clear = 0 := by
    intro th _
    unfold LaneForm.out
    rw [← hval _ _ _ (operand_fits t th _) (operand_fits t th _) (operand_fits t th _)]
    exact hpure _ _ _
  obtain ⟨n, rs, d, fd, a, l, k, j, h⟩ := execAlu_calm (i := i) (al := al) hc hs hal
    ⟨hk.1, by simp [hk.2.1, hf.dst, hokdst], by simp [Srcs.ok, hf.a, hf.b, hf.d, hoka, hokb, hokd], hk.2.2.1, hk.2.2.2⟩ (Alu.local_of_lanes hg hf.keeps)
    (by simp [hf.draws])
    (by
      intro p hp
      have hr := running_within hs (live_running t s.tick i hp)
      obtain ⟨h, th, hh, rfl⟩ := hs.occupied hr
      have hm := List.mem_of_getElem? hh
      rw [hout th hm]
      exact hun th hm (by rw [← live_eq hs hc.windows s.tick hm i]; exact hp))
  refine ⟨_, h, n, ?_⟩
  have hth : t.threads.map (aluThread al (Ctx.plain i t) t s.tick ((Ctx.plain i t).live t s.tick) (aluHelpers al i t s.tick)) =
      t.threads.map (f.after t) := by
    apply List.map_congr_left
    intro th hm
    unfold aluThread LaneForm.after
    simp only [hout th hm]
    rw [live_eq hs hc.windows s.tick hm i]
    have hh : maskHas (aluHelpers al i t s.tick) th.pos = isHelper t th := by
      rw [aluHelpers, if_pos hf.helps, maskHas_filterMask, guard_eq hs hc.windows s.tick hm, isHelper]
    rw [hh]
    have hp := hpure' th hm
    cases isLive t th with
    | true =>
      simp only [if_true, passKeeps, hf.keeps, Bool.not_false, Bool.and_self, hf.writes, hf.dst, hf.frees, hp.1, hp.2, Option.getD_none,
        Thread.writeDst_flags, Thread.freeAll_flags, Thread.writeDst_cv, Thread.freeAll_cv]
      rw [show (~~~(0 : Byte)) = BitVec.allOnes 8 from rfl, BitVec.and_allOnes]
    | false =>
      cases isHelper t th with
      | true => simp [passKeeps, hf.keeps, hf.writes, hf.pois, hf.dst, hf.frees, hf.fmt]
      | false => simp
  rw [hth]

end Sys2Proof.Machine
end

