-- ==== Sys2Proof/Laws/Bits.lean ====
section
/-! SUPPORT. Class 2 at 32 and 64 bits, and how the builders of class 2 and 3 instructions give lane forms. -/

namespace Sys2Proof.Machine

open Sys2Proof Safety

/-- A class 2 instruction is of the form whose results are its function's. -/
theorem bits_isForm {mode : Word} {m : Mods} {d a : Reg} {b dsrc : Src} {ok : Bool} {c : Ctx} (hm : c.mode = mode)
    {g : Nat → Double → Double → Double → Double} {val : Double → Double → Double → LaneOut}
    (hb : ∀ r n, b ≠ .vs r n) (hd : ∀ r n, dsrc ≠ .vs r n)
    (hv : ∀ x y z, (vec mode a).fits x → b.fits y → dsrc.fits z → LaneOut.of (g (widthOf (modeType mode)) x y z) = val x y z) :
    (bitsAlu m c d a b dsrc ok g).IsForm (laneForm mode m d a b dsrc val) := by
  subst hm
  refine ⟨rfl, rfl, rfl, rfl, rfl, rfl, rfl, rfl, rfl, rfl, rfl, fun r n => ⟨by simp [bitsAlu], hb r n, hd r n⟩, _, fun _ _ => rfl, fun _ _ _ => ⟨rfl, rfl⟩, hv⟩

theorem widthOf_wide (mode : Word) : widthOf (modeType mode) = if typeWide mode then 64 else 32 := by
  unfold widthOf typeWide; cases wide (modeType mode) <;> rfl

theorem atWidth_of {mode : Word} {a : Reg} {x y z : Double} {g : Nat → Double → Double → Double → Double}
    {f : (n : Nat) → BitVec n → BitVec n → BitVec n}
    (hx : (vec mode a).fits x)
    (h64 : g 64 x y z = f 64 x y)
    (h32 : x = (x.setWidth 32).setWidth 64 → g 32 x y z = (f 32 (x.setWidth 32) (y.setWidth 32)).setWidth 64) :
    LaneOut.of (g (widthOf (modeType mode)) x y z) = LaneOut.of (atWidth mode f x y) := by
  rw [widthOf_wide]
  unfold atWidth
  cases h : typeWide mode with
  | true => simpa using congrArg LaneOut.of h64
  | false => exact congrArg LaneOut.of (h32 (hx h))

variable {x y : Double}

/-! ### The functions of class 2 at 32 and 64 bits -/

/-- A count mod 32 is that of the low word. -/
theorem count_mod_32 (y : Double) : (y.setWidth 32 : Word).toNat % 32 = y.toNat % 32 := by simp


theorem narrow_and (hx : x = (x.setWidth 32).setWidth 64) : x &&& y = ((x.setWidth 32 : Word) &&& y.setWidth 32).setWidth 64 := by
  rw [hx]; apply BitVec.eq_of_getLsbD_eq; intro i h
  simp only [BitVec.getLsbD_and, BitVec.getLsbD_setWidth]
  by_cases h1 : i < 32 <;> simp [h, h1]

theorem narrow_or (hx : x = (x.setWidth 32).setWidth 64) (hy : y = (y.setWidth 32).setWidth 64) : x ||| y = ((x.setWidth 32 : Word) ||| y.setWidth 32).setWidth 64 := by
  rw [hx, hy]; ext i; simp

theorem narrow_xor (hx : x = (x.setWidth 32).setWidth 64) (hy : y = (y.setWidth 32).setWidth 64) : x ^^^ y = ((x.setWidth 32 : Word) ^^^ y.setWidth 32).setWidth 64 := by
  rw [hx, hy]; ext i; simp

theorem low_bit (i : Nat) : (0xFFFFFFFF#64).getLsbD i = decide (i < 32) := by
  have : (0xFFFFFFFF#64) = BitVec.setWidth 64 (BitVec.allOnes 32) := by decide
  rw [this, BitVec.getLsbD_setWidth, BitVec.getLsbD_allOnes]
  by_cases h : i < 32
  · have : i < 64 := by omega
    simp [h, this]
  · simp [h]

theorem narrow_not : lowW 32 (~~~x) = (~~~(x.setWidth 32 : Word)).setWidth 64 := by
  unfold lowW; apply BitVec.eq_of_getLsbD_eq; intro i h
  simp only [if_true, BitVec.getLsbD_and, low_bit, BitVec.getLsbD_setWidth, BitVec.getLsbD_not]
  by_cases h1 : i < 32 <;> simp [h, h1]

theorem narrow_shl : lowW 32 (x <<< (y.toNat % 32)) = ((x.setWidth 32 : Word) <<< ((y.setWidth 32 : Word).toNat % 32)).setWidth 64 := by
  rw [count_mod_32]; unfold lowW; apply BitVec.eq_of_getLsbD_eq; intro i h
  generalize y.toNat % 32 = n
  simp only [if_true, BitVec.getLsbD_and, low_bit, BitVec.getLsbD_shiftLeft, BitVec.getLsbD_setWidth]
  by_cases h1 : i < 32
  · have : i - n < 32 := by omega
    simp [h, h1, this]
  · simp [h1]

theorem narrow_shr (hx : x = (x.setWidth 32).setWidth 64) : x >>> (y.toNat % 32) = ((x.setWidth 32 : Word) >>> ((y.setWidth 32 : Word).toNat % 32)).setWidth 64 := by
  rw [count_mod_32]; generalize y.toNat % 32 = n; apply BitVec.eq_of_getLsbD_eq; intro i h
  rw [hx]
  simp only [BitVec.getLsbD_ushiftRight, BitVec.getLsbD_setWidth]
  by_cases h1 : n + i < 32 <;> simp [h, h1]

theorem narrow_sar : lowW 32 ((sextW 32 x).sshiftRight (y.toNat % 32)) = ((x.setWidth 32 : Word).sshiftRight ((y.setWidth 32 : Word).toNat % 32)).setWidth 64 := by
  rw [count_mod_32]; have hn : y.toNat % 32 < 32 := Nat.mod_lt _ (by omega)
  revert hn; generalize y.toNat % 32 = n; intro hn
  unfold lowW sextW; apply BitVec.eq_of_getLsbD_eq; intro i h
  simp only [if_true, BitVec.getLsbD_and, low_bit, BitVec.getLsbD_setWidth, BitVec.getLsbD_sshiftRight, BitVec.getLsbD_signExtend]
  by_cases h1 : i < 32
  · by_cases h2 : n + i < 32
    · have : n + i < 64 := by omega
      have h5 : ¬ 64 ≤ i := by omega
      have h6 : ¬ 32 ≤ i := by omega
      simp [h, h1, h2, this, h5, h6]
    · have h3 : n + i < 64 := by omega
      have : ¬ 64 ≤ i := by omega
      simp [h, h1, h2, h3, this, BitVec.msb_eq_getLsbD_last]
  · simp [h1]

theorem narrow_rol (hx : x = (x.setWidth 32).setWidth 64) : lowW 32 ((x <<< (y.toNat % 32)) ||| (x >>> (32 - y.toNat % 32))) = ((x.setWidth 32 : Word).rotateLeft ((y.setWidth 32 : Word).toNat % 32)).setWidth 64 := by
  rw [count_mod_32]; have hn : y.toNat % 32 < 32 := Nat.mod_lt _ (by omega)
  revert hn; generalize y.toNat % 32 = n; intro hn
  unfold lowW; apply BitVec.eq_of_getLsbD_eq; intro i h
  rw [BitVec.getLsbD_setWidth, BitVec.getLsbD_rotateLeft, Nat.mod_eq_of_lt hn]
  simp only [if_true, BitVec.getLsbD_and, low_bit, BitVec.getLsbD_or, BitVec.getLsbD_shiftLeft, BitVec.getLsbD_ushiftRight, BitVec.getLsbD_setWidth]
  have hz : ∀ j, 32 ≤ j → x.getLsbD j = false := by
    intro j hj; rw [hx]; simp; omega
  by_cases h1 : i < 32
  · by_cases h2 : i < n
    · have e : 32 - n + i < 32 := by omega
      simp [h, h1, h2, e]
    · have e : i - n < 32 := by omega
      simp [h, h1, h2, e, hz (32 - n + i) (by omega)]
  · simp [h1]; intros; omega

theorem rol64 : lowW 64 ((x <<< (y.toNat % 64)) ||| (x >>> (64 - y.toNat % 64))) = x.rotateLeft (y.toNat % 64) := by
  have hn : y.toNat % 64 < 64 := Nat.mod_lt _ (by omega)
  revert hn; generalize y.toNat % 64 = n; intro hn
  unfold lowW; apply BitVec.eq_of_getLsbD_eq; intro i h
  rw [BitVec.getLsbD_rotateLeft, Nat.mod_eq_of_lt hn]
  simp only [show ¬ (64 = 32) by omega, if_false, BitVec.getLsbD_or, BitVec.getLsbD_shiftLeft, BitVec.getLsbD_ushiftRight]
  by_cases h2 : i < n
  · simp [h, h2]
  · rw [BitVec.getLsbD_of_ge x (64 - n + i) (by omega)]; simp [h, h2]
/-- A class 3 instruction is of the form of its lane function. -/
theorem typed_isForm {mode : Word} {m : Mods} {d a : Reg} {b dsrc : Src} {fixed : Bool} {ok : Nat → Bool} {c : Ctx} (hm : c.mode = mode)
    {f : Word → Double → Double → Double → LaneOut} (hb : ∀ r n, b ≠ .vs r n) (hd : ∀ r n, dsrc ≠ .vs r n)
    (hp : ∀ x y z, (f mode x y z).cv = none ∧ (f mode x y z).clear = 0) :
    (typedAlu m c d a b dsrc fixed ok f).IsForm (laneForm mode m d a b dsrc (f mode)) := by
  subst hm
  exact ⟨rfl, rfl, rfl, rfl, rfl, rfl, rfl, rfl, rfl, rfl, rfl, fun r n => ⟨by simp [typedAlu], hb r n, hd r n⟩, _, fun _ _ => rfl, hp,
    fun _ _ _ _ _ _ => rfl⟩

/-- A form of class 2 sets no flag, so nothing traps. -/
theorem untrapped_of_flagless {f : LaneForm} (t : Team) (h : ∀ x y z, (f.val x y z).flags = 0) : f.untrapped t := by
  intro th _ _
  rw [LaneForm.out, h]
  exact BitVec.zero_and

/-! ### Operands of a TYPE of 32 bits are 32 bits wide -/

theorem narrow_vec {mode : Word} {r : Reg} {y : Double} (hw : typeWide mode = false) (h : (vec mode r).fits y) :
    y = (y.setWidth 32).setWidth 64 := h hw

theorem narrow_sca {mode : Word} {r : Reg} {y : Double} (hw : typeWide mode = false) (h : (sca mode r).fits y) :
    y = (y.setWidth 32).setWidth 64 := h hw

theorem narrow_lit {mode : Word} {l : LI} {y : Double} (hw : typeWide mode = false) (h : (lit mode l).fits y) :
    y = (y.setWidth 32).setWidth 64 := by
  have : y = immOf (modeType mode) l.imm := h
  subst this
  unfold typeWide wide at hw
  unfold immOf
  split
  · simp_all
  · simp_all
  · simp [BitVec.setWidth_setWidth_of_le]

theorem narrow_count {k : BitVec 6} {y : Double} (h : (Src.imm (k.setWidth 64)).fits y) : y = (y.setWidth 32).setWidth 64 := by
  rw [show y = _ from h]
  simp [BitVec.setWidth_setWidth_of_le]

/-- A class 2 instruction completes with its form's results, when its function is the form's at 64 bits, and at 32 bits on operands
of 32 bits. -/
theorem execAlu_bits {s : State} {t : Team} {i : Instr} {m : Mods} {d a : Reg} {b : Src} {mk : Ctx → Team → Nat → Alu}
    (g : Nat → Double → Double → Double → Double) (ok : Bool) {h : (n : Nat) → BitVec n → BitVec n → BitVec n}
    (hc : Calm s t) (hs : Seated t) (hmk : mk (Ctx.plain i t) t s.tick = bitsAlu m (Ctx.plain i t) d a b .none ok g) (hok : ok = true)
    (hb : ∀ r n, b ≠ .vs r n) (hbf : ∀ y, typeWide t.mode = false → b.fits y → y = (y.setWidth 32).setWidth 64)
    (h64 : ∀ x y, g 64 x y 0 = h 64 x y)
    (h32 : ∀ x y, x = (x.setWidth 32).setWidth 64 → y = (y.setWidth 32).setWidth 64 →
      g 32 x y 0 = (h 32 (x.setWidth 32) (y.setWidth 32)).setWidth 64)
    (hf : (bitsForm t.mode m d a b h).ok t = true) :
    ∃ t', execAlu i s mk = .next (s.setTeam t') ∧ (bitsForm t.mode m d a b h).Result t t' i := by
  apply execAlu_form hc hs hmk ?_ ⟨rfl, by simp [bitsAlu, Check.operand, hok], rfl, rfl⟩ hf (untrapped_of_flagless _ (fun _ _ _ => rfl))
  refine bits_isForm rfl hb (by simp) ?_
  intro x y z hx hy hz
  rw [show z = 0 from hz]
  have e := widthOf_wide t.mode
  show LaneOut.of (g (widthOf (modeType t.mode)) x y 0) = LaneOut.of (atWidth t.mode h x y)
  rw [e]
  unfold atWidth
  cases hw : typeWide t.mode with
  | true => exact congrArg LaneOut.of (h64 x y)
  | false => exact congrArg LaneOut.of (h32 x y (hx hw) (hbf y hw hy))

end Sys2Proof.Machine
end

