-- ==== Sys2Proof/Laws/Coding.lean ====
section
/-! SUPPORT. The fields of a word and every literal layout read back what was written (R76 to R89). -/

namespace Sys2Proof

open BitVec

/-- Bits below the seam are those of the low part. -/
theorem extract_low {n m k : Nat} (s : Nat) (x : BitVec n) (y : BitVec m) (h : s + k ≤ m) :
    (x ++ y).extractLsb' s k = y.extractLsb' s k := by
  ext i hi
  simp only [getElem_extractLsb', getLsbD_append, show s + i < m by omega]
  rfl

/-- Bits from the seam up are those of the high part. -/
theorem extract_high {n m k : Nat} (s : Nat) (x : BitVec n) (y : BitVec m) (h : m ≤ s) :
    (x ++ y).extractLsb' s k = x.extractLsb' (s - m) k := by
  ext i hi
  have : ¬ (s + i < m) := by omega
  simp only [getElem_extractLsb', getLsbD_append, this, ↓reduceIte, show s + i - m = s - m + i by omega]

theorem extract_all {n : Nat} (x : BitVec n) : x.extractLsb' 0 n = x := by simp

theorem bit_low {n m : Nat} (i : Nat) (x : BitVec n) (y : BitVec m) (h : i < m) : (x ++ y).getLsbD i = y.getLsbD i := by
  rw [getLsbD_append, if_pos h]

theorem bit_high {n m : Nat} (i : Nat) (x : BitVec n) (y : BitVec m) (h : m ≤ i) : (x ++ y).getLsbD i = x.getLsbD (i - m) := by
  rw [getLsbD_append, if_neg (by omega)]

theorem bit_ofBool (b : Bool) : (BitVec.ofBool b).getLsbD 0 = b := by cases b <;> rfl

/-- The fields of a word that was built from fields (R76). -/
theorem fieldsOf_wordOf (f : Fields) : fieldsOf (wordOf f) = f := by
  obtain ⟨op, d, a, b, ⟨lua, lub, st⟩⟩ := f
  have h0 : (op ++ d ++ a ++ b ++ BitVec.ofBool lua ++ BitVec.ofBool lub ++ st : Word).extractLsb' 22 10 = op := by
    rw [extract_high _ _ _ (by decide), extract_high _ _ _ (by decide), extract_high _ _ _ (by decide), extract_high _ _ _ (by decide), extract_high _ _ _ (by decide), extract_high _ _ _ (by decide)]
    exact extract_all _
  have h1 : (op ++ d ++ a ++ b ++ BitVec.ofBool lua ++ BitVec.ofBool lub ++ st : Word).extractLsb' 16 6 = d := by
    rw [extract_high _ _ _ (by decide), extract_high _ _ _ (by decide), extract_high _ _ _ (by decide), extract_high _ _ _ (by decide), extract_high _ _ _ (by decide), extract_low _ _ _ (by decide)]
    exact extract_all _
  have h2 : (op ++ d ++ a ++ b ++ BitVec.ofBool lua ++ BitVec.ofBool lub ++ st : Word).extractLsb' 10 6 = a := by
    rw [extract_high _ _ _ (by decide), extract_high _ _ _ (by decide), extract_high _ _ _ (by decide), extract_high _ _ _ (by decide), extract_low _ _ _ (by decide)]
    exact extract_all _
  have h3 : (op ++ d ++ a ++ b ++ BitVec.ofBool lua ++ BitVec.ofBool lub ++ st : Word).extractLsb' 4 6 = b := by
    rw [extract_high _ _ _ (by decide), extract_high _ _ _ (by decide), extract_high _ _ _ (by decide), extract_low _ _ _ (by decide)]
    exact extract_all _
  have h4 : (op ++ d ++ a ++ b ++ BitVec.ofBool lua ++ BitVec.ofBool lub ++ st : Word).getLsbD 3 = lua := by
    rw [bit_high _ _ _ (by decide), bit_high _ _ _ (by decide), bit_low _ _ _ (by decide)]
    exact bit_ofBool _
  have h5 : (op ++ d ++ a ++ b ++ BitVec.ofBool lua ++ BitVec.ofBool lub ++ st : Word).getLsbD 2 = lub := by
    rw [bit_high _ _ _ (by decide), bit_low _ _ _ (by decide)]
    exact bit_ofBool _
  have h6 : (op ++ d ++ a ++ b ++ BitVec.ofBool lua ++ BitVec.ofBool lub ++ st : Word).extractLsb' 0 2 = st := by
    rw [extract_low _ _ _ (by decide)]
    exact extract_all _
  simp only [fieldsOf, wordOf, h0, h1, h2, h3, h4, h5, h6]

theorem fieldsOf_enc (op : BitVec 10) (m : Mods) (d a b : Reg) : fieldsOf (enc op m d a b) = { op := op, d := d, a := a, b := b, m := m } :=
  fieldsOf_wordOf _

theorem LB.ofWord_toWord (l : LB) : LB.ofWord l.toWord = some l := by
  obtain ⟨offset⟩ := l
  have h0 : (offset : Word).extractLsb' 0 32 = offset := by
    exact extract_all _
  simp only [LB.ofWord, LB.toWord, h0]

theorem LI.ofWord_toWord (l : LI) : LI.ofWord l.toWord = some l := by
  obtain ⟨imm⟩ := l
  have h0 : (imm : Word).extractLsb' 0 32 = imm := by
    exact extract_all _
  simp only [LI.ofWord, LI.toWord, h0]

theorem LM.ofWord_toWord (l : LM) : LM.ofWord l.toWord = some l := by
  obtain ⟨mode⟩ := l
  have h0 : (0#13 ++ mode : Word).extractLsb' 0 19 = mode := by
    rw [extract_low _ _ _ (by decide)]
    exact extract_all _
  have hm : (0#13 ++ mode : Word) &&& 0xFFF80000#32 = 0#32 := by
    rw [show 0xFFF80000#32 = BitVec.allOnes 13 ++ 0#19 from rfl, and_append]
    simp only [BitVec.zero_and, BitVec.and_zero]
    rfl
  simp only [LM.ofWord, LM.toWord, hm, ↓reduceIte, h0]

theorem LPlog.ofWord_toWord (l : LPlog) : LPlog.ofWord l.toWord = some l := by
  obtain ⟨table⟩ := l
  have h0 : (0#28 ++ table : Word).extractLsb' 0 4 = table := by
    rw [extract_low _ _ _ (by decide)]
    exact extract_all _
  have hm : (0#28 ++ table : Word) &&& 0xFFFFFFF0#32 = 0#32 := by
    rw [show 0xFFFFFFF0#32 = BitVec.allOnes 28 ++ 0#4 from rfl, and_append]
    simp only [BitVec.zero_and, BitVec.and_zero]
    rfl
  simp only [LPlog.ofWord, LPlog.toWord, hm, ↓reduceIte, h0]

theorem LShfl.ofWord_toWord (l : LShfl) : LShfl.ofWord l.toWord = some l := by
  obtain ⟨kind, value⟩ := l
  have h0 : (0#25 ++ kind ++ value : Word).extractLsb' 5 2 = kind := by
    rw [extract_high _ _ _ (by decide), extract_low _ _ _ (by decide)]
    exact extract_all _
  have h1 : (0#25 ++ kind ++ value : Word).extractLsb' 0 5 = value := by
    rw [extract_low _ _ _ (by decide)]
    exact extract_all _
  have hm : (0#25 ++ kind ++ value : Word) &&& 0xFFFFFF80#32 = 0#32 := by
    rw [show 0xFFFFFF80#32 = BitVec.allOnes 25 ++ 0#2 ++ 0#5 from rfl, and_append, and_append]
    simp only [BitVec.zero_and, BitVec.and_zero]
    rfl
  simp only [LShfl.ofWord, LShfl.toWord, hm, ↓reduceIte, h0, h1]

theorem LQswz.ofWord_toWord (l : LQswz) : LQswz.ofWord l.toWord = some l := by
  obtain ⟨sel⟩ := l
  have h0 : (0#24 ++ sel : Word).extractLsb' 0 8 = sel := by
    rw [extract_low _ _ _ (by decide)]
    exact extract_all _
  have hm : (0#24 ++ sel : Word) &&& 0xFFFFFF00#32 = 0#32 := by
    rw [show 0xFFFFFF00#32 = BitVec.allOnes 24 ++ 0#8 from rfl, and_append]
    simp only [BitVec.zero_and, BitVec.and_zero]
    rfl
  simp only [LQswz.ofWord, LQswz.toWord, hm, ↓reduceIte, h0]

theorem LFlags.ofWord_toWord (l : LFlags) : LFlags.ofWord l.toWord = some l := by
  obtain ⟨mask⟩ := l
  have h0 : (0#25 ++ mask : Word).extractLsb' 0 7 = mask := by
    rw [extract_low _ _ _ (by decide)]
    exact extract_all _
  have hm : (0#25 ++ mask : Word) &&& 0xFFFFFF80#32 = 0#32 := by
    rw [show 0xFFFFFF80#32 = BitVec.allOnes 25 ++ 0#7 from rfl, and_append]
    simp only [BitVec.zero_and, BitVec.and_zero]
    rfl
  simp only [LFlags.ofWord, LFlags.toWord, hm, ↓reduceIte, h0]

theorem LSel.ofWord_toWord (l : LSel) : LSel.ofWord l.toWord = some l := by
  obtain ⟨sense, pred⟩ := l
  have h0 : (0#27 ++ BitVec.ofBool sense ++ pred : Word).getLsbD 4 = sense := by
    rw [bit_high _ _ _ (by decide), bit_low _ _ _ (by decide)]
    exact bit_ofBool _
  have h1 : (0#27 ++ BitVec.ofBool sense ++ pred : Word).extractLsb' 0 4 = pred := by
    rw [extract_low _ _ _ (by decide)]
    exact extract_all _
  have hm : (0#27 ++ BitVec.ofBool sense ++ pred : Word) &&& 0xFFFFFFE0#32 = 0#32 := by
    rw [show 0xFFFFFFE0#32 = BitVec.allOnes 27 ++ 0#1 ++ 0#4 from rfl, and_append, and_append]
    simp only [BitVec.zero_and, BitVec.and_zero]
    rfl
  simp only [LSel.ofWord, LSel.toWord, hm, ↓reduceIte, h0, h1]

theorem LCount.ofWord_toWord (l : LCount) : LCount.ofWord l.toWord = some l := by
  obtain ⟨count⟩ := l
  have h0 : (0#26 ++ count : Word).extractLsb' 0 6 = count := by
    rw [extract_low _ _ _ (by decide)]
    exact extract_all _
  have hm : (0#26 ++ count : Word) &&& 0xFFFFFFC0#32 = 0#32 := by
    rw [show 0xFFFFFFC0#32 = BitVec.allOnes 26 ++ 0#6 from rfl, and_append]
    simp only [BitVec.zero_and, BitVec.and_zero]
    rfl
  simp only [LCount.ofWord, LCount.toWord, hm, ↓reduceIte, h0]

theorem LSpec.ofWord_toWord (l : LSpec) : LSpec.ofWord l.toWord = some l := by
  obtain ⟨width, pos⟩ := l
  have h0 : (0#17 ++ width ++ 0#2 ++ pos : Word).extractLsb' 8 7 = width := by
    rw [extract_high _ _ _ (by decide), extract_high _ _ _ (by decide), extract_low _ _ _ (by decide)]
    exact extract_all _
  have h1 : (0#17 ++ width ++ 0#2 ++ pos : Word).extractLsb' 0 6 = pos := by
    rw [extract_low _ _ _ (by decide)]
    exact extract_all _
  have hm : (0#17 ++ width ++ 0#2 ++ pos : Word) &&& 0xFFFF80C0#32 = 0#32 := by
    rw [show 0xFFFF80C0#32 = BitVec.allOnes 17 ++ 0#7 ++ BitVec.allOnes 2 ++ 0#6 from rfl, and_append, and_append, and_append]
    simp only [BitVec.zero_and, BitVec.and_zero]
    rfl
  simp only [LSpec.ofWord, LSpec.toWord, hm, ↓reduceIte, h0, h1]

theorem LCmp.ofWord_toWord (l : LCmp) : LCmp.ofWord l.toWord = some l := by
  obtain ⟨cond⟩ := l
  have h0 : (0#29 ++ cond : Word).extractLsb' 0 3 = cond := by
    rw [extract_low _ _ _ (by decide)]
    exact extract_all _
  have hm : (0#29 ++ cond : Word) &&& 0xFFFFFFF8#32 = 0#32 := by
    rw [show 0xFFFFFFF8#32 = BitVec.allOnes 29 ++ 0#3 from rfl, and_append]
    simp only [BitVec.zero_and, BitVec.and_zero]
    rfl
  simp only [LCmp.ofWord, LCmp.toWord, hm, ↓reduceIte, h0]

theorem LCvt.ofWord_toWord (l : LCvt) : LCvt.ofWord l.toWord = some l := by
  obtain ⟨sat, rc, dst, src⟩ := l
  have h0 : (0#20 ++ BitVec.ofBool sat ++ rc ++ dst ++ src : Word).getLsbD 11 = sat := by
    rw [bit_high _ _ _ (by decide), bit_high _ _ _ (by decide), bit_high _ _ _ (by decide), bit_low _ _ _ (by decide)]
    exact bit_ofBool _
  have h1 : (0#20 ++ BitVec.ofBool sat ++ rc ++ dst ++ src : Word).extractLsb' 8 3 = rc := by
    rw [extract_high _ _ _ (by decide), extract_high _ _ _ (by decide), extract_low _ _ _ (by decide)]
    exact extract_all _
  have h2 : (0#20 ++ BitVec.ofBool sat ++ rc ++ dst ++ src : Word).extractLsb' 4 4 = dst := by
    rw [extract_high _ _ _ (by decide), extract_low _ _ _ (by decide)]
    exact extract_all _
  have h3 : (0#20 ++ BitVec.ofBool sat ++ rc ++ dst ++ src : Word).extractLsb' 0 4 = src := by
    rw [extract_low _ _ _ (by decide)]
    exact extract_all _
  have hm : (0#20 ++ BitVec.ofBool sat ++ rc ++ dst ++ src : Word) &&& 0xFFFFF000#32 = 0#32 := by
    rw [show 0xFFFFF000#32 = BitVec.allOnes 20 ++ 0#1 ++ 0#3 ++ 0#4 ++ 0#4 from rfl, and_append, and_append, and_append, and_append]
    simp only [BitVec.zero_and, BitVec.and_zero]
    rfl
  simp only [LCvt.ofWord, LCvt.toWord, hm, ↓reduceIte, h0, h1, h2, h3]

theorem LQnt.ofWord_toWord (l : LQnt) : LQnt.ofWord l.toWord = some l := by
  obtain ⟨rc, fmt⟩ := l
  have h0 : (0#27 ++ rc ++ fmt : Word).extractLsb' 2 3 = rc := by
    rw [extract_high _ _ _ (by decide), extract_low _ _ _ (by decide)]
    exact extract_all _
  have h1 : (0#27 ++ rc ++ fmt : Word).extractLsb' 0 2 = fmt := by
    rw [extract_low _ _ _ (by decide)]
    exact extract_all _
  have hm : (0#27 ++ rc ++ fmt : Word) &&& 0xFFFFFFE0#32 = 0#32 := by
    rw [show 0xFFFFFFE0#32 = BitVec.allOnes 27 ++ 0#3 ++ 0#2 from rfl, and_append, and_append]
    simp only [BitVec.zero_and, BitVec.and_zero]
    rfl
  simp only [LQnt.ofWord, LQnt.toWord, hm, ↓reduceIte, h0, h1]

theorem LDqnt.ofWord_toWord (l : LDqnt) : LDqnt.ofWord l.toWord = some l := by
  obtain ⟨fmt⟩ := l
  have h0 : (0#30 ++ fmt : Word).extractLsb' 0 2 = fmt := by
    rw [extract_low _ _ _ (by decide)]
    exact extract_all _
  have hm : (0#30 ++ fmt : Word) &&& 0xFFFFFFFC#32 = 0#32 := by
    rw [show 0xFFFFFFFC#32 = BitVec.allOnes 30 ++ 0#2 from rfl, and_append]
    simp only [BitVec.zero_and, BitVec.and_zero]
    rfl
  simp only [LDqnt.ofWord, LDqnt.toWord, hm, ↓reduceIte, h0]

theorem LS.ofWord_toWord (l : LS) : LS.ofWord l.toWord = some l := by
  obtain ⟨scope, ord, hint, size, offset⟩ := l
  have h0 : (scope ++ BitVec.ofBool ord ++ hint ++ size ++ offset : Word).extractLsb' 29 3 = scope := by
    rw [extract_high _ _ _ (by decide), extract_high _ _ _ (by decide), extract_high _ _ _ (by decide), extract_high _ _ _ (by decide)]
    exact extract_all _
  have h1 : (scope ++ BitVec.ofBool ord ++ hint ++ size ++ offset : Word).getLsbD 28 = ord := by
    rw [bit_high _ _ _ (by decide), bit_high _ _ _ (by decide), bit_high _ _ _ (by decide), bit_low _ _ _ (by decide)]
    exact bit_ofBool _
  have h2 : (scope ++ BitVec.ofBool ord ++ hint ++ size ++ offset : Word).extractLsb' 26 2 = hint := by
    rw [extract_high _ _ _ (by decide), extract_high _ _ _ (by decide), extract_low _ _ _ (by decide)]
    exact extract_all _
  have h3 : (scope ++ BitVec.ofBool ord ++ hint ++ size ++ offset : Word).extractLsb' 23 3 = size := by
    rw [extract_high _ _ _ (by decide), extract_low _ _ _ (by decide)]
    exact extract_all _
  have h4 : (scope ++ BitVec.ofBool ord ++ hint ++ size ++ offset : Word).extractLsb' 0 23 = offset := by
    rw [extract_low _ _ _ (by decide)]
    exact extract_all _
  simp only [LS.ofWord, LS.toWord, h0, h1, h2, h3, h4]

theorem LA.ofWord_toWord (l : LA) : LA.ofWord l.toWord = some l := by
  obtain ⟨scope, order, op, width, ret, offset⟩ := l
  have h0 : (scope ++ order ++ op ++ BitVec.ofBool width ++ BitVec.ofBool ret ++ offset : Word).extractLsb' 29 3 = scope := by
    rw [extract_high _ _ _ (by decide), extract_high _ _ _ (by decide), extract_high _ _ _ (by decide), extract_high _ _ _ (by decide), extract_high _ _ _ (by decide)]
    exact extract_all _
  have h1 : (scope ++ order ++ op ++ BitVec.ofBool width ++ BitVec.ofBool ret ++ offset : Word).extractLsb' 27 2 = order := by
    rw [extract_high _ _ _ (by decide), extract_high _ _ _ (by decide), extract_high _ _ _ (by decide), extract_high _ _ _ (by decide), extract_low _ _ _ (by decide)]
    exact extract_all _
  have h2 : (scope ++ order ++ op ++ BitVec.ofBool width ++ BitVec.ofBool ret ++ offset : Word).extractLsb' 23 4 = op := by
    rw [extract_high _ _ _ (by decide), extract_high _ _ _ (by decide), extract_high _ _ _ (by decide), extract_low _ _ _ (by decide)]
    exact extract_all _
  have h3 : (scope ++ order ++ op ++ BitVec.ofBool width ++ BitVec.ofBool ret ++ offset : Word).getLsbD 22 = width := by
    rw [bit_high _ _ _ (by decide), bit_high _ _ _ (by decide), bit_low _ _ _ (by decide)]
    exact bit_ofBool _
  have h4 : (scope ++ order ++ op ++ BitVec.ofBool width ++ BitVec.ofBool ret ++ offset : Word).getLsbD 21 = ret := by
    rw [bit_high _ _ _ (by decide), bit_low _ _ _ (by decide)]
    exact bit_ofBool _
  have h5 : (scope ++ order ++ op ++ BitVec.ofBool width ++ BitVec.ofBool ret ++ offset : Word).extractLsb' 0 21 = offset := by
    rw [extract_low _ _ _ (by decide)]
    exact extract_all _
  simp only [LA.ofWord, LA.toWord, h0, h1, h2, h3, h4, h5]

theorem LFence.ofWord_toWord (l : LFence) : LFence.ofWord l.toWord = some l := by
  obtain ⟨scope, kind⟩ := l
  have h0 : (scope ++ kind ++ 0#27 : Word).extractLsb' 29 3 = scope := by
    rw [extract_high _ _ _ (by decide), extract_high _ _ _ (by decide)]
    exact extract_all _
  have h1 : (scope ++ kind ++ 0#27 : Word).extractLsb' 27 2 = kind := by
    rw [extract_high _ _ _ (by decide), extract_low _ _ _ (by decide)]
    exact extract_all _
  have hm : (scope ++ kind ++ 0#27 : Word) &&& 0x07FFFFFF#32 = 0#32 := by
    rw [show 0x07FFFFFF#32 = 0#3 ++ 0#2 ++ BitVec.allOnes 27 from rfl, and_append, and_append]
    simp only [BitVec.zero_and, BitVec.and_zero]
    rfl
  simp only [LFence.ofWord, LFence.toWord, hm, ↓reduceIte, h0, h1]

theorem LNode.ofWord_toWord (l : LNode) : LNode.ofWord l.toWord = some l := by
  obtain ⟨node⟩ := l
  have h0 : (0#24 ++ node : Word).extractLsb' 0 8 = node := by
    rw [extract_low _ _ _ (by decide)]
    exact extract_all _
  have hm : (0#24 ++ node : Word) &&& 0xFFFFFF00#32 = 0#32 := by
    rw [show 0xFFFFFF00#32 = BitVec.allOnes 24 ++ 0#8 from rfl, and_append]
    simp only [BitVec.zero_and, BitVec.and_zero]
    rfl
  simp only [LNode.ofWord, LNode.toWord, hm, ↓reduceIte, h0]

theorem LMloop.ofWord_toWord (l : LMloop) : LMloop.ofWord l.toWord = some l := by
  obtain ⟨k⟩ := l
  have h0 : (0#16 ++ k : Word).extractLsb' 0 16 = k := by
    rw [extract_low _ _ _ (by decide)]
    exact extract_all _
  have hm : (0#16 ++ k : Word) &&& 0xFFFF0000#32 = 0#32 := by
    rw [show 0xFFFF0000#32 = BitVec.allOnes 16 ++ 0#16 from rfl, and_append]
    simp only [BitVec.zero_and, BitVec.and_zero]
    rfl
  simp only [LMloop.ofWord, LMloop.toWord, hm, ↓reduceIte, h0]

theorem LMacr.ofWord_toWord (l : LMacr) : LMacr.ofWord l.toWord = some l := by
  obtain ⟨rc, fmt⟩ := l
  have h0 : (0#26 ++ rc ++ fmt : Word).extractLsb' 3 3 = rc := by
    rw [extract_high _ _ _ (by decide), extract_low _ _ _ (by decide)]
    exact extract_all _
  have h1 : (0#26 ++ rc ++ fmt : Word).extractLsb' 0 3 = fmt := by
    rw [extract_low _ _ _ (by decide)]
    exact extract_all _
  have hm : (0#26 ++ rc ++ fmt : Word) &&& 0xFFFFFFC0#32 = 0#32 := by
    rw [show 0xFFFFFFC0#32 = BitVec.allOnes 26 ++ 0#3 ++ 0#3 from rfl, and_append, and_append]
    simp only [BitVec.zero_and, BitVec.and_zero]
    rfl
  simp only [LMacr.ofWord, LMacr.toWord, hm, ↓reduceIte, h0, h1]

theorem LMacw.ofWord_toWord (l : LMacw) : LMacw.ofWord l.toWord = some l := by
  obtain ⟨fmt⟩ := l
  have h0 : (0#29 ++ fmt : Word).extractLsb' 0 3 = fmt := by
    rw [extract_low _ _ _ (by decide)]
    exact extract_all _
  have hm : (0#29 ++ fmt : Word) &&& 0xFFFFFFF8#32 = 0#32 := by
    rw [show 0xFFFFFFF8#32 = BitVec.allOnes 29 ++ 0#3 from rfl, and_append]
    simp only [BitVec.zero_and, BitVec.and_zero]
    rfl
  simp only [LMacw.ofWord, LMacw.toWord, hm, ↓reduceIte, h0]

theorem LCvcfg.ofWord_toWord (l : LCvcfg) : LCvcfg.ofWord l.toWord = some l := by
  obtain ⟨mode, cap⟩ := l
  have h0 : (0#15 ++ BitVec.ofBool mode ++ cap : Word).getLsbD 16 = mode := by
    rw [bit_high _ _ _ (by decide), bit_low _ _ _ (by decide)]
    exact bit_ofBool _
  have h1 : (0#15 ++ BitVec.ofBool mode ++ cap : Word).extractLsb' 0 16 = cap := by
    rw [extract_low _ _ _ (by decide)]
    exact extract_all _
  have hm : (0#15 ++ BitVec.ofBool mode ++ cap : Word) &&& 0xFFFE0000#32 = 0#32 := by
    rw [show 0xFFFE0000#32 = BitVec.allOnes 15 ++ 0#1 ++ 0#16 from rfl, and_append, and_append]
    simp only [BitVec.zero_and, BitVec.and_zero]
    rfl
  simp only [LCvcfg.ofWord, LCvcfg.toWord, hm, ↓reduceIte, h0, h1]

theorem LHeir.ofWord_toWord (l : LHeir) : LHeir.ofWord l.toWord = some l := by
  obtain ⟨quiet, kind, slot⟩ := l
  have h0 : (0#24 ++ BitVec.ofBool quiet ++ kind ++ slot : Word).getLsbD 7 = quiet := by
    rw [bit_high _ _ _ (by decide), bit_high _ _ _ (by decide), bit_low _ _ _ (by decide)]
    exact bit_ofBool _
  have h1 : (0#24 ++ BitVec.ofBool quiet ++ kind ++ slot : Word).extractLsb' 5 2 = kind := by
    rw [extract_high _ _ _ (by decide), extract_low _ _ _ (by decide)]
    exact extract_all _
  have h2 : (0#24 ++ BitVec.ofBool quiet ++ kind ++ slot : Word).extractLsb' 0 5 = slot := by
    rw [extract_low _ _ _ (by decide)]
    exact extract_all _
  have hm : (0#24 ++ BitVec.ofBool quiet ++ kind ++ slot : Word) &&& 0xFFFFFF00#32 = 0#32 := by
    rw [show 0xFFFFFF00#32 = BitVec.allOnes 24 ++ 0#1 ++ 0#2 ++ 0#5 from rfl, and_append, and_append, and_append]
    simp only [BitVec.zero_and, BitVec.and_zero]
    rfl
  simp only [LHeir.ofWord, LHeir.toWord, hm, ↓reduceIte, h0, h1, h2]

theorem LRcq.ofWord_toWord (l : LRcq) : LRcq.ofWord l.toWord = some l := by
  obtain ⟨train⟩ := l
  have h0 : (0#31 ++ BitVec.ofBool train : Word).getLsbD 0 = train := by
    rw [bit_low _ _ _ (by decide)]
    exact bit_ofBool _
  have hm : (0#31 ++ BitVec.ofBool train : Word) &&& 0xFFFFFFFE#32 = 0#32 := by
    rw [show 0xFFFFFFFE#32 = BitVec.allOnes 31 ++ 0#1 from rfl, and_append]
    simp only [BitVec.zero_and, BitVec.and_zero]
    rfl
  simp only [LRcq.ofWord, LRcq.toWord, hm, ↓reduceIte, h0]

theorem LTree.ofWord_toWord (l : LTree) : LTree.ofWord l.toWord = some l := by
  obtain ⟨id⟩ := l
  have h0 : (0#26 ++ id : Word).extractLsb' 0 6 = id := by
    rw [extract_low _ _ _ (by decide)]
    exact extract_all _
  have hm : (0#26 ++ id : Word) &&& 0xFFFFFFC0#32 = 0#32 := by
    rw [show 0xFFFFFFC0#32 = BitVec.allOnes 26 ++ 0#6 from rfl, and_append]
    simp only [BitVec.zero_and, BitVec.and_zero]
    rfl
  simp only [LTree.ofWord, LTree.toWord, hm, ↓reduceIte, h0]

theorem LIdx.ofWord_toWord (l : LIdx) : LIdx.ofWord l.toWord = some l := by
  obtain ⟨idx⟩ := l
  have h0 : (0#24 ++ idx : Word).extractLsb' 0 8 = idx := by
    rw [extract_low _ _ _ (by decide)]
    exact extract_all _
  have hm : (0#24 ++ idx : Word) &&& 0xFFFFFF00#32 = 0#32 := by
    rw [show 0xFFFFFF00#32 = BitVec.allOnes 24 ++ 0#8 from rfl, and_append]
    simp only [BitVec.zero_and, BitVec.and_zero]
    rfl
  simp only [LIdx.ofWord, LIdx.toWord, hm, ↓reduceIte, h0]

theorem LSysc.ofWord_toWord (l : LSysc) : LSysc.ofWord l.toWord = some l := by
  obtain ⟨n⟩ := l
  have h0 : (0#16 ++ n : Word).extractLsb' 0 16 = n := by
    rw [extract_low _ _ _ (by decide)]
    exact extract_all _
  have hm : (0#16 ++ n : Word) &&& 0xFFFF0000#32 = 0#32 := by
    rw [show 0xFFFF0000#32 = BitVec.allOnes 16 ++ 0#16 from rfl, and_append]
    simp only [BitVec.zero_and, BitVec.and_zero]
    rfl
  simp only [LSysc.ofWord, LSysc.toWord, hm, ↓reduceIte, h0]

theorem LBnds.ofWord_toWord (l : LBnds) : LBnds.ofWord l.toWord = some l := by
  obtain ⟨n⟩ := l
  have h0 : (0#28 ++ n : Word).extractLsb' 0 4 = n := by
    rw [extract_low _ _ _ (by decide)]
    exact extract_all _
  have hm : (0#28 ++ n : Word) &&& 0xFFFFFFF0#32 = 0#32 := by
    rw [show 0xFFFFFFF0#32 = BitVec.allOnes 28 ++ 0#4 from rfl, and_append]
    simp only [BitVec.zero_and, BitVec.and_zero]
    rfl
  simp only [LBnds.ofWord, LBnds.toWord, hm, ↓reduceIte, h0]

end Sys2Proof
end

