-- ==== Sys2Proof/Laws/Exec.lean ====
section
/-! SUPPORT. exec on each constructor is its meaning. -/

namespace Sys2Proof.Machine

open Sys2Proof

variable {s : State}

@[simp] theorem exec_nop (m : Mods) : exec (.nop m) s = execNop m s := rfl
@[simp] theorem exec_bra (m : Mods) (l : LB) : exec (.bra m l) s = execBra m l s := rfl
@[simp] theorem exec_brc (m : Mods) (d a : Reg) (l : LB) : exec (.brc m d a l) s = execBrc m d a l s := rfl
@[simp] theorem exec_brm (m : Mods) (d a : Reg) (l : LB) : exec (.brm m d a l) s = execBrm m d a l s := rfl
@[simp] theorem exec_brx (m : Mods) (a : Reg) : exec (.brx m a) s = execBrx m a s := rfl
@[simp] theorem exec_brvd (m : Mods) (l : LB) : exec (.brvd m l) s = execBrvd m l s := rfl
@[simp] theorem exec_call (m : Mods) (l : LB) : exec (.call m l) s = execCall m l s := rfl
@[simp] theorem exec_ret (m : Mods) : exec (.ret m) s = execRet m s := rfl
@[simp] theorem exec_join (m : Mods) : exec (.join m) s = execJoin m s := rfl
@[simp] theorem exec_yield (m : Mods) : exec (.yield m) s = execYield m s := rfl
@[simp] theorem exec_exit (m : Mods) : exec (.exit m) s = execExit m s := rfl
@[simp] theorem exec_exitr (m : Mods) (d a b : Reg) : exec (.exitr m d a b) s = execExitr m d a b s := rfl
@[simp] theorem exec_kill (m : Mods) : exec (.kill m) s = execKill m s := rfl
@[simp] theorem exec_modeGuard (m : Mods) (d a : Reg) : exec (.modeGuard m d a) s = execModeGuard m d a s := rfl
@[simp] theorem exec_modeField (m : Mods) (a b : Reg) (l : LM) : exec (.modeField m a b l) s = execModeField m a b l s := rfl
@[simp] theorem exec_gmode (m : Mods) (d a : Reg) : exec (.gmode m d a) s = execGmode m d a s := rfl
@[simp] theorem exec_stall (m : Mods) : exec (.stall m) s = execStall m s := rfl
@[simp] theorem exec_ballot (m : Mods) (d a : Reg) : exec (.ballot m d a) s = execBallot m d a s := rfl
@[simp] theorem exec_pmovPToV (m : Mods) (d a : Reg) : exec (.pmovPToV m d a) s = execPmovPToV m d a s := rfl
@[simp] theorem exec_pmovVToP (m : Mods) (d a : Reg) : exec (.pmovVToP m d a) s = execPmovVToP m d a s := rfl
@[simp] theorem exec_plog (m : Mods) (d a b : Reg) (l : LPlog) : exec (.plog m d a b l) s = execPlog m d a b l s := rfl
@[simp] theorem exec_vote (m : Mods) (d a b : Reg) : exec (.vote m d a b) s = execVote m d a b s := rfl
@[simp] theorem exec_shflIndex (m : Mods) (d a b : Reg) : exec (.shflIndex m d a b) s = execShflIndex m d a b s := rfl
@[simp] theorem exec_shflUniform (m : Mods) (d a b : Reg) : exec (.shflUniform m d a b) s = execShflUniform m d a b s := rfl
@[simp] theorem exec_shflLiteral (m : Mods) (d a : Reg) (l : LShfl) : exec (.shflLiteral m d a l) s = execShflLiteral m d a l s := rfl
@[simp] theorem exec_qswz (m : Mods) (d a : Reg) (l : LQswz) : exec (.qswz m d a l) s = execQswz m d a l s := rfl
@[simp] theorem exec_qdif (m : Mods) (d a b : Reg) : exec (.qdif m d a b) s = execQdif m d a b s := rfl
@[simp] theorem exec_fxc (m : Mods) (d : Reg) (l : LFlags) : exec (.fxc m d l) s = execFxc m d l s := rfl
@[simp] theorem exec_fxr (m : Mods) (l : LFlags) : exec (.fxr m l) s = execFxr m l s := rfl
@[simp] theorem exec_selVector (m : Mods) (d a b : Reg) (l : LSel) : exec (.selVector m d a b l) s = execSelVector m d a b l s := rfl
@[simp] theorem exec_selScalar (m : Mods) (d a b : Reg) (l : LSel) : exec (.selScalar m d a b l) s = execSelScalar m d a b l s := rfl
@[simp] theorem exec_andVector (m : Mods) (d a b : Reg) : exec (.andVector m d a b) s = execAndVector m d a b s := rfl
@[simp] theorem exec_andScalar (m : Mods) (d a b : Reg) : exec (.andScalar m d a b) s = execAndScalar m d a b s := rfl
@[simp] theorem exec_andLiteral (m : Mods) (d a : Reg) (l : LI) : exec (.andLiteral m d a l) s = execAndLiteral m d a l s := rfl
@[simp] theorem exec_orVector (m : Mods) (d a b : Reg) : exec (.orVector m d a b) s = execOrVector m d a b s := rfl
@[simp] theorem exec_orScalar (m : Mods) (d a b : Reg) : exec (.orScalar m d a b) s = execOrScalar m d a b s := rfl
@[simp] theorem exec_orLiteral (m : Mods) (d a : Reg) (l : LI) : exec (.orLiteral m d a l) s = execOrLiteral m d a l s := rfl
@[simp] theorem exec_xorVector (m : Mods) (d a b : Reg) : exec (.xorVector m d a b) s = execXorVector m d a b s := rfl
@[simp] theorem exec_xorScalar (m : Mods) (d a b : Reg) : exec (.xorScalar m d a b) s = execXorScalar m d a b s := rfl
@[simp] theorem exec_xorLiteral (m : Mods) (d a : Reg) (l : LI) : exec (.xorLiteral m d a l) s = execXorLiteral m d a l s := rfl
@[simp] theorem exec_not (m : Mods) (d a : Reg) : exec (.not m d a) s = execNot m d a s := rfl
@[simp] theorem exec_shlVector (m : Mods) (d a b : Reg) : exec (.shlVector m d a b) s = execShlVector m d a b s := rfl
@[simp] theorem exec_shlScalar (m : Mods) (d a b : Reg) : exec (.shlScalar m d a b) s = execShlScalar m d a b s := rfl
@[simp] theorem exec_shlLiteral (m : Mods) (d a : Reg) (l : LCount) : exec (.shlLiteral m d a l) s = execShlLiteral m d a l s := rfl
@[simp] theorem exec_shrVector (m : Mods) (d a b : Reg) : exec (.shrVector m d a b) s = execShrVector m d a b s := rfl
@[simp] theorem exec_shrScalar (m : Mods) (d a b : Reg) : exec (.shrScalar m d a b) s = execShrScalar m d a b s := rfl
@[simp] theorem exec_shrLiteral (m : Mods) (d a : Reg) (l : LCount) : exec (.shrLiteral m d a l) s = execShrLiteral m d a l s := rfl
@[simp] theorem exec_sarVector (m : Mods) (d a b : Reg) : exec (.sarVector m d a b) s = execSarVector m d a b s := rfl
@[simp] theorem exec_sarScalar (m : Mods) (d a b : Reg) : exec (.sarScalar m d a b) s = execSarScalar m d a b s := rfl
@[simp] theorem exec_sarLiteral (m : Mods) (d a : Reg) (l : LCount) : exec (.sarLiteral m d a l) s = execSarLiteral m d a l s := rfl
@[simp] theorem exec_rolVector (m : Mods) (d a b : Reg) : exec (.rolVector m d a b) s = execRolVector m d a b s := rfl
@[simp] theorem exec_rolScalar (m : Mods) (d a b : Reg) : exec (.rolScalar m d a b) s = execRolScalar m d a b s := rfl
@[simp] theorem exec_rolLiteral (m : Mods) (d a : Reg) (l : LCount) : exec (.rolLiteral m d a l) s = execRolLiteral m d a l s := rfl
@[simp] theorem exec_bfiVector (m : Mods) (d a b : Reg) : exec (.bfiVector m d a b) s = execBfiVector m d a b s := rfl
@[simp] theorem exec_bfiScalar (m : Mods) (d a b : Reg) : exec (.bfiScalar m d a b) s = execBfiScalar m d a b s := rfl
@[simp] theorem exec_bfiLiteral (m : Mods) (d a : Reg) (l : LSpec) : exec (.bfiLiteral m d a l) s = execBfiLiteral m d a l s := rfl
@[simp] theorem exec_bfxVector (m : Mods) (d a b : Reg) : exec (.bfxVector m d a b) s = execBfxVector m d a b s := rfl
@[simp] theorem exec_bfxScalar (m : Mods) (d a b : Reg) : exec (.bfxScalar m d a b) s = execBfxScalar m d a b s := rfl
@[simp] theorem exec_bfxLiteral (m : Mods) (d a : Reg) (l : LSpec) : exec (.bfxLiteral m d a l) s = execBfxLiteral m d a l s := rfl
@[simp] theorem exec_brev (m : Mods) (d a : Reg) : exec (.brev m d a) s = execBrev m d a s := rfl
@[simp] theorem exec_clz (m : Mods) (d a : Reg) : exec (.clz m d a) s = execClz m d a s := rfl
@[simp] theorem exec_popc (m : Mods) (d a : Reg) : exec (.popc m d a) s = execPopc m d a s := rfl
@[simp] theorem exec_leaVector (m : Mods) (d a b : Reg) : exec (.leaVector m d a b) s = execLeaVector m d a b s := rfl
@[simp] theorem exec_leaScalar (m : Mods) (d a b : Reg) : exec (.leaScalar m d a b) s = execLeaScalar m d a b s := rfl
@[simp] theorem exec_leaLiteral (m : Mods) (d a : Reg) (l : LI) : exec (.leaLiteral m d a l) s = execLeaLiteral m d a l s := rfl
@[simp] theorem exec_movVector (m : Mods) (d b : Reg) : exec (.movVector m d b) s = execMovVector m d b s := rfl
@[simp] theorem exec_movScalar (m : Mods) (d b : Reg) : exec (.movScalar m d b) s = execMovScalar m d b s := rfl
@[simp] theorem exec_movk (m : Mods) (d : Reg) (l : LI) : exec (.movk m d l) s = execMovk m d l s := rfl
@[simp] theorem exec_addVector (m : Mods) (d a b : Reg) : exec (.addVector m d a b) s = execAddVector m d a b s := rfl
@[simp] theorem exec_addScalar (m : Mods) (d a b : Reg) : exec (.addScalar m d a b) s = execAddScalar m d a b s := rfl
@[simp] theorem exec_addLiteral (m : Mods) (d a : Reg) (l : LI) : exec (.addLiteral m d a l) s = execAddLiteral m d a l s := rfl
@[simp] theorem exec_subVector (m : Mods) (d a b : Reg) : exec (.subVector m d a b) s = execSubVector m d a b s := rfl
@[simp] theorem exec_subScalar (m : Mods) (d a b : Reg) : exec (.subScalar m d a b) s = execSubScalar m d a b s := rfl
@[simp] theorem exec_subLiteral (m : Mods) (d a : Reg) (l : LI) : exec (.subLiteral m d a l) s = execSubLiteral m d a l s := rfl
@[simp] theorem exec_mulVector (m : Mods) (d a b : Reg) : exec (.mulVector m d a b) s = execMulVector m d a b s := rfl
@[simp] theorem exec_mulScalar (m : Mods) (d a b : Reg) : exec (.mulScalar m d a b) s = execMulScalar m d a b s := rfl
@[simp] theorem exec_mulLiteral (m : Mods) (d a : Reg) (l : LI) : exec (.mulLiteral m d a l) s = execMulLiteral m d a l s := rfl
@[simp] theorem exec_mulhVector (m : Mods) (d a b : Reg) : exec (.mulhVector m d a b) s = execMulhVector m d a b s := rfl
@[simp] theorem exec_mulhScalar (m : Mods) (d a b : Reg) : exec (.mulhScalar m d a b) s = execMulhScalar m d a b s := rfl
@[simp] theorem exec_mulhLiteral (m : Mods) (d a : Reg) (l : LI) : exec (.mulhLiteral m d a l) s = execMulhLiteral m d a l s := rfl
@[simp] theorem exec_fmaVector (m : Mods) (d a b : Reg) : exec (.fmaVector m d a b) s = execFmaVector m d a b s := rfl
@[simp] theorem exec_fmaScalar (m : Mods) (d a b : Reg) : exec (.fmaScalar m d a b) s = execFmaScalar m d a b s := rfl
@[simp] theorem exec_fmaLiteral (m : Mods) (d a : Reg) (l : LI) : exec (.fmaLiteral m d a l) s = execFmaLiteral m d a l s := rfl
@[simp] theorem exec_divVector (m : Mods) (d a b : Reg) : exec (.divVector m d a b) s = execDivVector m d a b s := rfl
@[simp] theorem exec_divScalar (m : Mods) (d a b : Reg) : exec (.divScalar m d a b) s = execDivScalar m d a b s := rfl
@[simp] theorem exec_divLiteral (m : Mods) (d a : Reg) (l : LI) : exec (.divLiteral m d a l) s = execDivLiteral m d a l s := rfl
@[simp] theorem exec_remVector (m : Mods) (d a b : Reg) : exec (.remVector m d a b) s = execRemVector m d a b s := rfl
@[simp] theorem exec_remScalar (m : Mods) (d a b : Reg) : exec (.remScalar m d a b) s = execRemScalar m d a b s := rfl
@[simp] theorem exec_remLiteral (m : Mods) (d a : Reg) (l : LI) : exec (.remLiteral m d a l) s = execRemLiteral m d a l s := rfl
@[simp] theorem exec_minVector (m : Mods) (d a b : Reg) : exec (.minVector m d a b) s = execMinVector m d a b s := rfl
@[simp] theorem exec_minScalar (m : Mods) (d a b : Reg) : exec (.minScalar m d a b) s = execMinScalar m d a b s := rfl
@[simp] theorem exec_minLiteral (m : Mods) (d a : Reg) (l : LI) : exec (.minLiteral m d a l) s = execMinLiteral m d a l s := rfl
@[simp] theorem exec_maxVector (m : Mods) (d a b : Reg) : exec (.maxVector m d a b) s = execMaxVector m d a b s := rfl
@[simp] theorem exec_maxScalar (m : Mods) (d a b : Reg) : exec (.maxScalar m d a b) s = execMaxScalar m d a b s := rfl
@[simp] theorem exec_maxLiteral (m : Mods) (d a : Reg) (l : LI) : exec (.maxLiteral m d a l) s = execMaxLiteral m d a l s := rfl
@[simp] theorem exec_clampVector (m : Mods) (d a b : Reg) : exec (.clampVector m d a b) s = execClampVector m d a b s := rfl
@[simp] theorem exec_clampScalar (m : Mods) (d a b : Reg) : exec (.clampScalar m d a b) s = execClampScalar m d a b s := rfl
@[simp] theorem exec_clampLiteral (m : Mods) (d a : Reg) (l : LI) : exec (.clampLiteral m d a l) s = execClampLiteral m d a l s := rfl
@[simp] theorem exec_cmpVector (m : Mods) (d a b : Reg) (l : LCmp) : exec (.cmpVector m d a b l) s = execCmpVector m d a b l s := rfl
@[simp] theorem exec_cmpScalar (m : Mods) (d a b : Reg) (l : LCmp) : exec (.cmpScalar m d a b l) s = execCmpScalar m d a b l s := rfl
@[simp] theorem exec_abs (m : Mods) (d a : Reg) : exec (.abs m d a) s = execAbs m d a s := rfl
@[simp] theorem exec_neg (m : Mods) (d a : Reg) : exec (.neg m d a) s = execNeg m d a s := rfl
@[simp] theorem exec_sqrt (m : Mods) (d a : Reg) : exec (.sqrt m d a) s = execSqrt m d a s := rfl
@[simp] theorem exec_fcls (m : Mods) (d a : Reg) : exec (.fcls m d a) s = execFcls m d a s := rfl
@[simp] theorem exec_rdx (m : Mods) (d a : Reg) : exec (.rdx m d a) s = execRdx m d a s := rfl
@[simp] theorem exec_cvt (m : Mods) (d a : Reg) (l : LCvt) : exec (.cvt m d a l) s = execCvt m d a l s := rfl
@[simp] theorem exec_qnt (m : Mods) (d a b : Reg) (l : LQnt) : exec (.qnt m d a b l) s = execQnt m d a b l s := rfl
@[simp] theorem exec_dqnt (m : Mods) (d a b : Reg) (l : LDqnt) : exec (.dqnt m d a b l) s = execDqnt m d a b l s := rfl
@[simp] theorem exec_amaxValue (m : Mods) (d a : Reg) : exec (.amaxValue m d a) s = execAmaxValue m d a s := rfl
@[simp] theorem exec_amaxExponent (m : Mods) (d a : Reg) : exec (.amaxExponent m d a) s = execAmaxExponent m d a s := rfl
@[simp] theorem exec_exp2 (m : Mods) (d a : Reg) : exec (.exp2 m d a) s = execExp2 m d a s := rfl
@[simp] theorem exec_log2 (m : Mods) (d a : Reg) : exec (.log2 m d a) s = execLog2 m d a s := rfl
@[simp] theorem exec_sin (m : Mods) (d a : Reg) : exec (.sin m d a) s = execSin m d a s := rfl
@[simp] theorem exec_cos (m : Mods) (d a : Reg) : exec (.cos m d a) s = execCos m d a s := rfl
@[simp] theorem exec_rcp (m : Mods) (d a : Reg) : exec (.rcp m d a) s = execRcp m d a s := rfl
@[simp] theorem exec_rsq (m : Mods) (d a : Reg) : exec (.rsq m d a) s = execRsq m d a s := rfl
@[simp] theorem exec_ldVectorBase (m : Mods) (d a : Reg) (l : LS) : exec (.ldVectorBase m d a l) s = execLdVectorBase m d a l s := rfl
@[simp] theorem exec_ldScalarBase (m : Mods) (d a : Reg) (l : LS) : exec (.ldScalarBase m d a l) s = execLdScalarBase m d a l s := rfl
@[simp] theorem exec_ldk (m : Mods) (d a : Reg) (l : LS) : exec (.ldk m d a l) s = execLdk m d a l s := rfl
@[simp] theorem exec_ldsVectorBase (m : Mods) (d a : Reg) (l : LS) : exec (.ldsVectorBase m d a l) s = execLdsVectorBase m d a l s := rfl
@[simp] theorem exec_ldsScalarBase (m : Mods) (d a : Reg) (l : LS) : exec (.ldsScalarBase m d a l) s = execLdsScalarBase m d a l s := rfl
@[simp] theorem exec_ldxVectorBase (m : Mods) (d a : Reg) (l : LS) : exec (.ldxVectorBase m d a l) s = execLdxVectorBase m d a l s := rfl
@[simp] theorem exec_ldxScalarBase (m : Mods) (d a : Reg) (l : LS) : exec (.ldxScalarBase m d a l) s = execLdxScalarBase m d a l s := rfl
@[simp] theorem exec_stVectorBase (m : Mods) (a b : Reg) (l : LS) : exec (.stVectorBase m a b l) s = execStVectorBase m a b l s := rfl
@[simp] theorem exec_stScalarBase (m : Mods) (a b : Reg) (l : LS) : exec (.stScalarBase m a b l) s = execStScalarBase m a b l s := rfl
@[simp] theorem exec_stsVectorBase (m : Mods) (a b : Reg) (l : LS) : exec (.stsVectorBase m a b l) s = execStsVectorBase m a b l s := rfl
@[simp] theorem exec_stsScalarBase (m : Mods) (a b : Reg) (l : LS) : exec (.stsScalarBase m a b l) s = execStsScalarBase m a b l s := rfl
@[simp] theorem exec_stxVectorBase (m : Mods) (a b : Reg) (l : LS) : exec (.stxVectorBase m a b l) s = execStxVectorBase m a b l s := rfl
@[simp] theorem exec_stxScalarBase (m : Mods) (a b : Reg) (l : LS) : exec (.stxScalarBase m a b l) s = execStxScalarBase m a b l s := rfl
@[simp] theorem exec_spld (m : Mods) (d : Reg) (l : LS) : exec (.spld m d l) s = execSpld m d l s := rfl
@[simp] theorem exec_spst (m : Mods) (b : Reg) (l : LS) : exec (.spst m b l) s = execSpst m b l s := rfl
@[simp] theorem exec_prefVectorBase (m : Mods) (a : Reg) (l : LS) : exec (.prefVectorBase m a l) s = execPrefVectorBase m a l s := rfl
@[simp] theorem exec_prefScalarBase (m : Mods) (a : Reg) (l : LS) : exec (.prefScalarBase m a l) s = execPrefScalarBase m a l s := rfl
@[simp] theorem exec_atomVectorBase (m : Mods) (d a b : Reg) (l : LA) : exec (.atomVectorBase m d a b l) s = execAtomVectorBase m d a b l s := rfl
@[simp] theorem exec_atomScalarBase (m : Mods) (d a b : Reg) (l : LA) : exec (.atomScalarBase m d a b l) s = execAtomScalarBase m d a b l s := rfl
@[simp] theorem exec_atomsScratchVectorBase (m : Mods) (d a b : Reg) (l : LA) : exec (.atomsScratchVectorBase m d a b l) s = execAtomsScratchVectorBase m d a b l s := rfl
@[simp] theorem exec_atomsScratchScalarBase (m : Mods) (d a b : Reg) (l : LA) : exec (.atomsScratchScalarBase m d a b l) s = execAtomsScratchScalarBase m d a b l s := rfl
@[simp] theorem exec_atomsCommonsVectorBase (m : Mods) (d a b : Reg) (l : LA) : exec (.atomsCommonsVectorBase m d a b l) s = execAtomsCommonsVectorBase m d a b l s := rfl
@[simp] theorem exec_atomsCommonsScalarBase (m : Mods) (d a b : Reg) (l : LA) : exec (.atomsCommonsScalarBase m d a b l) s = execAtomsCommonsScalarBase m d a b l s := rfl
@[simp] theorem exec_atomrVectorBase (m : Mods) (d a b : Reg) (l : LA) : exec (.atomrVectorBase m d a b l) s = execAtomrVectorBase m d a b l s := rfl
@[simp] theorem exec_atomrScalarBase (m : Mods) (d a b : Reg) (l : LA) : exec (.atomrScalarBase m d a b l) s = execAtomrScalarBase m d a b l s := rfl
@[simp] theorem exec_fence (m : Mods) (l : LFence) : exec (.fence m l) s = execFence m l s := rfl
@[simp] theorem exec_bari (m : Mods) (a b : Reg) : exec (.bari m a b) s = execBari m a b s := rfl
@[simp] theorem exec_bar (m : Mods) (a : Reg) : exec (.bar m a) s = execBar m a s := rfl
@[simp] theorem exec_bara (m : Mods) (a b : Reg) : exec (.bara m a b) s = execBara m a b s := rfl
@[simp] theorem exec_barw (m : Mods) (a : Reg) : exec (.barw m a) s = execBarw m a s := rfl
@[simp] theorem exec_gbar (m : Mods) : exec (.gbar m) s = execGbar m s := rfl
@[simp] theorem exec_evpub (m : Mods) (a : Reg) : exec (.evpub m a) s = execEvpub m a s := rfl
@[simp] theorem exec_evwait (m : Mods) (d a : Reg) : exec (.evwait m d a) s = execEvwait m d a s := rfl
@[simp] theorem exec_evpeek (m : Mods) (d a : Reg) : exec (.evpeek m d a) s = execEvpeek m d a s := rfl
@[simp] theorem exec_enq (m : Mods) (a b : Reg) (l : LNode) : exec (.enq m a b l) s = execEnq m a b l s := rfl
@[simp] theorem exec_enqf (m : Mods) (l : LNode) : exec (.enqf m l) s = execEnqf m l s := rfl
@[simp] theorem exec_cpost (m : Mods) (a : Reg) : exec (.cpost m a) s = execCpost m a s := rfl
@[simp] theorem exec_cbatch (m : Mods) (d : Reg) : exec (.cbatch m d) s = execCbatch m d s := rfl
@[simp] theorem exec_cwait (m : Mods) (a : Reg) : exec (.cwait m a) s = execCwait m a s := rfl
@[simp] theorem exec_cstat (m : Mods) (d a : Reg) : exec (.cstat m d a) s = execCstat m d a s := rfl
@[simp] theorem exec_mloop (m : Mods) (d a b : Reg) (l : LMloop) : exec (.mloop m d a b l) s = execMloop m d a b l s := rfl
@[simp] theorem exec_mtld (m : Mods) (d a : Reg) : exec (.mtld m d a) s = execMtld m d a s := rfl
@[simp] theorem exec_macr (m : Mods) (a b : Reg) (l : LMacr) : exec (.macr m a b l) s = execMacr m a b l s := rfl
@[simp] theorem exec_macw (m : Mods) (d a : Reg) (l : LMacw) : exec (.macw m d a l) s = execMacw m d a l s := rfl
@[simp] theorem exec_macz (m : Mods) (d : Reg) : exec (.macz m d) s = execMacz m d s := rfl
@[simp] theorem exec_mrsv (m : Mods) (d : Reg) : exec (.mrsv m d) s = execMrsv m d s := rfl
@[simp] theorem exec_mrel (m : Mods) : exec (.mrel m) s = execMrel m s := rfl
@[simp] theorem exec_mwait (m : Mods) : exec (.mwait m) s = execMwait m s := rfl
@[simp] theorem exec_draw (m : Mods) (d a b : Reg) : exec (.draw m d a b) s = execDraw m d a b s := rfl
@[simp] theorem exec_drawi (m : Mods) (d a b : Reg) : exec (.drawi m d a b) s = execDrawi m d a b s := rfl
@[simp] theorem exec_rbits (m : Mods) (d : Reg) : exec (.rbits m d) s = execRbits m d s := rfl
@[simp] theorem exec_cvcfg (m : Mods) (l : LCvcfg) : exec (.cvcfg m l) s = execCvcfg m l s := rfl
@[simp] theorem exec_cvset (m : Mods) (a b : Reg) : exec (.cvset m a b) s = execCvset m a b s := rfl
@[simp] theorem exec_cvsta (m : Mods) (d : Reg) : exec (.cvsta m d) s = execCvsta m d s := rfl
@[simp] theorem exec_rlch (m : Mods) (a : Reg) : exec (.rlch m a) s = execRlch m a s := rfl
@[simp] theorem exec_heir (m : Mods) (a : Reg) (l : LHeir) : exec (.heir m a l) s = execHeir m a l s := rfl
@[simp] theorem exec_estq (m : Mods) (d a : Reg) : exec (.estq m d a) s = execEstq m d a s := rfl
@[simp] theorem exec_lock (m : Mods) (d a : Reg) : exec (.lock m d a) s = execLock m d a s := rfl
@[simp] theorem exec_unlock (m : Mods) (a : Reg) : exec (.unlock m a) s = execUnlock m a s := rfl
@[simp] theorem exec_prom (m : Mods) (a : Reg) : exec (.prom m a) s = execProm m a s := rfl
@[simp] theorem exec_fulfil (m : Mods) (a b : Reg) : exec (.fulfil m a b) s = execFulfil m a b s := rfl
@[simp] theorem exec_await (m : Mods) (d a : Reg) : exec (.await m d a) s = execAwait m d a s := rfl
@[simp] theorem exec_rcq (m : Mods) (d a : Reg) (l : LRcq) : exec (.rcq m d a l) s = execRcq m d a l s := rfl
@[simp] theorem exec_rct (m : Mods) (a b : Reg) : exec (.rct m a b) s = execRct m a b s := rfl
@[simp] theorem exec_rcctlSteps (m : Mods) (a : Reg) : exec (.rcctlSteps m a) s = execRcctlSteps m a s := rfl
@[simp] theorem exec_rcctlLr (m : Mods) (a : Reg) : exec (.rcctlLr m a) s = execRcctlLr m a s := rfl
@[simp] theorem exec_rcctlBeta1 (m : Mods) (a : Reg) : exec (.rcctlBeta1 m a) s = execRcctlBeta1 m a s := rfl
@[simp] theorem exec_rcctlBeta2 (m : Mods) (a : Reg) : exec (.rcctlBeta2 m a) s = execRcctlBeta2 m a s := rfl
@[simp] theorem exec_rcctlEps (m : Mods) (a : Reg) : exec (.rcctlEps m a) s = execRcctlEps m a s := rfl
@[simp] theorem exec_rcctlFrame (m : Mods) (a : Reg) : exec (.rcctlFrame m a) s = execRcctlFrame m a s := rfl
@[simp] theorem exec_rcctlFlush (m : Mods) (a : Reg) : exec (.rcctlFlush m a) s = execRcctlFlush m a s := rfl
@[simp] theorem exec_rcctlLoadw (m : Mods) (a : Reg) : exec (.rcctlLoadw m a) s = execRcctlLoadw m a s := rfl
@[simp] theorem exec_rpkt (m : Mods) (a : Reg) (l : LTree) : exec (.rpkt m a l) s = execRpkt m a l s := rfl
@[simp] theorem exec_rprcv (m : Mods) (d a : Reg) (l : LTree) : exec (.rprcv m d a l) s = execRprcv m d a l s := rfl
@[simp] theorem exec_srd (m : Mods) (d : Reg) (l : LIdx) : exec (.srd m d l) s = execSrd m d l s := rfl
@[simp] theorem exec_swr (m : Mods) (a : Reg) (l : LIdx) : exec (.swr m a l) s = execSwr m a l s := rfl
@[simp] theorem exec_sysc (m : Mods) (l : LSysc) : exec (.sysc m l) s = execSysc m l s := rfl
@[simp] theorem exec_trap (m : Mods) (l : LIdx) : exec (.trap m l) s = execTrap m l s := rfl
@[simp] theorem exec_rte (m : Mods) : exec (.rte m) s = execRte m s := rfl
@[simp] theorem exec_bkpt (m : Mods) : exec (.bkpt m) s = execBkpt m s := rfl
@[simp] theorem exec_ctr (m : Mods) (d : Reg) (l : LIdx) : exec (.ctr m d l) s = execCtr m d l s := rfl
@[simp] theorem exec_ctrMflagsClear (m : Mods) (d : Reg) : exec (.ctrMflagsClear m d) s = execCtrMflagsClear m d s := rfl
@[simp] theorem exec_bnds (m : Mods) (a : Reg) (l : LBnds) : exec (.bnds m a l) s = execBnds m a l s := rfl
@[simp] theorem exec_unassignedOpcode (w : BitVec 32) : exec (.unassignedOpcode w) s = execUnassignedOpcode w s := rfl
@[simp] theorem exec_launch (c : LaunchCall) : exec (.launch c) s = execLaunch c s := rfl
@[simp] theorem exec_faultStatusResolved (die idx : Nat) : exec (.faultStatusResolved die idx) s = execFaultStatusResolved die idx s := rfl
@[simp] theorem exec_faultStatusDenied (die idx : Nat) : exec (.faultStatusDenied die idx) s = execFaultStatusDenied die idx s := rfl
@[simp] theorem exec_commonsWindowGrant (pid die : Nat) (cores : List Nat) : exec (.commonsWindowGrant pid die cores) s = execCommonsWindowGrant pid die cores s := rfl
@[simp] theorem exec_commonsContributionSet (core size : Nat) : exec (.commonsContributionSet core size) s = execCommonsContributionSet core size s := rfl
@[simp] theorem exec_translationInvalidation (r : TransRange) (ptes : List (Nat × BitVec 64)) : exec (.translationInvalidation r ptes) s = execTranslationInvalidation r ptes s := rfl
@[simp] theorem exec_invalidationComplete (r : TransRange) : exec (.invalidationComplete r) s = execInvalidationComplete r s := rfl
@[simp] theorem exec_watchpointWrite (core idx : Nat) (v : BitVec 128) : exec (.watchpointWrite core idx v) s = execWatchpointWrite core idx v s := rfl
@[simp] theorem exec_identify (q : Datagram) : exec (.identify q) s = execIdentify q s := rfl
@[simp] theorem exec_attest (q : Datagram) : exec (.attest q) s = execAttest q s := rfl
@[simp] theorem exec_loadImage (q : Datagram) (image : Option (List (BitVec 8))) : exec (.loadImage q image) s = execLoadImage q image s := rfl
@[simp] theorem exec_resetWarm (q : Datagram) : exec (.resetWarm q) s = execResetWarm q s := rfl
@[simp] theorem exec_resetFull (q : Datagram) : exec (.resetFull q) s = execResetFull q s := rfl
@[simp] theorem exec_readCounters (q : Datagram) : exec (.readCounters q) s = execReadCounters q s := rfl
@[simp] theorem exec_setPowerLimit (q : Datagram) : exec (.setPowerLimit q) s = execSetPowerLimit q s := rfl
@[simp] theorem exec_retrieveDump (q : Datagram) : exec (.retrieveDump q) s = execRetrieveDump q s := rfl
@[simp] theorem exec_readErrorLog (q : Datagram) : exec (.readErrorLog q) s = execReadErrorLog q s := rfl
@[simp] theorem exec_partReset (b : BootFetch) : exec (.partReset b) s = execPartReset b s := rfl
@[simp] theorem exec_bootImageRetry (image : Option (List (BitVec 8))) : exec (.bootImageRetry image) s = execBootImageRetry image s := rfl
@[simp] theorem exec_poolRefill (die bytes : Nat) : exec (.poolRefill die bytes) s = execPoolRefill die bytes s := rfl
@[simp] theorem exec_slotAgeClose (gid node : Nat) : exec (.slotAgeClose gid node) s = execSlotAgeClose gid node s := rfl
@[simp] theorem exec_routerTimeout (gid tree core : Nat) : exec (.routerTimeout gid tree core) s = execRouterTimeout gid tree core s := rfl
@[simp] theorem exec_reductionPacketArrival (gid idx : Nat) : exec (.reductionPacketArrival gid idx) s = execReductionPacketArrival gid idx s := rfl
@[simp] theorem exec_patrolRead (sector : Nat) (found : SectorFinding) : exec (.patrolRead sector found) s = execPatrolRead sector found s := rfl
@[simp] theorem exec_thermalThrottleStart (die : Nat) (temp : BitVec 16) : exec (.thermalThrottleStart die temp) s = execThermalThrottleStart die temp s := rfl
@[simp] theorem exec_throttleStep (temps : List (BitVec 16)) : exec (.throttleStep temps) s = execThrottleStep temps s := rfl
@[simp] theorem exec_thermalReset (die : Nat) (temp : BitVec 16) (b : BootFetch) : exec (.thermalReset die temp b) s = execThermalReset die temp b s := rfl
@[simp] theorem exec_atomicReply (team : Nat) : exec (.atomicReply team) s = execAtomicReply team s := rfl
@[simp] theorem exec_registerLineFill (team : Nat) : exec (.registerLineFill team) s = execRegisterLineFill team s := rfl
@[simp] theorem exec_storeQueueDrain (team : Nat) : exec (.storeQueueDrain team) s = execStoreQueueDrain team s := rfl
@[simp] theorem exec_watchpointHit (hit : Nat) : exec (.watchpointHit hit) s = execWatchpointHit hit s := rfl
@[simp] theorem exec_stopNotice (core : Nat) : exec (.stopNotice core) s = execStopNotice core s := rfl
@[simp] theorem exec_resumeNotice (core : Nat) : exec (.resumeNotice core) s = execResumeNotice core s := rfl
@[simp] theorem exec_courierCountDown (core req : Nat) (c : CopyChunk) : exec (.courierCountDown core req c) s = execCourierCountDown core req c s := rfl
@[simp] theorem exec_copyFaultResume (core req : Nat) : exec (.copyFaultResume core req) s = execCopyFaultResume core req s := rfl
@[simp] theorem exec_deferredPathResume (team : Nat) : exec (.deferredPathResume team) s = execDeferredPathResume team s := rfl
@[simp] theorem exec_faultPostAfterWait (team : Nat) : exec (.faultPostAfterWait team) s = execFaultPostAfterWait team s := rfl
@[simp] theorem exec_matrixStep (core : Nat) : exec (.matrixStep core) s = execMatrixStep core s := rfl
@[simp] theorem exec_tapsterOptimiserStep (die : Nat) : exec (.tapsterOptimiserStep die) s = execTapsterOptimiserStep die s := rfl
@[simp] theorem exec_syscReply (team : Nat) (r : SyscReply) : exec (.syscReply team r) s = execSyscReply team r s := rfl
@[simp] theorem exec_barWaitComplete (team : Nat) : exec (.barWaitComplete team) s = execBarWaitComplete team s := rfl
@[simp] theorem exec_gbarWaitComplete (team : Nat) : exec (.gbarWaitComplete team) s = execGbarWaitComplete team s := rfl
@[simp] theorem exec_evwaitComplete (team : Nat) : exec (.evwaitComplete team) s = execEvwaitComplete team s := rfl
@[simp] theorem exec_awaitWake (team : Nat) : exec (.awaitWake team) s = execAwaitWake team s := rfl
@[simp] theorem exec_lockAcquireAfterWait (team : Nat) : exec (.lockAcquireAfterWait team) s = execLockAcquireAfterWait team s := rfl
@[simp] theorem exec_cwaitComplete (team : Nat) : exec (.cwaitComplete team) s = execCwaitComplete team s := rfl
@[simp] theorem exec_mwaitComplete (team : Nat) : exec (.mwaitComplete team) s = execMwaitComplete team s := rfl
@[simp] theorem exec_enqAfterWait (team : Nat) : exec (.enqAfterWait team) s = execEnqAfterWait team s := rfl
@[simp] theorem exec_cpostAfterWait (team : Nat) : exec (.cpostAfterWait team) s = execCpostAfterWait team s := rfl
@[simp] theorem exec_mtldAfterWait (team : Nat) : exec (.mtldAfterWait team) s = execMtldAfterWait team s := rfl
@[simp] theorem exec_rpktAfterWait (team : Nat) : exec (.rpktAfterWait team) s = execRpktAfterWait team s := rfl
@[simp] theorem exec_rprcvComplete (team : Nat) : exec (.rprcvComplete team) s = execRprcvComplete team s := rfl
@[simp] theorem exec_blockAdmission (gid block core : Nat) (p : Placement) : exec (.blockAdmission gid block core p) s = execBlockAdmission gid block core p s := rfl
@[simp] theorem exec_nodeBatchAdmission (gid core : Nat) (p : Placement) : exec (.nodeBatchAdmission gid core p) s = execNodeBatchAdmission gid core p s := rfl
@[simp] theorem exec_estateHandlerAdmission (gid core : Nat) (p : Placement) : exec (.estateHandlerAdmission gid core p) s = execEstateHandlerAdmission gid core p s := rfl
@[simp] theorem exec_preempt (gid : Nat) (blk : PreemptCall) : exec (.preempt gid blk) s = execPreempt gid blk s := rfl
@[simp] theorem exec_preemptResume (gid blk core : Nat) : exec (.preemptResume gid blk core) s = execPreemptResume gid blk core s := rfl
@[simp] theorem exec_convey (gid : Nat) : exec (.convey gid) s = execConvey gid s := rfl
@[simp] theorem exec_conveyanceWriteRetry (gid : Nat) : exec (.conveyanceWriteRetry gid) s = execConveyanceWriteRetry gid s := rfl
@[simp] theorem exec_dumpCapture (team : Nat) : exec (.dumpCapture team) s = execDumpCapture team s := rfl
@[simp] theorem exec_digestCompare (gid blk : Nat) : exec (.digestCompare gid blk) s = execDigestCompare gid blk s := rfl
@[simp] theorem exec_blockCompletion (gid blk : Nat) : exec (.blockCompletion gid blk) s = execBlockCompletion gid blk s := rfl
@[simp] theorem exec_gridCompletion (gid : Nat) (w : WaybillTimes) : exec (.gridCompletion gid w) s = execGridCompletion gid w s := rfl
@[simp] theorem exec_xanRun (r : RunCommand) : exec (.xanRun r) s = execXanRun r s := rfl
@[simp] theorem exec_xanContinue (gid : Nat) : exec (.xanContinue gid) s = execXanContinue gid s := rfl
@[simp] theorem exec_xanPorterHold (pid : Nat) : exec (.xanPorterHold pid) s = execXanPorterHold pid s := rfl
@[simp] theorem exec_xanPorterResolve (die idx : Nat) (page : Nat × List Nat) : exec (.xanPorterResolve die idx page) s = execXanPorterResolve die idx page s := rfl
@[simp] theorem exec_xanPorterRelease (pid : Nat) (pages : List (Nat × List Nat)) : exec (.xanPorterRelease pid pages) s = execXanPorterRelease pid pages s := rfl
@[simp] theorem exec_xanPageEvict (pid : Nat) (pages : List (BitVec 64)) : exec (.xanPageEvict pid pages) s = execXanPageEvict pid pages s := rfl
@[simp] theorem exec_xanFocusLane (team lane : Nat) : exec (.xanFocusLane team lane) s = execXanFocusLane team lane s := rfl
@[simp] theorem exec_xanFocusLaneAlone (team lane : Nat) : exec (.xanFocusLaneAlone team lane) s = execXanFocusLaneAlone team lane s := rfl
@[simp] theorem exec_xanFocusOff (team : Nat) : exec (.xanFocusOff team) s = execXanFocusOff team s := rfl
@[simp] theorem exec_xanStep (team : Nat) : exec (.xanStep team) s = execXanStep team s := rfl
@[simp] theorem exec_xanStepForce (team : Nat) : exec (.xanStepForce team) s = execXanStepForce team s := rfl
@[simp] theorem exec_xanSet (team : Nat) (r : RegName) (lanes : List Nat) (v : BitVec 32) : exec (.xanSet team r lanes v) s = execXanSet team r lanes v s := rfl
@[simp] theorem exec_xanSetForce (team : Nat) (r : RegName) (lanes : List Nat) (v : BitVec 32) : exec (.xanSetForce team r lanes v) s = execXanSetForce team r lanes v s := rfl
@[simp] theorem exec_xanWatch (c : WatchCommand) : exec (.xanWatch c) s = execXanWatch c s := rfl
@[simp] theorem exec_xanWatchDelete (core idx : Nat) : exec (.xanWatchDelete core idx) s = execXanWatchDelete core idx s := rfl
@[simp] theorem exec_xanBreak (gid : Nat) (addr : BitVec 64) (bcast : BitVec 2) : exec (.xanBreak gid addr bcast) s = execXanBreak gid addr bcast s := rfl
@[simp] theorem exec_xanBreakCore (gid : Nat) (addr : BitVec 64) (core : Nat) (bcast : BitVec 2) : exec (.xanBreakCore gid addr core bcast) s = execXanBreakCore gid addr core bcast s := rfl
@[simp] theorem exec_xanBkptBcast (gid : Nat) (bcast : BitVec 2) : exec (.xanBkptBcast gid bcast) s = execXanBkptBcast gid bcast s := rfl
@[simp] theorem exec_xanCv (team lane : Nat) : exec (.xanCv team lane) s = execXanCv team lane s := rfl
@[simp] theorem exec_xanChain (gid chain step : Nat) : exec (.xanChain gid chain step) s = execXanChain gid chain step s := rfl
@[simp] theorem exec_xanEvents (gid : Nat) : exec (.xanEvents gid) s = execXanEvents gid s := rfl
@[simp] theorem exec_xanBlock (gid blk : Nat) : exec (.xanBlock gid blk) s = execXanBlock gid blk s := rfl
@[simp] theorem exec_xanEstate (team : Nat) : exec (.xanEstate team) s = execXanEstate team s := rfl
@[simp] theorem exec_loadReply (team : Nat) : exec (.loadReply team) s = execLoadReply team s := rfl
@[simp] theorem exec_peerRetryLimit (core req : Nat) : exec (.peerRetryLimit core req) s = execPeerRetryLimit core req s := rfl
@[simp] theorem exec_uncorrectableSoftError (c : SoftErrorSite) : exec (.uncorrectableSoftError c) s = execUncorrectableSoftError c s := rfl
@[simp] theorem exec_managementBadRequest (code : BitVec 8) (q : Datagram) : exec (.managementBadRequest code q) s = execManagementBadRequest code q s := rfl

end Sys2Proof.Machine
end

