-- ==== Sys2Proof/Laws/Memory.lean ====
section
/-! SUPPORT. Sparse tables and memories: a read after a write, the canonical form and what keeps it, equal memories are equal data. -/

namespace Sys2Proof.Machine

open Sys2Proof

/-! ### Tables -/

section
variable {w : Nat}

theorem Table.wfFrom_mono {lo lo' : Nat} (t : Table w) (h : lo' ≤ lo) (ht : Table.wfFrom lo t = true) : Table.wfFrom lo' t = true := by
  cases t with
  | nil => rfl
  | cons x rest => simp only [Table.wfFrom, Bool.and_eq_true, decide_eq_true_eq] at ht ⊢; exact ⟨⟨by omega, ht.1.2⟩, ht.2⟩

theorem Table.wfFrom_set {lo : Nat} (t : Table w) (k : Nat) (v : BitVec w) (hk : lo ≤ k) (ht : Table.wfFrom lo t = true) :
    Table.wfFrom lo (Table.set t k v) = true := by
  induction t generalizing lo with
  | nil =>
    simp only [Table.set]; split
    · rfl
    · rename_i hv; simpa [Table.wfFrom, hk] using hv
  | cons x rest ih =>
    obtain ⟨j, u⟩ := x
    simp only [Table.wfFrom, Bool.and_eq_true, decide_eq_true_eq] at ht
    simp only [Table.set]
    split
    · split
      · simp only [Table.wfFrom, Bool.and_eq_true, decide_eq_true_eq]; exact ht
      · rename_i hlt hv
        simp only [Table.wfFrom, Bool.and_eq_true, decide_eq_true_eq, bne_iff_ne, ne_eq]
        exact ⟨⟨hk, hv⟩, ⟨by omega, by simpa using ht.1.2⟩, ht.2⟩
    · split
      · subst_vars
        split
        · exact Table.wfFrom_mono rest (by omega) ht.2
        · rename_i hv
          simp only [Table.wfFrom, Bool.and_eq_true, decide_eq_true_eq, bne_iff_ne, ne_eq]
          exact ⟨⟨hk, hv⟩, ht.2⟩
      · simp only [Table.wfFrom, Bool.and_eq_true, decide_eq_true_eq]
        exact ⟨ht.1, ih (by omega) ht.2⟩

/-- Writing keeps the canonical form. -/
theorem Table.wf_set (t : Table w) (k : Nat) (v : BitVec w) (ht : Table.wf t = true) : Table.wf (Table.set t k v) = true :=
  Table.wfFrom_set t k v (Nat.zero_le _) ht

/-- A write leaves every other number alone. -/
theorem Table.get_set_other (t : Table w) {k j : Nat} (v : BitVec w) (h : j ≠ k) : Table.get (Table.set t k v) j = Table.get t j := by
  induction t with
  | nil => simp only [Table.set]; split <;> simp [Table.get, Ne.symm h]
  | cons x rest ih =>
    obtain ⟨i, u⟩ := x
    simp only [Table.set]
    split
    · split
      · rfl
      · simp [Table.get, Ne.symm h]
    · split
      · subst_vars
        split <;> simp [Table.get, Ne.symm h]
      · simp only [Table.get]; split
        · rfl
        · exact ih

theorem Table.get_below {lo : Nat} (t : Table w) (ht : Table.wfFrom lo t = true) {k : Nat} (h : k < lo) : Table.get t k = 0 := by
  induction t generalizing lo with
  | nil => rfl
  | cons x rest ih =>
    obtain ⟨j, u⟩ := x
    simp only [Table.wfFrom, Bool.and_eq_true, decide_eq_true_eq] at ht
    simp only [Table.get]
    rw [if_neg (by omega)]
    exact ih ht.2 (by omega)

/-- A read of what was written gives the value. -/
theorem Table.get_set_same (t : Table w) (k : Nat) (v : BitVec w) (ht : Table.wf t = true) : Table.get (Table.set t k v) k = v := by
  have key : ∀ (t : Table w) (lo : Nat), Table.wfFrom lo t = true → Table.get (Table.set t k v) k = v := by
    intro t
    induction t with
    | nil =>
      intro lo _; simp only [Table.set]; split
      · rename_i hv; simp [Table.get, hv]
      · simp [Table.get]
    | cons x rest ih =>
      intro lo ht
      obtain ⟨j, u⟩ := x
      simp only [Table.wfFrom, Bool.and_eq_true, decide_eq_true_eq] at ht
      simp only [Table.set]
      split
      · split
        · rename_i hlt hv
          simp only [Table.get]
          rw [if_neg (by omega), hv]
          exact Table.get_below rest ht.2 (by omega)
        · simp [Table.get]
      · split
        · subst_vars
          split
          · rename_i hv
            rw [hv]; exact Table.get_below rest ht.2 (by omega)
          · simp [Table.get]
        · simp only [Table.get]
          rw [if_neg (by rename_i h; exact fun h2 => h h2.symm)]
          exact ih _ ht.2
  exact key t 0 ht

/-- Two canonical tables that read the same are the same. -/
theorem Table.ext_of_get (t u : Table w) (ht : Table.wf t = true) (hu : Table.wf u = true) (h : ∀ k, Table.get t k = Table.get u k) : t = u := by
  have key : ∀ (t u : Table w) (lo : Nat), Table.wfFrom lo t = true → Table.wfFrom lo u = true → (∀ k, Table.get t k = Table.get u k) → t = u := by
    intro t
    induction t with
    | nil =>
      intro u lo _ hu h
      cases u with
      | nil => rfl
      | cons y rest =>
        obtain ⟨j, v⟩ := y
        simp only [Table.wfFrom, Bool.and_eq_true, bne_iff_ne, ne_eq] at hu
        have := h j
        simp only [Table.get, ↓reduceIte] at this
        exact absurd this.symm hu.1.2
    | cons x rest ih =>
      intro u lo ht hu h
      obtain ⟨i, a⟩ := x
      simp only [Table.wfFrom, Bool.and_eq_true, decide_eq_true_eq, bne_iff_ne, ne_eq] at ht
      cases u with
      | nil =>
        have := h i
        simp only [Table.get, ↓reduceIte] at this
        exact absurd this ht.1.2
      | cons y rest' =>
        obtain ⟨j, b⟩ := y
        simp only [Table.wfFrom, Bool.and_eq_true, decide_eq_true_eq, bne_iff_ne, ne_eq] at hu
        have hij : i = j := by
          rcases Nat.lt_trichotomy i j with hlt | heq | hgt
          · have := h i
            simp only [Table.get, ↓reduceIte, show ¬ j = i by omega] at this
            rw [Table.get_below rest' hu.2 (by omega)] at this
            exact absurd this ht.1.2
          · exact heq
          · have := h j
            simp only [Table.get, ↓reduceIte, show ¬ i = j by omega] at this
            rw [Table.get_below rest ht.2 (by omega)] at this
            exact absurd this.symm hu.1.2
        subst hij
        have hab : a = b := by have := h i; simpa only [Table.get, ↓reduceIte] using this
        subst hab
        congr 1
        refine ih rest' (i + 1) ht.2 hu.2 fun k => ?_
        by_cases hk : i = k
        · subst hk; rw [Table.get_below rest ht.2 (by omega), Table.get_below rest' hu.2 (by omega)]
        · have := h k
          simpa only [Table.get, hk, ↓reduceIte] using this
  exact key t u 0 ht hu h

end

/-! ### Memory -/

theorem Memory.wf_write (m : Memory) (a : Nat) (v : Byte) (h : Memory.wf m = true) : Memory.wf (Memory.write m a v) = true :=
  Table.wf_set (w := 8) m a v h

theorem Memory.read_write_same (m : Memory) (a : Nat) (v : Byte) (h : Memory.wf m = true) : Memory.read (Memory.write m a v) a = v :=
  Table.get_set_same (w := 8) m a v h

theorem Memory.read_write_other (m : Memory) {a b : Nat} (v : Byte) (h : b ≠ a) : Memory.read (Memory.write m a v) b = Memory.read m b :=
  Table.get_set_other (w := 8) m v h

/-- Every store keeps the canonical form. -/
theorem Memory.wf_writeBytes (m : Memory) (a : Nat) (bs : List Byte) (h : Memory.wf m = true) : Memory.wf (Memory.writeBytes m a bs) = true := by
  induction bs generalizing m a with
  | nil => exact h
  | cons b bs ih => exact ih _ _ (Memory.wf_write m a b h)

theorem Memory.wf_writeNat (m : Memory) (a n v : Nat) (h : Memory.wf m = true) : Memory.wf (Memory.writeNat m a n v) = true :=
  Memory.wf_writeBytes m a _ h

/-- A store leaves every byte outside it alone. -/
theorem Memory.read_writeBytes_outside (m : Memory) (a : Nat) (bs : List Byte) {b : Nat} (h : b < a ∨ a + bs.length ≤ b) :
    Memory.read (Memory.writeBytes m a bs) b = Memory.read m b := by
  induction bs generalizing m a with
  | nil => rfl
  | cons x bs ih =>
    simp only [List.length_cons] at h
    simp only [Memory.writeBytes]
    rw [ih _ _ (by omega), Memory.read_write_other _ _ (by omega)]

/-- A store gives each byte inside it its value. -/
theorem Memory.read_writeBytes_inside (m : Memory) (a : Nat) (bs : List Byte) (hm : Memory.wf m = true) {k : Nat} (h : k < bs.length) :
    Memory.read (Memory.writeBytes m a bs) (a + k) = bs[k] := by
  induction bs generalizing m a k with
  | nil => simp at h
  | cons x bs ih =>
    simp only [Memory.writeBytes]
    cases k with
    | zero =>
      rw [Memory.read_writeBytes_outside _ _ _ (by omega)]
      exact Memory.read_write_same m a x hm
    | succ k =>
      have := ih (Memory.write m a x) (a + 1) (Memory.wf_write m a x hm) (k := k) (by simpa using h)
      rw [show a + (k + 1) = a + 1 + k by omega]
      simpa using this

/-- The bytes of a store read back. -/
theorem Memory.readBytes_writeBytes (m : Memory) (a : Nat) (bs : List Byte) (hm : Memory.wf m = true) :
    Memory.readBytes (Memory.writeBytes m a bs) a bs.length = bs := by
  apply List.ext_getElem
  · simp [Memory.readBytes]
  · intro k h1 h2
    simp only [Memory.readBytes, List.getElem_map, List.getElem_range]
    exact Memory.read_writeBytes_inside m a bs hm h2

/-- Equal memories are equal data. -/
theorem Memory.ext_of_read (m n : Memory) (hm : Memory.wf m = true) (hn : Memory.wf n = true) (h : ∀ a, Memory.read m a = Memory.read n a) : m = n :=
  Table.ext_of_get (w := 8) m n hm hn h

/-- Device memory at reset is in canonical form. -/
theorem Memory.wf_reset : Memory.wf State.reset.mem = true := rfl

end Sys2Proof.Machine
end

