-- ==== Sys2Proof/Laws/Keeps.lean ====
section
/-! SUPPORT. The elementary updates keep every memory of the part in canonical form. -/

namespace Sys2Proof.Safety

open Sys2Proof Machine

def blockWf (b : Block) : Bool := Memory.wf b.scratch && Memory.wf b.tiles && Memory.wf b.saveArea && Memory.wf b.image.tiles

def teamWf (t : Team) : Bool := Memory.wf t.spill && Memory.wf t.image

def coreWf (c : CoreState) : Bool := Memory.wf c.commons && Memory.wf c.weights

theorem memoriesWf_iff (s : State) : memoriesWf s = true ↔
    Memory.wf s.mem = true ∧ (∀ b ∈ s.blocks, blockWf b = true) ∧ (∀ n, n < 576 → coreWf (s.coreAt n) = true) ∧
      ∀ t ∈ s.teams, teamWf t = true := by
  have hc : s.cores.toList.all (fun c => Memory.wf c.commons && Memory.wf c.weights) = true ↔ ∀ n, n < 576 → coreWf (s.coreAt n) = true := by
    rw [List.all_eq_true]
    constructor
    · intro h n hn
      have hm : s.cores[n] ∈ s.cores.toList := by simp
      have := h _ hm
      simpa [coreWf, State.coreAt, vget, Vector.getElem?_eq_getElem hn] using this
    · intro h c hc
      obtain ⟨n, hn, rfl⟩ := List.getElem_of_mem hc
      have hn' : n < 576 := by simpa using hn
      have := h n hn'
      simpa [coreWf, State.coreAt, vget, Vector.getElem?_eq_getElem hn'] using this
  unfold memoriesWf
  simp only [Bool.and_eq_true, hc, and_assoc]
  simp only [List.all_eq_true, blockWf, teamWf, Bool.and_eq_true, and_assoc]

variable {s s' : State}

/-- A state with the same memories. -/
theorem memoriesWf_same (h : memoriesWf s = true) (hm : s'.mem = s.mem) (hb : s'.blocks = s.blocks) (hc : s'.cores = s.cores)
    (ht : s'.teams = s.teams) : memoriesWf s' = true := by
  unfold memoriesWf at *; rw [hm, hb, hc, ht]; exact h

theorem memoriesWf_setTeam {t : Team} (h : memoriesWf s = true) (ht : teamWf t = true) : memoriesWf (s.setTeam t) = true := by
  rw [memoriesWf_iff] at *
  refine ⟨h.1, h.2.1, h.2.2.1, fun u hu => ?_⟩
  obtain ⟨v, hv, rfl⟩ := List.mem_map.mp hu
  split
  · exact ht
  · exact h.2.2.2 v hv

theorem memoriesWf_modTeam {n : Nat} {f : Team → Team} (h : memoriesWf s = true)
    (hf : ∀ t, teamWf t = true → teamWf (f t) = true) : memoriesWf (s.modTeam n f) = true := by
  rw [memoriesWf_iff] at *
  refine ⟨h.1, h.2.1, h.2.2.1, fun u hu => ?_⟩
  obtain ⟨v, hv, rfl⟩ := List.mem_map.mp hu
  split
  · exact hf v (h.2.2.2 v hv)
  · exact h.2.2.2 v hv

theorem memoriesWf_modBlock {n : Nat} {f : Block → Block} (h : memoriesWf s = true)
    (hf : ∀ b, blockWf b = true → blockWf (f b) = true) : memoriesWf (s.modBlock n f) = true := by
  rw [memoriesWf_iff] at *
  refine ⟨h.1, fun b hb => ?_, h.2.2.1, h.2.2.2⟩
  obtain ⟨v, hv, rfl⟩ := List.mem_map.mp hb
  split
  · exact hf v (h.2.1 v hv)
  · exact h.2.1 v hv

theorem State.coreAt_modCore (s : State) (n k : Nat) (f : CoreState → CoreState) :
    (s.modCore n f).coreAt k = if k = n ∧ n < 576 then f (s.coreAt n) else s.coreAt k := by
  simp only [Machine.State.coreAt, Machine.State.modCore, vput, vget]
  by_cases hk : k < 576
  · by_cases hn : n < 576
    · by_cases e : n = k
      · subst e; simp [hk]
      · simp [Vector.getElem?_setIfInBounds, e, Ne.symm e]
    · have : ¬ n = k := by omega
      simp [Vector.getElem?_setIfInBounds, this, hn]
  · by_cases hn : n < 576
    · have : ¬ n = k := by omega
      simp [Vector.getElem?_setIfInBounds, this, Ne.symm this]
    · by_cases e : n = k
      · subst e; simp [hk]
      · simp [Vector.getElem?_setIfInBounds, e, Ne.symm e]

theorem memoriesWf_modCore {n : Nat} {f : CoreState → CoreState} (h : memoriesWf s = true)
    (hf : ∀ c, coreWf c = true → coreWf (f c) = true) : memoriesWf (s.modCore n f) = true := by
  rw [memoriesWf_iff] at *
  refine ⟨h.1, h.2.1, fun k hk => ?_, h.2.2.2⟩
  rw [State.coreAt_modCore]
  split
  · rename_i e; exact hf _ (h.2.2.1 n e.2)
  · exact h.2.2.1 k hk

theorem memoriesWf_withMem {m : Memory} (h : memoriesWf s = true) (hm : Memory.wf m = true) : memoriesWf { s with mem := m } = true := by
  rw [memoriesWf_iff] at *
  exact ⟨hm, h.2.1, h.2.2.1, h.2.2.2⟩

theorem memoriesWf_modGrid {n : Nat} {f : Grid → Grid} (h : memoriesWf s = true) : memoriesWf (s.modGrid n f) = true := h
theorem memoriesWf_modDie {n : Nat} {f : DieState → DieState} (h : memoriesWf s = true) : memoriesWf (s.modDie n f) = true := h
theorem memoriesWf_modProc {n : Nat} {f : Process → Process} (h : memoriesWf s = true) : memoriesWf (s.modProc n f) = true := h
theorem memoriesWf_modHub {f : Hub → Hub} (h : memoriesWf s = true) : memoriesWf (s.modHub f) = true := h
theorem memoriesWf_say {x : String} {l : List Nat} (h : memoriesWf s = true) : memoriesWf (s.say x l) = true := h
theorem memoriesWf_ticked (h : memoriesWf s = true) : memoriesWf s.ticked = true := h
theorem memoriesWf_inputs {l : List Input} (h : memoriesWf s = true) : memoriesWf { s with inputs := l } = true := h
theorem memoriesWf_turn {n : Nat} (h : memoriesWf s = true) : memoriesWf { s with turn := n } = true := h

/-- A wait, and its end, keep them. -/
theorem memoriesWf_wait {c : Ctx} {w : Wait} {e : ReplayEntry} (h : memoriesWf s = true) : memoriesWf (s.wait c w e) = true :=
  memoriesWf_modTeam h fun t ht => by
    have : teamWf ((t.goOn c c.next).passed 1) = teamWf t := by unfold Team.goOn Team.passed; (repeat' split) <;> rfl
    exact this.trans ht

end Sys2Proof.Safety
end

