-- ==== Sys2Proof/Laws/PerInstr.lean ====
section
/-! SUPPORT. Per instruction: its words decode to it, with every operand (R76 to R89). -/

namespace Sys2Proof.Laws.RoundTrip

open Sys2Proof

/-- The words of the instruction, whatever follows them, decode to it and leave what follows. -/
def Statement (i : Instr) : Prop := i.wf = true → ∀ rest, decode (encode i ++ rest) = .ok (i, rest)

/-- An instruction of one word. -/
theorem one {i : Instr} (op : BitVec 10) (m : Mods) (d a b : Reg) (he : encode i = [enc op m d a b])
    (ht : takesLiteral op = false) (hd : decodeWord (enc op m d a b) 0#32 = .ok i) : ∀ rest, decode (encode i ++ rest) = .ok (i, rest) := by
  intro rest
  rw [he]
  simp only [List.cons_append, List.nil_append, decode, fieldsOf_enc, ht, hd, Bool.false_eq_true, ↓reduceIte]
  rfl

/-- An instruction with a literal word. -/
theorem two {i : Instr} (op : BitVec 10) (m : Mods) (d a b : Reg) (l : Word) (he : encode i = [enc op m d a b, l])
    (ht : takesLiteral op = true) (hd : decodeWord (enc op m d a b) l = .ok i) : ∀ rest, decode (encode i ++ rest) = .ok (i, rest) := by
  intro rest
  rw [he]
  simp only [List.cons_append, List.nil_append, decode, fieldsOf_enc, ht, hd, ↓reduceIte]
  rfl


theorem nop m : Statement (.nop m) := by
  intro h
  refine one 0x001#10 m 0#6 0#6 0#6 rfl rfl ?_
  simp only [decodeWord, fieldsOf_enc]
  rfl

theorem bra m l : Statement (.bra m l) := by
  intro h
  refine two 0x002#10 m 0#6 0#6 0#6 (l.toWord) rfl rfl ?_
  simp only [decodeWord, fieldsOf_enc]
  show accept true ((LB.ofWord l.toWord).map fun l => .bra m l) = _
  rw [LB.ofWord_toWord]
  rfl

theorem brc m d a l : Statement (.brc m d a l) := by
  intro h
  refine two 0x003#10 m d a 0#6 (l.toWord) rfl rfl ?_
  simp only [decodeWord, fieldsOf_enc]
  show accept true ((LB.ofWord l.toWord).map fun l => .brc m d a l) = _
  rw [LB.ofWord_toWord]
  rfl

theorem brm m d a l : Statement (.brm m d a l) := by
  intro h
  refine two 0x004#10 m d a 0#6 (l.toWord) rfl rfl ?_
  simp only [decodeWord, fieldsOf_enc]
  show accept true ((LB.ofWord l.toWord).map fun l => .brm m d a l) = _
  rw [LB.ofWord_toWord]
  rfl

theorem brx m a : Statement (.brx m a) := by
  intro h
  refine one 0x005#10 m 0#6 a 0#6 rfl rfl ?_
  simp only [decodeWord, fieldsOf_enc]
  rfl

theorem brvd m l : Statement (.brvd m l) := by
  intro h
  refine two 0x006#10 m 0#6 0#6 0#6 (l.toWord) rfl rfl ?_
  simp only [decodeWord, fieldsOf_enc]
  show accept true ((LB.ofWord l.toWord).map fun l => .brvd m l) = _
  rw [LB.ofWord_toWord]
  rfl

theorem call m l : Statement (.call m l) := by
  intro h
  refine two 0x007#10 m 0#6 0#6 0#6 (l.toWord) rfl rfl ?_
  simp only [decodeWord, fieldsOf_enc]
  show accept true ((LB.ofWord l.toWord).map fun l => .call m l) = _
  rw [LB.ofWord_toWord]
  rfl

theorem ret m : Statement (.ret m) := by
  intro h
  refine one 0x008#10 m 0#6 0#6 0#6 rfl rfl ?_
  simp only [decodeWord, fieldsOf_enc]
  rfl

theorem join m : Statement (.join m) := by
  intro h
  refine one 0x009#10 m 0#6 0#6 0#6 rfl rfl ?_
  simp only [decodeWord, fieldsOf_enc]
  rfl

theorem yield m : Statement (.yield m) := by
  intro h
  refine one 0x00A#10 m 0#6 0#6 0#6 rfl rfl ?_
  simp only [decodeWord, fieldsOf_enc]
  rfl

theorem exit m : Statement (.exit m) := by
  intro h
  refine one 0x00B#10 m 0#6 0#6 0#6 rfl rfl ?_
  simp only [decodeWord, fieldsOf_enc]
  rfl

theorem exitr m d a b : Statement (.exitr m d a b) := by
  intro h
  refine one 0x00C#10 m d a b rfl rfl ?_
  simp only [decodeWord, fieldsOf_enc]
  rfl

theorem kill m : Statement (.kill m) := by
  intro h
  refine one 0x00D#10 m 0#6 0#6 0#6 rfl rfl ?_
  simp only [decodeWord, fieldsOf_enc]
  rfl

theorem modeGuard m d a : Statement (.modeGuard m d a) := by
  intro h
  refine one 0x00E#10 m d a 0#6 rfl rfl ?_
  simp only [decodeWord, fieldsOf_enc]
  rfl

theorem modeField m a b l : Statement (.modeField m a b l) := by
  intro h
  refine two 0x00F#10 m 0#6 a b (l.toWord) rfl rfl ?_
  simp only [decodeWord, fieldsOf_enc]
  show accept true ((LM.ofWord l.toWord).map fun l => .modeField m a b l) = _
  rw [LM.ofWord_toWord]
  rfl

theorem gmode m d a : Statement (.gmode m d a) := by
  intro h
  refine one 0x010#10 m d a 0#6 rfl rfl ?_
  simp only [decodeWord, fieldsOf_enc]
  rfl

theorem stall m : Statement (.stall m) := by
  intro h
  refine one 0x011#10 m 0#6 0#6 0#6 rfl rfl ?_
  simp only [decodeWord, fieldsOf_enc]
  rfl

theorem ballot m d a : Statement (.ballot m d a) := by
  intro h
  refine one 0x040#10 m d a 0#6 rfl rfl ?_
  simp only [decodeWord, fieldsOf_enc]
  rfl

theorem pmovPToV m d a : Statement (.pmovPToV m d a) := by
  intro h
  refine one 0x041#10 m d a 0#6 rfl rfl ?_
  simp only [decodeWord, fieldsOf_enc]
  rfl

theorem pmovVToP m d a : Statement (.pmovVToP m d a) := by
  intro h
  refine one 0x042#10 m d a 0#6 rfl rfl ?_
  simp only [decodeWord, fieldsOf_enc]
  rfl

theorem plog m d a b l : Statement (.plog m d a b l) := by
  intro h
  refine two 0x043#10 m d a b (l.toWord) rfl rfl ?_
  simp only [decodeWord, fieldsOf_enc]
  show accept true ((LPlog.ofWord l.toWord).map fun l => .plog m d a b l) = _
  rw [LPlog.ofWord_toWord]
  rfl

theorem vote m d a b : Statement (.vote m d a b) := by
  intro h
  refine one 0x044#10 m d a b rfl rfl ?_
  simp only [decodeWord, fieldsOf_enc]
  rfl

theorem shflIndex m d a b : Statement (.shflIndex m d a b) := by
  intro h
  refine one 0x045#10 m d a b rfl rfl ?_
  simp only [decodeWord, fieldsOf_enc]
  rfl

theorem shflUniform m d a b : Statement (.shflUniform m d a b) := by
  intro h
  refine one 0x046#10 m d a b rfl rfl ?_
  simp only [decodeWord, fieldsOf_enc]
  rfl

theorem shflLiteral m d a l : Statement (.shflLiteral m d a l) := by
  intro h
  refine two 0x047#10 m d a 0#6 (l.toWord) rfl rfl ?_
  simp only [decodeWord, fieldsOf_enc]
  show accept true ((LShfl.ofWord l.toWord).map fun l => .shflLiteral m d a l) = _
  rw [LShfl.ofWord_toWord]
  rfl

theorem qswz m d a l : Statement (.qswz m d a l) := by
  intro h
  refine two 0x048#10 m d a 0#6 (l.toWord) rfl rfl ?_
  simp only [decodeWord, fieldsOf_enc]
  show accept true ((LQswz.ofWord l.toWord).map fun l => .qswz m d a l) = _
  rw [LQswz.ofWord_toWord]
  rfl

theorem qdif m d a b : Statement (.qdif m d a b) := by
  intro h
  refine one 0x049#10 m d a b rfl rfl ?_
  simp only [decodeWord, fieldsOf_enc]
  rfl

theorem fxc m d l : Statement (.fxc m d l) := by
  intro h
  refine two 0x04A#10 m d 0#6 0#6 (l.toWord) rfl rfl ?_
  simp only [decodeWord, fieldsOf_enc]
  show accept true ((LFlags.ofWord l.toWord).map fun l => .fxc m d l) = _
  rw [LFlags.ofWord_toWord]
  rfl

theorem fxr m l : Statement (.fxr m l) := by
  intro h
  refine two 0x04B#10 m 0#6 0#6 0#6 (l.toWord) rfl rfl ?_
  simp only [decodeWord, fieldsOf_enc]
  show accept true ((LFlags.ofWord l.toWord).map fun l => .fxr m l) = _
  rw [LFlags.ofWord_toWord]
  rfl

theorem selVector m d a b l : Statement (.selVector m d a b l) := by
  intro h
  refine two 0x04C#10 m d a b (l.toWord) rfl rfl ?_
  simp only [decodeWord, fieldsOf_enc]
  show accept true ((LSel.ofWord l.toWord).map fun l => .selVector m d a b l) = _
  rw [LSel.ofWord_toWord]
  rfl

theorem selScalar m d a b l : Statement (.selScalar m d a b l) := by
  intro h
  refine two 0x04D#10 m d a b (l.toWord) rfl rfl ?_
  simp only [decodeWord, fieldsOf_enc]
  show accept true ((LSel.ofWord l.toWord).map fun l => .selScalar m d a b l) = _
  rw [LSel.ofWord_toWord]
  rfl

theorem andVector m d a b : Statement (.andVector m d a b) := by
  intro h
  refine one 0x080#10 m d a b rfl rfl ?_
  simp only [decodeWord, fieldsOf_enc]
  rfl

theorem andScalar m d a b : Statement (.andScalar m d a b) := by
  intro h
  refine one 0x081#10 m d a b rfl rfl ?_
  simp only [decodeWord, fieldsOf_enc]
  rfl

theorem andLiteral m d a l : Statement (.andLiteral m d a l) := by
  intro h
  refine two 0x0A0#10 m d a 0#6 (l.toWord) rfl rfl ?_
  simp only [decodeWord, fieldsOf_enc]
  have h : m.lub = false := by simpa [Instr.wf] using h
  show accept (!m.lub) ((LI.ofWord l.toWord).map fun l => .andLiteral m d a l) = _
  rw [LI.ofWord_toWord, h]
  rfl

theorem orVector m d a b : Statement (.orVector m d a b) := by
  intro h
  refine one 0x082#10 m d a b rfl rfl ?_
  simp only [decodeWord, fieldsOf_enc]
  rfl

theorem orScalar m d a b : Statement (.orScalar m d a b) := by
  intro h
  refine one 0x083#10 m d a b rfl rfl ?_
  simp only [decodeWord, fieldsOf_enc]
  rfl

theorem orLiteral m d a l : Statement (.orLiteral m d a l) := by
  intro h
  refine two 0x0A2#10 m d a 0#6 (l.toWord) rfl rfl ?_
  simp only [decodeWord, fieldsOf_enc]
  have h : m.lub = false := by simpa [Instr.wf] using h
  show accept (!m.lub) ((LI.ofWord l.toWord).map fun l => .orLiteral m d a l) = _
  rw [LI.ofWord_toWord, h]
  rfl

theorem xorVector m d a b : Statement (.xorVector m d a b) := by
  intro h
  refine one 0x084#10 m d a b rfl rfl ?_
  simp only [decodeWord, fieldsOf_enc]
  rfl

theorem xorScalar m d a b : Statement (.xorScalar m d a b) := by
  intro h
  refine one 0x085#10 m d a b rfl rfl ?_
  simp only [decodeWord, fieldsOf_enc]
  rfl

theorem xorLiteral m d a l : Statement (.xorLiteral m d a l) := by
  intro h
  refine two 0x0A4#10 m d a 0#6 (l.toWord) rfl rfl ?_
  simp only [decodeWord, fieldsOf_enc]
  have h : m.lub = false := by simpa [Instr.wf] using h
  show accept (!m.lub) ((LI.ofWord l.toWord).map fun l => .xorLiteral m d a l) = _
  rw [LI.ofWord_toWord, h]
  rfl

theorem not m d a : Statement (.not m d a) := by
  intro h
  refine one 0x086#10 m d a 0#6 rfl rfl ?_
  simp only [decodeWord, fieldsOf_enc]
  rfl

theorem shlVector m d a b : Statement (.shlVector m d a b) := by
  intro h
  refine one 0x088#10 m d a b rfl rfl ?_
  simp only [decodeWord, fieldsOf_enc]
  rfl

theorem shlScalar m d a b : Statement (.shlScalar m d a b) := by
  intro h
  refine one 0x089#10 m d a b rfl rfl ?_
  simp only [decodeWord, fieldsOf_enc]
  rfl

theorem shlLiteral m d a l : Statement (.shlLiteral m d a l) := by
  intro h
  refine two 0x0A8#10 m d a 0#6 (l.toWord) rfl rfl ?_
  simp only [decodeWord, fieldsOf_enc]
  have h : m.lub = false := by simpa [Instr.wf] using h
  show accept (!m.lub) ((LCount.ofWord l.toWord).map fun l => .shlLiteral m d a l) = _
  rw [LCount.ofWord_toWord, h]
  rfl

theorem shrVector m d a b : Statement (.shrVector m d a b) := by
  intro h
  refine one 0x08A#10 m d a b rfl rfl ?_
  simp only [decodeWord, fieldsOf_enc]
  rfl

theorem shrScalar m d a b : Statement (.shrScalar m d a b) := by
  intro h
  refine one 0x08B#10 m d a b rfl rfl ?_
  simp only [decodeWord, fieldsOf_enc]
  rfl

theorem shrLiteral m d a l : Statement (.shrLiteral m d a l) := by
  intro h
  refine two 0x0AA#10 m d a 0#6 (l.toWord) rfl rfl ?_
  simp only [decodeWord, fieldsOf_enc]
  have h : m.lub = false := by simpa [Instr.wf] using h
  show accept (!m.lub) ((LCount.ofWord l.toWord).map fun l => .shrLiteral m d a l) = _
  rw [LCount.ofWord_toWord, h]
  rfl

theorem sarVector m d a b : Statement (.sarVector m d a b) := by
  intro h
  refine one 0x08C#10 m d a b rfl rfl ?_
  simp only [decodeWord, fieldsOf_enc]
  rfl

theorem sarScalar m d a b : Statement (.sarScalar m d a b) := by
  intro h
  refine one 0x08D#10 m d a b rfl rfl ?_
  simp only [decodeWord, fieldsOf_enc]
  rfl

theorem sarLiteral m d a l : Statement (.sarLiteral m d a l) := by
  intro h
  refine two 0x0AC#10 m d a 0#6 (l.toWord) rfl rfl ?_
  simp only [decodeWord, fieldsOf_enc]
  have h : m.lub = false := by simpa [Instr.wf] using h
  show accept (!m.lub) ((LCount.ofWord l.toWord).map fun l => .sarLiteral m d a l) = _
  rw [LCount.ofWord_toWord, h]
  rfl

theorem rolVector m d a b : Statement (.rolVector m d a b) := by
  intro h
  refine one 0x08E#10 m d a b rfl rfl ?_
  simp only [decodeWord, fieldsOf_enc]
  rfl

theorem rolScalar m d a b : Statement (.rolScalar m d a b) := by
  intro h
  refine one 0x08F#10 m d a b rfl rfl ?_
  simp only [decodeWord, fieldsOf_enc]
  rfl

theorem rolLiteral m d a l : Statement (.rolLiteral m d a l) := by
  intro h
  refine two 0x0AE#10 m d a 0#6 (l.toWord) rfl rfl ?_
  simp only [decodeWord, fieldsOf_enc]
  have h : m.lub = false := by simpa [Instr.wf] using h
  show accept (!m.lub) ((LCount.ofWord l.toWord).map fun l => .rolLiteral m d a l) = _
  rw [LCount.ofWord_toWord, h]
  rfl

theorem bfiVector m d a b : Statement (.bfiVector m d a b) := by
  intro h
  refine one 0x090#10 m d a b rfl rfl ?_
  simp only [decodeWord, fieldsOf_enc]
  rfl

theorem bfiScalar m d a b : Statement (.bfiScalar m d a b) := by
  intro h
  refine one 0x091#10 m d a b rfl rfl ?_
  simp only [decodeWord, fieldsOf_enc]
  rfl

theorem bfiLiteral m d a l : Statement (.bfiLiteral m d a l) := by
  intro h
  refine two 0x0B0#10 m d a 0#6 (l.toWord) rfl rfl ?_
  simp only [decodeWord, fieldsOf_enc]
  have h : m.lub = false := by simpa [Instr.wf] using h
  show accept (!m.lub) ((LSpec.ofWord l.toWord).map fun l => .bfiLiteral m d a l) = _
  rw [LSpec.ofWord_toWord, h]
  rfl

theorem bfxVector m d a b : Statement (.bfxVector m d a b) := by
  intro h
  refine one 0x092#10 m d a b rfl rfl ?_
  simp only [decodeWord, fieldsOf_enc]
  rfl

theorem bfxScalar m d a b : Statement (.bfxScalar m d a b) := by
  intro h
  refine one 0x093#10 m d a b rfl rfl ?_
  simp only [decodeWord, fieldsOf_enc]
  rfl

theorem bfxLiteral m d a l : Statement (.bfxLiteral m d a l) := by
  intro h
  refine two 0x0B2#10 m d a 0#6 (l.toWord) rfl rfl ?_
  simp only [decodeWord, fieldsOf_enc]
  have h : m.lub = false := by simpa [Instr.wf] using h
  show accept (!m.lub) ((LSpec.ofWord l.toWord).map fun l => .bfxLiteral m d a l) = _
  rw [LSpec.ofWord_toWord, h]
  rfl

theorem brev m d a : Statement (.brev m d a) := by
  intro h
  refine one 0x094#10 m d a 0#6 rfl rfl ?_
  simp only [decodeWord, fieldsOf_enc]
  rfl

theorem clz m d a : Statement (.clz m d a) := by
  intro h
  refine one 0x096#10 m d a 0#6 rfl rfl ?_
  simp only [decodeWord, fieldsOf_enc]
  rfl

theorem popc m d a : Statement (.popc m d a) := by
  intro h
  refine one 0x098#10 m d a 0#6 rfl rfl ?_
  simp only [decodeWord, fieldsOf_enc]
  rfl

theorem leaVector m d a b : Statement (.leaVector m d a b) := by
  intro h
  refine one 0x09A#10 m d a b rfl rfl ?_
  simp only [decodeWord, fieldsOf_enc]
  rfl

theorem leaScalar m d a b : Statement (.leaScalar m d a b) := by
  intro h
  refine one 0x09B#10 m d a b rfl rfl ?_
  simp only [decodeWord, fieldsOf_enc]
  rfl

theorem leaLiteral m d a l : Statement (.leaLiteral m d a l) := by
  intro h
  refine two 0x0BA#10 m d a 0#6 (l.toWord) rfl rfl ?_
  simp only [decodeWord, fieldsOf_enc]
  have h : m.lub = false := by simpa [Instr.wf] using h
  show accept (!m.lub) ((LI.ofWord l.toWord).map fun l => .leaLiteral m d a l) = _
  rw [LI.ofWord_toWord, h]
  rfl

theorem movVector m d b : Statement (.movVector m d b) := by
  intro h
  refine one 0x09C#10 m d 0#6 b rfl rfl ?_
  simp only [decodeWord, fieldsOf_enc]
  rfl

theorem movScalar m d b : Statement (.movScalar m d b) := by
  intro h
  refine one 0x09D#10 m d 0#6 b rfl rfl ?_
  simp only [decodeWord, fieldsOf_enc]
  rfl

theorem movk m d l : Statement (.movk m d l) := by
  intro h
  refine two 0x0BC#10 m d 0#6 0#6 (l.toWord) rfl rfl ?_
  simp only [decodeWord, fieldsOf_enc]
  have h : m.lub = false := by simpa [Instr.wf] using h
  show accept (!m.lub) ((LI.ofWord l.toWord).map fun l => .movk m d l) = _
  rw [LI.ofWord_toWord, h]
  rfl

theorem addVector m d a b : Statement (.addVector m d a b) := by
  intro h
  refine one 0x0C0#10 m d a b rfl rfl ?_
  simp only [decodeWord, fieldsOf_enc]
  rfl

theorem addScalar m d a b : Statement (.addScalar m d a b) := by
  intro h
  refine one 0x0C1#10 m d a b rfl rfl ?_
  simp only [decodeWord, fieldsOf_enc]
  rfl

theorem addLiteral m d a l : Statement (.addLiteral m d a l) := by
  intro h
  refine two 0x0E0#10 m d a 0#6 (l.toWord) rfl rfl ?_
  simp only [decodeWord, fieldsOf_enc]
  have h : m.lub = false := by simpa [Instr.wf] using h
  show accept (!m.lub) ((LI.ofWord l.toWord).map fun l => .addLiteral m d a l) = _
  rw [LI.ofWord_toWord, h]
  rfl

theorem subVector m d a b : Statement (.subVector m d a b) := by
  intro h
  refine one 0x0C2#10 m d a b rfl rfl ?_
  simp only [decodeWord, fieldsOf_enc]
  rfl

theorem subScalar m d a b : Statement (.subScalar m d a b) := by
  intro h
  refine one 0x0C3#10 m d a b rfl rfl ?_
  simp only [decodeWord, fieldsOf_enc]
  rfl

theorem subLiteral m d a l : Statement (.subLiteral m d a l) := by
  intro h
  refine two 0x0E2#10 m d a 0#6 (l.toWord) rfl rfl ?_
  simp only [decodeWord, fieldsOf_enc]
  have h : m.lub = false := by simpa [Instr.wf] using h
  show accept (!m.lub) ((LI.ofWord l.toWord).map fun l => .subLiteral m d a l) = _
  rw [LI.ofWord_toWord, h]
  rfl

theorem mulVector m d a b : Statement (.mulVector m d a b) := by
  intro h
  refine one 0x0C4#10 m d a b rfl rfl ?_
  simp only [decodeWord, fieldsOf_enc]
  rfl

theorem mulScalar m d a b : Statement (.mulScalar m d a b) := by
  intro h
  refine one 0x0C5#10 m d a b rfl rfl ?_
  simp only [decodeWord, fieldsOf_enc]
  rfl

theorem mulLiteral m d a l : Statement (.mulLiteral m d a l) := by
  intro h
  refine two 0x0E4#10 m d a 0#6 (l.toWord) rfl rfl ?_
  simp only [decodeWord, fieldsOf_enc]
  have h : m.lub = false := by simpa [Instr.wf] using h
  show accept (!m.lub) ((LI.ofWord l.toWord).map fun l => .mulLiteral m d a l) = _
  rw [LI.ofWord_toWord, h]
  rfl

theorem mulhVector m d a b : Statement (.mulhVector m d a b) := by
  intro h
  refine one 0x0C6#10 m d a b rfl rfl ?_
  simp only [decodeWord, fieldsOf_enc]
  rfl

theorem mulhScalar m d a b : Statement (.mulhScalar m d a b) := by
  intro h
  refine one 0x0C7#10 m d a b rfl rfl ?_
  simp only [decodeWord, fieldsOf_enc]
  rfl

theorem mulhLiteral m d a l : Statement (.mulhLiteral m d a l) := by
  intro h
  refine two 0x0E6#10 m d a 0#6 (l.toWord) rfl rfl ?_
  simp only [decodeWord, fieldsOf_enc]
  have h : m.lub = false := by simpa [Instr.wf] using h
  show accept (!m.lub) ((LI.ofWord l.toWord).map fun l => .mulhLiteral m d a l) = _
  rw [LI.ofWord_toWord, h]
  rfl

theorem fmaVector m d a b : Statement (.fmaVector m d a b) := by
  intro h
  refine one 0x0C8#10 m d a b rfl rfl ?_
  simp only [decodeWord, fieldsOf_enc]
  rfl

theorem fmaScalar m d a b : Statement (.fmaScalar m d a b) := by
  intro h
  refine one 0x0C9#10 m d a b rfl rfl ?_
  simp only [decodeWord, fieldsOf_enc]
  rfl

theorem fmaLiteral m d a l : Statement (.fmaLiteral m d a l) := by
  intro h
  refine two 0x0E8#10 m d a 0#6 (l.toWord) rfl rfl ?_
  simp only [decodeWord, fieldsOf_enc]
  have h : m.lub = false := by simpa [Instr.wf] using h
  show accept (!m.lub) ((LI.ofWord l.toWord).map fun l => .fmaLiteral m d a l) = _
  rw [LI.ofWord_toWord, h]
  rfl

theorem divVector m d a b : Statement (.divVector m d a b) := by
  intro h
  refine one 0x0CA#10 m d a b rfl rfl ?_
  simp only [decodeWord, fieldsOf_enc]
  rfl

theorem divScalar m d a b : Statement (.divScalar m d a b) := by
  intro h
  refine one 0x0CB#10 m d a b rfl rfl ?_
  simp only [decodeWord, fieldsOf_enc]
  rfl

theorem divLiteral m d a l : Statement (.divLiteral m d a l) := by
  intro h
  refine two 0x0EA#10 m d a 0#6 (l.toWord) rfl rfl ?_
  simp only [decodeWord, fieldsOf_enc]
  have h : m.lub = false := by simpa [Instr.wf] using h
  show accept (!m.lub) ((LI.ofWord l.toWord).map fun l => .divLiteral m d a l) = _
  rw [LI.ofWord_toWord, h]
  rfl

theorem remVector m d a b : Statement (.remVector m d a b) := by
  intro h
  refine one 0x0CC#10 m d a b rfl rfl ?_
  simp only [decodeWord, fieldsOf_enc]
  rfl

theorem remScalar m d a b : Statement (.remScalar m d a b) := by
  intro h
  refine one 0x0CD#10 m d a b rfl rfl ?_
  simp only [decodeWord, fieldsOf_enc]
  rfl

theorem remLiteral m d a l : Statement (.remLiteral m d a l) := by
  intro h
  refine two 0x0EC#10 m d a 0#6 (l.toWord) rfl rfl ?_
  simp only [decodeWord, fieldsOf_enc]
  have h : m.lub = false := by simpa [Instr.wf] using h
  show accept (!m.lub) ((LI.ofWord l.toWord).map fun l => .remLiteral m d a l) = _
  rw [LI.ofWord_toWord, h]
  rfl

theorem minVector m d a b : Statement (.minVector m d a b) := by
  intro h
  refine one 0x0CE#10 m d a b rfl rfl ?_
  simp only [decodeWord, fieldsOf_enc]
  rfl

theorem minScalar m d a b : Statement (.minScalar m d a b) := by
  intro h
  refine one 0x0CF#10 m d a b rfl rfl ?_
  simp only [decodeWord, fieldsOf_enc]
  rfl

theorem minLiteral m d a l : Statement (.minLiteral m d a l) := by
  intro h
  refine two 0x0EE#10 m d a 0#6 (l.toWord) rfl rfl ?_
  simp only [decodeWord, fieldsOf_enc]
  have h : m.lub = false := by simpa [Instr.wf] using h
  show accept (!m.lub) ((LI.ofWord l.toWord).map fun l => .minLiteral m d a l) = _
  rw [LI.ofWord_toWord, h]
  rfl

theorem maxVector m d a b : Statement (.maxVector m d a b) := by
  intro h
  refine one 0x0D0#10 m d a b rfl rfl ?_
  simp only [decodeWord, fieldsOf_enc]
  rfl

theorem maxScalar m d a b : Statement (.maxScalar m d a b) := by
  intro h
  refine one 0x0D1#10 m d a b rfl rfl ?_
  simp only [decodeWord, fieldsOf_enc]
  rfl

theorem maxLiteral m d a l : Statement (.maxLiteral m d a l) := by
  intro h
  refine two 0x0F0#10 m d a 0#6 (l.toWord) rfl rfl ?_
  simp only [decodeWord, fieldsOf_enc]
  have h : m.lub = false := by simpa [Instr.wf] using h
  show accept (!m.lub) ((LI.ofWord l.toWord).map fun l => .maxLiteral m d a l) = _
  rw [LI.ofWord_toWord, h]
  rfl

theorem clampVector m d a b : Statement (.clampVector m d a b) := by
  intro h
  refine one 0x0D2#10 m d a b rfl rfl ?_
  simp only [decodeWord, fieldsOf_enc]
  rfl

theorem clampScalar m d a b : Statement (.clampScalar m d a b) := by
  intro h
  refine one 0x0D3#10 m d a b rfl rfl ?_
  simp only [decodeWord, fieldsOf_enc]
  rfl

theorem clampLiteral m d a l : Statement (.clampLiteral m d a l) := by
  intro h
  refine two 0x0F2#10 m d a 0#6 (l.toWord) rfl rfl ?_
  simp only [decodeWord, fieldsOf_enc]
  have h : m.lub = false := by simpa [Instr.wf] using h
  show accept (!m.lub) ((LI.ofWord l.toWord).map fun l => .clampLiteral m d a l) = _
  rw [LI.ofWord_toWord, h]
  rfl

theorem cmpVector m d a b l : Statement (.cmpVector m d a b l) := by
  intro h
  refine two 0x0D4#10 m d a b (l.toWord) rfl rfl ?_
  simp only [decodeWord, fieldsOf_enc]
  show accept true ((LCmp.ofWord l.toWord).map fun l => .cmpVector m d a b l) = _
  rw [LCmp.ofWord_toWord]
  rfl

theorem cmpScalar m d a b l : Statement (.cmpScalar m d a b l) := by
  intro h
  refine two 0x0D5#10 m d a b (l.toWord) rfl rfl ?_
  simp only [decodeWord, fieldsOf_enc]
  show accept true ((LCmp.ofWord l.toWord).map fun l => .cmpScalar m d a b l) = _
  rw [LCmp.ofWord_toWord]
  rfl

theorem abs m d a : Statement (.abs m d a) := by
  intro h
  refine one 0x0D6#10 m d a 0#6 rfl rfl ?_
  simp only [decodeWord, fieldsOf_enc]
  rfl

theorem neg m d a : Statement (.neg m d a) := by
  intro h
  refine one 0x0D8#10 m d a 0#6 rfl rfl ?_
  simp only [decodeWord, fieldsOf_enc]
  rfl

theorem sqrt m d a : Statement (.sqrt m d a) := by
  intro h
  refine one 0x0DA#10 m d a 0#6 rfl rfl ?_
  simp only [decodeWord, fieldsOf_enc]
  rfl

theorem fcls m d a : Statement (.fcls m d a) := by
  intro h
  refine one 0x0DC#10 m d a 0#6 rfl rfl ?_
  simp only [decodeWord, fieldsOf_enc]
  rfl

theorem rdx m d a : Statement (.rdx m d a) := by
  intro h
  refine one 0x0DE#10 m d a 0#6 rfl rfl ?_
  simp only [decodeWord, fieldsOf_enc]
  rfl

theorem cvt m d a l : Statement (.cvt m d a l) := by
  intro h
  refine two 0x100#10 m d a 0#6 (l.toWord) rfl rfl ?_
  simp only [decodeWord, fieldsOf_enc]
  show accept true ((LCvt.ofWord l.toWord).map fun l => .cvt m d a l) = _
  rw [LCvt.ofWord_toWord]
  rfl

theorem qnt m d a b l : Statement (.qnt m d a b l) := by
  intro h
  refine two 0x101#10 m d a b (l.toWord) rfl rfl ?_
  simp only [decodeWord, fieldsOf_enc]
  show accept true ((LQnt.ofWord l.toWord).map fun l => .qnt m d a b l) = _
  rw [LQnt.ofWord_toWord]
  rfl

theorem dqnt m d a b l : Statement (.dqnt m d a b l) := by
  intro h
  refine two 0x102#10 m d a b (l.toWord) rfl rfl ?_
  simp only [decodeWord, fieldsOf_enc]
  show accept true ((LDqnt.ofWord l.toWord).map fun l => .dqnt m d a b l) = _
  rw [LDqnt.ofWord_toWord]
  rfl

theorem amaxValue m d a : Statement (.amaxValue m d a) := by
  intro h
  refine one 0x103#10 m d a 0#6 rfl rfl ?_
  simp only [decodeWord, fieldsOf_enc]
  rfl

theorem amaxExponent m d a : Statement (.amaxExponent m d a) := by
  intro h
  refine one 0x104#10 m d a 0#6 rfl rfl ?_
  simp only [decodeWord, fieldsOf_enc]
  rfl

theorem exp2 m d a : Statement (.exp2 m d a) := by
  intro h
  refine one 0x105#10 m d a 0#6 rfl rfl ?_
  simp only [decodeWord, fieldsOf_enc]
  rfl

theorem log2 m d a : Statement (.log2 m d a) := by
  intro h
  refine one 0x106#10 m d a 0#6 rfl rfl ?_
  simp only [decodeWord, fieldsOf_enc]
  rfl

theorem sin m d a : Statement (.sin m d a) := by
  intro h
  refine one 0x107#10 m d a 0#6 rfl rfl ?_
  simp only [decodeWord, fieldsOf_enc]
  rfl

theorem cos m d a : Statement (.cos m d a) := by
  intro h
  refine one 0x108#10 m d a 0#6 rfl rfl ?_
  simp only [decodeWord, fieldsOf_enc]
  rfl

theorem rcp m d a : Statement (.rcp m d a) := by
  intro h
  refine one 0x109#10 m d a 0#6 rfl rfl ?_
  simp only [decodeWord, fieldsOf_enc]
  rfl

theorem rsq m d a : Statement (.rsq m d a) := by
  intro h
  refine one 0x10A#10 m d a 0#6 rfl rfl ?_
  simp only [decodeWord, fieldsOf_enc]
  rfl

theorem ldVectorBase m d a l : Statement (.ldVectorBase m d a l) := by
  intro h
  refine two 0x140#10 m d a 0#6 (l.toWord) rfl rfl ?_
  simp only [decodeWord, fieldsOf_enc]
  show accept true ((LS.ofWord l.toWord).map fun l => .ldVectorBase m d a l) = _
  rw [LS.ofWord_toWord]
  rfl

theorem ldScalarBase m d a l : Statement (.ldScalarBase m d a l) := by
  intro h
  refine two 0x141#10 m d a 0#6 (l.toWord) rfl rfl ?_
  simp only [decodeWord, fieldsOf_enc]
  show accept true ((LS.ofWord l.toWord).map fun l => .ldScalarBase m d a l) = _
  rw [LS.ofWord_toWord]
  rfl

theorem ldk m d a l : Statement (.ldk m d a l) := by
  intro h
  refine two 0x142#10 m d a 0#6 (l.toWord) rfl rfl ?_
  simp only [decodeWord, fieldsOf_enc]
  show accept true ((LS.ofWord l.toWord).map fun l => .ldk m d a l) = _
  rw [LS.ofWord_toWord]
  rfl

theorem ldsVectorBase m d a l : Statement (.ldsVectorBase m d a l) := by
  intro h
  refine two 0x143#10 m d a 0#6 (l.toWord) rfl rfl ?_
  simp only [decodeWord, fieldsOf_enc]
  show accept true ((LS.ofWord l.toWord).map fun l => .ldsVectorBase m d a l) = _
  rw [LS.ofWord_toWord]
  rfl

theorem ldsScalarBase m d a l : Statement (.ldsScalarBase m d a l) := by
  intro h
  refine two 0x144#10 m d a 0#6 (l.toWord) rfl rfl ?_
  simp only [decodeWord, fieldsOf_enc]
  show accept true ((LS.ofWord l.toWord).map fun l => .ldsScalarBase m d a l) = _
  rw [LS.ofWord_toWord]
  rfl

theorem ldxVectorBase m d a l : Statement (.ldxVectorBase m d a l) := by
  intro h
  refine two 0x145#10 m d a 0#6 (l.toWord) rfl rfl ?_
  simp only [decodeWord, fieldsOf_enc]
  show accept true ((LS.ofWord l.toWord).map fun l => .ldxVectorBase m d a l) = _
  rw [LS.ofWord_toWord]
  rfl

theorem ldxScalarBase m d a l : Statement (.ldxScalarBase m d a l) := by
  intro h
  refine two 0x146#10 m d a 0#6 (l.toWord) rfl rfl ?_
  simp only [decodeWord, fieldsOf_enc]
  show accept true ((LS.ofWord l.toWord).map fun l => .ldxScalarBase m d a l) = _
  rw [LS.ofWord_toWord]
  rfl

theorem stVectorBase m a b l : Statement (.stVectorBase m a b l) := by
  intro h
  refine two 0x147#10 m 0#6 a b (l.toWord) rfl rfl ?_
  simp only [decodeWord, fieldsOf_enc]
  show accept true ((LS.ofWord l.toWord).map fun l => .stVectorBase m a b l) = _
  rw [LS.ofWord_toWord]
  rfl

theorem stScalarBase m a b l : Statement (.stScalarBase m a b l) := by
  intro h
  refine two 0x148#10 m 0#6 a b (l.toWord) rfl rfl ?_
  simp only [decodeWord, fieldsOf_enc]
  show accept true ((LS.ofWord l.toWord).map fun l => .stScalarBase m a b l) = _
  rw [LS.ofWord_toWord]
  rfl

theorem stsVectorBase m a b l : Statement (.stsVectorBase m a b l) := by
  intro h
  refine two 0x149#10 m 0#6 a b (l.toWord) rfl rfl ?_
  simp only [decodeWord, fieldsOf_enc]
  show accept true ((LS.ofWord l.toWord).map fun l => .stsVectorBase m a b l) = _
  rw [LS.ofWord_toWord]
  rfl

theorem stsScalarBase m a b l : Statement (.stsScalarBase m a b l) := by
  intro h
  refine two 0x14A#10 m 0#6 a b (l.toWord) rfl rfl ?_
  simp only [decodeWord, fieldsOf_enc]
  show accept true ((LS.ofWord l.toWord).map fun l => .stsScalarBase m a b l) = _
  rw [LS.ofWord_toWord]
  rfl

theorem stxVectorBase m a b l : Statement (.stxVectorBase m a b l) := by
  intro h
  refine two 0x14B#10 m 0#6 a b (l.toWord) rfl rfl ?_
  simp only [decodeWord, fieldsOf_enc]
  show accept true ((LS.ofWord l.toWord).map fun l => .stxVectorBase m a b l) = _
  rw [LS.ofWord_toWord]
  rfl

theorem stxScalarBase m a b l : Statement (.stxScalarBase m a b l) := by
  intro h
  refine two 0x14C#10 m 0#6 a b (l.toWord) rfl rfl ?_
  simp only [decodeWord, fieldsOf_enc]
  show accept true ((LS.ofWord l.toWord).map fun l => .stxScalarBase m a b l) = _
  rw [LS.ofWord_toWord]
  rfl

theorem spld m d l : Statement (.spld m d l) := by
  intro h
  refine two 0x14D#10 m d 0#6 0#6 (l.toWord) rfl rfl ?_
  simp only [decodeWord, fieldsOf_enc]
  show accept true ((LS.ofWord l.toWord).map fun l => .spld m d l) = _
  rw [LS.ofWord_toWord]
  rfl

theorem spst m b l : Statement (.spst m b l) := by
  intro h
  refine two 0x14E#10 m 0#6 0#6 b (l.toWord) rfl rfl ?_
  simp only [decodeWord, fieldsOf_enc]
  show accept true ((LS.ofWord l.toWord).map fun l => .spst m b l) = _
  rw [LS.ofWord_toWord]
  rfl

theorem prefVectorBase m a l : Statement (.prefVectorBase m a l) := by
  intro h
  refine two 0x14F#10 m 0#6 a 0#6 (l.toWord) rfl rfl ?_
  simp only [decodeWord, fieldsOf_enc]
  show accept true ((LS.ofWord l.toWord).map fun l => .prefVectorBase m a l) = _
  rw [LS.ofWord_toWord]
  rfl

theorem prefScalarBase m a l : Statement (.prefScalarBase m a l) := by
  intro h
  refine two 0x150#10 m 0#6 a 0#6 (l.toWord) rfl rfl ?_
  simp only [decodeWord, fieldsOf_enc]
  show accept true ((LS.ofWord l.toWord).map fun l => .prefScalarBase m a l) = _
  rw [LS.ofWord_toWord]
  rfl

theorem atomVectorBase m d a b l : Statement (.atomVectorBase m d a b l) := by
  intro h
  refine two 0x180#10 m d a b (l.toWord) rfl rfl ?_
  simp only [decodeWord, fieldsOf_enc]
  show (match LA.ofWord l.toWord with
    | some l => accept (noReply ⟨0x180#10, d, a, b, m⟩ l) (some (.atomVectorBase m d a b l))
    | none => .error .reservedField) = _
  rw [LA.ofWord_toWord]
  show accept (LA.wf d l) _ = _
  rw [show LA.wf d l = true from h]
  rfl

theorem atomScalarBase m d a b l : Statement (.atomScalarBase m d a b l) := by
  intro h
  refine two 0x181#10 m d a b (l.toWord) rfl rfl ?_
  simp only [decodeWord, fieldsOf_enc]
  show (match LA.ofWord l.toWord with
    | some l => accept (noReply ⟨0x181#10, d, a, b, m⟩ l) (some (.atomScalarBase m d a b l))
    | none => .error .reservedField) = _
  rw [LA.ofWord_toWord]
  show accept (LA.wf d l) _ = _
  rw [show LA.wf d l = true from h]
  rfl

theorem atomsScratchVectorBase m d a b l : Statement (.atomsScratchVectorBase m d a b l) := by
  intro h
  refine two 0x182#10 m d a b (l.toWord) rfl rfl ?_
  simp only [decodeWord, fieldsOf_enc]
  show (match LA.ofWord l.toWord with
    | some l => accept (noReply ⟨0x182#10, d, a, b, m⟩ l) (some (.atomsScratchVectorBase m d a b l))
    | none => .error .reservedField) = _
  rw [LA.ofWord_toWord]
  show accept (LA.wf d l) _ = _
  rw [show LA.wf d l = true from h]
  rfl

theorem atomsScratchScalarBase m d a b l : Statement (.atomsScratchScalarBase m d a b l) := by
  intro h
  refine two 0x183#10 m d a b (l.toWord) rfl rfl ?_
  simp only [decodeWord, fieldsOf_enc]
  show (match LA.ofWord l.toWord with
    | some l => accept (noReply ⟨0x183#10, d, a, b, m⟩ l) (some (.atomsScratchScalarBase m d a b l))
    | none => .error .reservedField) = _
  rw [LA.ofWord_toWord]
  show accept (LA.wf d l) _ = _
  rw [show LA.wf d l = true from h]
  rfl

theorem atomsCommonsVectorBase m d a b l : Statement (.atomsCommonsVectorBase m d a b l) := by
  intro h
  refine two 0x184#10 m d a b (l.toWord) rfl rfl ?_
  simp only [decodeWord, fieldsOf_enc]
  show (match LA.ofWord l.toWord with
    | some l => accept (noReply ⟨0x184#10, d, a, b, m⟩ l) (some (.atomsCommonsVectorBase m d a b l))
    | none => .error .reservedField) = _
  rw [LA.ofWord_toWord]
  show accept (LA.wf d l) _ = _
  rw [show LA.wf d l = true from h]
  rfl

theorem atomsCommonsScalarBase m d a b l : Statement (.atomsCommonsScalarBase m d a b l) := by
  intro h
  refine two 0x185#10 m d a b (l.toWord) rfl rfl ?_
  simp only [decodeWord, fieldsOf_enc]
  show (match LA.ofWord l.toWord with
    | some l => accept (noReply ⟨0x185#10, d, a, b, m⟩ l) (some (.atomsCommonsScalarBase m d a b l))
    | none => .error .reservedField) = _
  rw [LA.ofWord_toWord]
  show accept (LA.wf d l) _ = _
  rw [show LA.wf d l = true from h]
  rfl

theorem atomrVectorBase m d a b l : Statement (.atomrVectorBase m d a b l) := by
  intro h
  refine two 0x186#10 m d a b (l.toWord) rfl rfl ?_
  simp only [decodeWord, fieldsOf_enc]
  show (match LA.ofWord l.toWord with
    | some l => accept (noReply ⟨0x186#10, d, a, b, m⟩ l) (some (.atomrVectorBase m d a b l))
    | none => .error .reservedField) = _
  rw [LA.ofWord_toWord]
  show accept (LA.wf d l) _ = _
  rw [show LA.wf d l = true from h]
  rfl

theorem atomrScalarBase m d a b l : Statement (.atomrScalarBase m d a b l) := by
  intro h
  refine two 0x187#10 m d a b (l.toWord) rfl rfl ?_
  simp only [decodeWord, fieldsOf_enc]
  show (match LA.ofWord l.toWord with
    | some l => accept (noReply ⟨0x187#10, d, a, b, m⟩ l) (some (.atomrScalarBase m d a b l))
    | none => .error .reservedField) = _
  rw [LA.ofWord_toWord]
  show accept (LA.wf d l) _ = _
  rw [show LA.wf d l = true from h]
  rfl

theorem fence m l : Statement (.fence m l) := by
  intro h
  refine two 0x188#10 m 0#6 0#6 0#6 (l.toWord) rfl rfl ?_
  simp only [decodeWord, fieldsOf_enc]
  show accept true ((LFence.ofWord l.toWord).map fun l => .fence m l) = _
  rw [LFence.ofWord_toWord]
  rfl

theorem bari m a b : Statement (.bari m a b) := by
  intro h
  refine one 0x1C0#10 m 0#6 a b rfl rfl ?_
  simp only [decodeWord, fieldsOf_enc]
  rfl

theorem bar m a : Statement (.bar m a) := by
  intro h
  refine one 0x1C1#10 m 0#6 a 0#6 rfl rfl ?_
  simp only [decodeWord, fieldsOf_enc]
  rfl

theorem bara m a b : Statement (.bara m a b) := by
  intro h
  refine one 0x1C2#10 m 0#6 a b rfl rfl ?_
  simp only [decodeWord, fieldsOf_enc]
  rfl

theorem barw m a : Statement (.barw m a) := by
  intro h
  refine one 0x1C3#10 m 0#6 a 0#6 rfl rfl ?_
  simp only [decodeWord, fieldsOf_enc]
  rfl

theorem gbar m : Statement (.gbar m) := by
  intro h
  refine one 0x1C4#10 m 0#6 0#6 0#6 rfl rfl ?_
  simp only [decodeWord, fieldsOf_enc]
  rfl

theorem evpub m a : Statement (.evpub m a) := by
  intro h
  refine one 0x1C5#10 m 0#6 a 0#6 rfl rfl ?_
  simp only [decodeWord, fieldsOf_enc]
  rfl

theorem evwait m d a : Statement (.evwait m d a) := by
  intro h
  refine one 0x1C6#10 m d a 0#6 rfl rfl ?_
  simp only [decodeWord, fieldsOf_enc]
  rfl

theorem evpeek m d a : Statement (.evpeek m d a) := by
  intro h
  refine one 0x1C7#10 m d a 0#6 rfl rfl ?_
  simp only [decodeWord, fieldsOf_enc]
  rfl

theorem enq m a b l : Statement (.enq m a b l) := by
  intro h
  refine two 0x1C8#10 m 0#6 a b (l.toWord) rfl rfl ?_
  simp only [decodeWord, fieldsOf_enc]
  show accept true ((LNode.ofWord l.toWord).map fun l => .enq m a b l) = _
  rw [LNode.ofWord_toWord]
  rfl

theorem enqf m l : Statement (.enqf m l) := by
  intro h
  refine two 0x1C9#10 m 0#6 0#6 0#6 (l.toWord) rfl rfl ?_
  simp only [decodeWord, fieldsOf_enc]
  show accept true ((LNode.ofWord l.toWord).map fun l => .enqf m l) = _
  rw [LNode.ofWord_toWord]
  rfl

theorem cpost m a : Statement (.cpost m a) := by
  intro h
  refine one 0x200#10 m 0#6 a 0#6 rfl rfl ?_
  simp only [decodeWord, fieldsOf_enc]
  rfl

theorem cbatch m d : Statement (.cbatch m d) := by
  intro h
  refine one 0x201#10 m d 0#6 0#6 rfl rfl ?_
  simp only [decodeWord, fieldsOf_enc]
  rfl

theorem cwait m a : Statement (.cwait m a) := by
  intro h
  refine one 0x202#10 m 0#6 a 0#6 rfl rfl ?_
  simp only [decodeWord, fieldsOf_enc]
  rfl

theorem cstat m d a : Statement (.cstat m d a) := by
  intro h
  refine one 0x203#10 m d a 0#6 rfl rfl ?_
  simp only [decodeWord, fieldsOf_enc]
  rfl

theorem mloop m d a b l : Statement (.mloop m d a b l) := by
  intro h
  refine two 0x240#10 m d a b (l.toWord) rfl rfl ?_
  simp only [decodeWord, fieldsOf_enc]
  show accept true ((LMloop.ofWord l.toWord).map fun l => .mloop m d a b l) = _
  rw [LMloop.ofWord_toWord]
  rfl

theorem mtld m d a : Statement (.mtld m d a) := by
  intro h
  refine one 0x241#10 m d a 0#6 rfl rfl ?_
  simp only [decodeWord, fieldsOf_enc]
  rfl

theorem macr m a b l : Statement (.macr m a b l) := by
  intro h
  refine two 0x242#10 m 0#6 a b (l.toWord) rfl rfl ?_
  simp only [decodeWord, fieldsOf_enc]
  show accept true ((LMacr.ofWord l.toWord).map fun l => .macr m a b l) = _
  rw [LMacr.ofWord_toWord]
  rfl

theorem macw m d a l : Statement (.macw m d a l) := by
  intro h
  refine two 0x243#10 m d a 0#6 (l.toWord) rfl rfl ?_
  simp only [decodeWord, fieldsOf_enc]
  show accept true ((LMacw.ofWord l.toWord).map fun l => .macw m d a l) = _
  rw [LMacw.ofWord_toWord]
  rfl

theorem macz m d : Statement (.macz m d) := by
  intro h
  refine one 0x244#10 m d 0#6 0#6 rfl rfl ?_
  simp only [decodeWord, fieldsOf_enc]
  rfl

theorem mrsv m d : Statement (.mrsv m d) := by
  intro h
  refine one 0x245#10 m d 0#6 0#6 rfl rfl ?_
  simp only [decodeWord, fieldsOf_enc]
  rfl

theorem mrel m : Statement (.mrel m) := by
  intro h
  refine one 0x246#10 m 0#6 0#6 0#6 rfl rfl ?_
  simp only [decodeWord, fieldsOf_enc]
  rfl

theorem mwait m : Statement (.mwait m) := by
  intro h
  refine one 0x247#10 m 0#6 0#6 0#6 rfl rfl ?_
  simp only [decodeWord, fieldsOf_enc]
  rfl

theorem draw m d a b : Statement (.draw m d a b) := by
  intro h
  refine one 0x280#10 m d a b rfl rfl ?_
  simp only [decodeWord, fieldsOf_enc]
  rfl

theorem drawi m d a b : Statement (.drawi m d a b) := by
  intro h
  refine one 0x281#10 m d a b rfl rfl ?_
  simp only [decodeWord, fieldsOf_enc]
  rfl

theorem rbits m d : Statement (.rbits m d) := by
  intro h
  refine one 0x282#10 m d 0#6 0#6 rfl rfl ?_
  simp only [decodeWord, fieldsOf_enc]
  rfl

theorem cvcfg m l : Statement (.cvcfg m l) := by
  intro h
  refine two 0x283#10 m 0#6 0#6 0#6 (l.toWord) rfl rfl ?_
  simp only [decodeWord, fieldsOf_enc]
  show accept true ((LCvcfg.ofWord l.toWord).map fun l => .cvcfg m l) = _
  rw [LCvcfg.ofWord_toWord]
  rfl

theorem cvset m a b : Statement (.cvset m a b) := by
  intro h
  refine one 0x284#10 m 0#6 a b rfl rfl ?_
  simp only [decodeWord, fieldsOf_enc]
  rfl

theorem cvsta m d : Statement (.cvsta m d) := by
  intro h
  refine one 0x285#10 m d 0#6 0#6 rfl rfl ?_
  simp only [decodeWord, fieldsOf_enc]
  rfl

theorem rlch m a : Statement (.rlch m a) := by
  intro h
  refine one 0x286#10 m 0#6 a 0#6 rfl rfl ?_
  simp only [decodeWord, fieldsOf_enc]
  rfl

theorem heir m a l : Statement (.heir m a l) := by
  intro h
  refine two 0x2C0#10 m 0#6 a 0#6 (l.toWord) rfl rfl ?_
  simp only [decodeWord, fieldsOf_enc]
  show (match LHeir.ofWord l.toWord with
    | some l => accept (0#6 == 0#6 && 0#6 == 0#6 && (l.kind == 0#2 || a == 0#6)) (some (.heir m a l))
    | none => .error .reservedField) = _
  rw [LHeir.ofWord_toWord]
  show accept (l.kind == 0#2 || a == 0#6) _ = _
  rw [show (l.kind == 0#2 || a == 0#6) = true from h]
  rfl

theorem estq m d a : Statement (.estq m d a) := by
  intro h
  refine one 0x2C1#10 m d a 0#6 rfl rfl ?_
  simp only [decodeWord, fieldsOf_enc]
  rfl

theorem lock m d a : Statement (.lock m d a) := by
  intro h
  refine one 0x2C2#10 m d a 0#6 rfl rfl ?_
  simp only [decodeWord, fieldsOf_enc]
  rfl

theorem unlock m a : Statement (.unlock m a) := by
  intro h
  refine one 0x2C3#10 m 0#6 a 0#6 rfl rfl ?_
  simp only [decodeWord, fieldsOf_enc]
  rfl

theorem prom m a : Statement (.prom m a) := by
  intro h
  refine one 0x2C4#10 m 0#6 a 0#6 rfl rfl ?_
  simp only [decodeWord, fieldsOf_enc]
  rfl

theorem fulfil m a b : Statement (.fulfil m a b) := by
  intro h
  refine one 0x2C5#10 m 0#6 a b rfl rfl ?_
  simp only [decodeWord, fieldsOf_enc]
  rfl

theorem await m d a : Statement (.await m d a) := by
  intro h
  refine one 0x2C6#10 m d a 0#6 rfl rfl ?_
  simp only [decodeWord, fieldsOf_enc]
  rfl

theorem rcq m d a l : Statement (.rcq m d a l) := by
  intro h
  refine two 0x300#10 m d a 0#6 (l.toWord) rfl rfl ?_
  simp only [decodeWord, fieldsOf_enc]
  show accept true ((LRcq.ofWord l.toWord).map fun l => .rcq m d a l) = _
  rw [LRcq.ofWord_toWord]
  rfl

theorem rct m a b : Statement (.rct m a b) := by
  intro h
  refine one 0x301#10 m 0#6 a b rfl rfl ?_
  simp only [decodeWord, fieldsOf_enc]
  rfl

theorem rcctlSteps m a : Statement (.rcctlSteps m a) := by
  intro h
  refine two 0x302#10 m 0#6 a 0#6 0x00000000#32 rfl rfl ?_
  simp only [decodeWord, fieldsOf_enc]
  rfl

theorem rcctlLr m a : Statement (.rcctlLr m a) := by
  intro h
  refine two 0x302#10 m 0#6 a 0#6 0x00000001#32 rfl rfl ?_
  simp only [decodeWord, fieldsOf_enc]
  rfl

theorem rcctlBeta1 m a : Statement (.rcctlBeta1 m a) := by
  intro h
  refine two 0x302#10 m 0#6 a 0#6 0x00000002#32 rfl rfl ?_
  simp only [decodeWord, fieldsOf_enc]
  rfl

theorem rcctlBeta2 m a : Statement (.rcctlBeta2 m a) := by
  intro h
  refine two 0x302#10 m 0#6 a 0#6 0x00000003#32 rfl rfl ?_
  simp only [decodeWord, fieldsOf_enc]
  rfl

theorem rcctlEps m a : Statement (.rcctlEps m a) := by
  intro h
  refine two 0x302#10 m 0#6 a 0#6 0x00000004#32 rfl rfl ?_
  simp only [decodeWord, fieldsOf_enc]
  rfl

theorem rcctlFrame m a : Statement (.rcctlFrame m a) := by
  intro h
  refine two 0x302#10 m 0#6 a 0#6 0x00000005#32 rfl rfl ?_
  simp only [decodeWord, fieldsOf_enc]
  rfl

theorem rcctlFlush m a : Statement (.rcctlFlush m a) := by
  intro h
  refine two 0x302#10 m 0#6 a 0#6 0x00000006#32 rfl rfl ?_
  simp only [decodeWord, fieldsOf_enc]
  rfl

theorem rcctlLoadw m a : Statement (.rcctlLoadw m a) := by
  intro h
  refine two 0x302#10 m 0#6 a 0#6 0x00000008#32 rfl rfl ?_
  simp only [decodeWord, fieldsOf_enc]
  rfl

theorem rpkt m a l : Statement (.rpkt m a l) := by
  intro h
  refine two 0x303#10 m 0#6 a 0#6 (l.toWord) rfl rfl ?_
  simp only [decodeWord, fieldsOf_enc]
  show accept true ((LTree.ofWord l.toWord).map fun l => .rpkt m a l) = _
  rw [LTree.ofWord_toWord]
  rfl

theorem rprcv m d a l : Statement (.rprcv m d a l) := by
  intro h
  refine two 0x304#10 m d a 0#6 (l.toWord) rfl rfl ?_
  simp only [decodeWord, fieldsOf_enc]
  show accept true ((LTree.ofWord l.toWord).map fun l => .rprcv m d a l) = _
  rw [LTree.ofWord_toWord]
  rfl

theorem srd m d l : Statement (.srd m d l) := by
  intro h
  refine two 0x340#10 m d 0#6 0#6 (l.toWord) rfl rfl ?_
  simp only [decodeWord, fieldsOf_enc]
  show accept true ((LIdx.ofWord l.toWord).map fun l => .srd m d l) = _
  rw [LIdx.ofWord_toWord]
  rfl

theorem swr m a l : Statement (.swr m a l) := by
  intro h
  refine two 0x341#10 m 0#6 a 0#6 (l.toWord) rfl rfl ?_
  simp only [decodeWord, fieldsOf_enc]
  show accept true ((LIdx.ofWord l.toWord).map fun l => .swr m a l) = _
  rw [LIdx.ofWord_toWord]
  rfl

theorem sysc m l : Statement (.sysc m l) := by
  intro h
  refine two 0x342#10 m 0#6 0#6 0#6 (l.toWord) rfl rfl ?_
  simp only [decodeWord, fieldsOf_enc]
  show accept true ((LSysc.ofWord l.toWord).map fun l => .sysc m l) = _
  rw [LSysc.ofWord_toWord]
  rfl

theorem trap m l : Statement (.trap m l) := by
  intro h
  refine two 0x343#10 m 0#6 0#6 0#6 (l.toWord) rfl rfl ?_
  simp only [decodeWord, fieldsOf_enc]
  show accept true ((LIdx.ofWord l.toWord).map fun l => .trap m l) = _
  rw [LIdx.ofWord_toWord]
  rfl

theorem rte m : Statement (.rte m) := by
  intro h
  refine one 0x344#10 m 0#6 0#6 0#6 rfl rfl ?_
  simp only [decodeWord, fieldsOf_enc]
  rfl

theorem bkpt m : Statement (.bkpt m) := by
  intro h
  refine one 0x345#10 m 0#6 0#6 0#6 rfl rfl ?_
  simp only [decodeWord, fieldsOf_enc]
  rfl

theorem ctr m d l : Statement (.ctr m d l) := by
  intro h
  refine two 0x346#10 m d 0#6 0#6 (l.toWord) rfl rfl ?_
  simp only [decodeWord, fieldsOf_enc]
  show accept true ((LIdx.ofWord l.toWord).map fun l => if l.idx = 0x21#8 then .ctrMflagsClear m d else .ctr m d l) = _
  rw [LIdx.ofWord_toWord]
  have h : l.idx ≠ 0x21#8 := by simpa [Instr.wf] using h
  simp only [accept, Option.map_some, h, ↓reduceIte]

theorem ctrMflagsClear m d : Statement (.ctrMflagsClear m d) := by
  intro h
  refine two 0x346#10 m d 0#6 0#6 0x00000021#32 rfl rfl ?_
  simp only [decodeWord, fieldsOf_enc]
  rfl

theorem bnds m a l : Statement (.bnds m a l) := by
  intro h
  refine two 0x347#10 m 0#6 a 0#6 (l.toWord) rfl rfl ?_
  simp only [decodeWord, fieldsOf_enc]
  show accept true ((LBnds.ofWord l.toWord).map fun l => .bnds m a l) = _
  rw [LBnds.ofWord_toWord]
  rfl

theorem decodeControl_none (fn : Nat) (f : Fields) (w : Word) (hb : fn < 64) (h : assignedOpcode (0 * 64 + fn) = false) : decodeControl fn f w = none := by
  unfold decodeControl
  split <;> first
    | rfl
    | exact absurd h (by decide)

theorem decodeLane_none (fn : Nat) (f : Fields) (w : Word) (hb : fn < 64) (h : assignedOpcode (1 * 64 + fn) = false) : decodeLane fn f w = none := by
  unfold decodeLane
  split <;> first
    | rfl
    | exact absurd h (by decide)

theorem decodeLogic_none (fn : Nat) (f : Fields) (w : Word) (hb : fn < 64) (h : assignedOpcode (2 * 64 + fn) = false) : decodeLogic fn f w = none := by
  unfold decodeLogic
  split <;> first
    | rfl
    | exact absurd h (by decide)

theorem decodeArith_none (fn : Nat) (f : Fields) (w : Word) (hb : fn < 64) (h : assignedOpcode (3 * 64 + fn) = false) : decodeArith fn f w = none := by
  unfold decodeArith
  split <;> first
    | rfl
    | exact absurd h (by decide)

theorem decodeConvert_none (fn : Nat) (f : Fields) (w : Word) (hb : fn < 64) (h : assignedOpcode (4 * 64 + fn) = false) : decodeConvert fn f w = none := by
  unfold decodeConvert
  split <;> first
    | rfl
    | exact absurd h (by decide)

theorem decodeLoadStore_none (fn : Nat) (f : Fields) (w : Word) (hb : fn < 64) (h : assignedOpcode (5 * 64 + fn) = false) : decodeLoadStore fn f w = none := by
  unfold decodeLoadStore
  split <;> first
    | rfl
    | exact absurd h (by decide)

theorem decodeAtomic_none (fn : Nat) (f : Fields) (w : Word) (hb : fn < 64) (h : assignedOpcode (6 * 64 + fn) = false) : decodeAtomic fn f w = none := by
  unfold decodeAtomic
  split <;> first
    | rfl
    | exact absurd h (by decide)

theorem decodeSync_none (fn : Nat) (f : Fields) (w : Word) (hb : fn < 64) (h : assignedOpcode (7 * 64 + fn) = false) : decodeSync fn f w = none := by
  unfold decodeSync
  split <;> first
    | rfl
    | exact absurd h (by decide)

theorem decodeCopy_none (fn : Nat) (f : Fields) (w : Word) (hb : fn < 64) (h : assignedOpcode (8 * 64 + fn) = false) : decodeCopy fn f w = none := by
  unfold decodeCopy
  split <;> first
    | rfl
    | exact absurd h (by decide)

theorem decodeMatrix_none (fn : Nat) (f : Fields) (w : Word) (hb : fn < 64) (h : assignedOpcode (9 * 64 + fn) = false) : decodeMatrix fn f w = none := by
  unfold decodeMatrix
  split <;> first
    | rfl
    | exact absurd h (by decide)

theorem decodeChoice_none (fn : Nat) (f : Fields) (w : Word) (hb : fn < 64) (h : assignedOpcode (10 * 64 + fn) = false) : decodeChoice fn f w = none := by
  unfold decodeChoice
  split <;> first
    | rfl
    | exact absurd h (by decide)

theorem decodeEstate_none (fn : Nat) (f : Fields) (w : Word) (hb : fn < 64) (h : assignedOpcode (11 * 64 + fn) = false) : decodeEstate fn f w = none := by
  unfold decodeEstate
  split <;> first
    | rfl
    | exact absurd h (by decide)

theorem decodeMesh_none (fn : Nat) (f : Fields) (w : Word) (hb : fn < 64) (h : assignedOpcode (12 * 64 + fn) = false) : decodeMesh fn f w = none := by
  unfold decodeMesh
  split <;> first
    | rfl
    | exact absurd h (by decide)

theorem decodeSystem_none (fn : Nat) (f : Fields) (w : Word) (hb : fn < 64) (h : assignedOpcode (13 * 64 + fn) = false) : decodeSystem fn f w = none := by
  unfold decodeSystem
  split <;> first
    | rfl
    | exact absurd h (by decide)

/-- An unassigned opcode takes no literal. -/
theorem no_literal : ∀ n, n < 1024 → assignedOpcode n = false → takesLiteral (BitVec.ofNat 10 n) = false := by decide +kernel

theorem opcode_toNat (w : Word) : (fieldsOf w).op.toNat = w.toNat / 2 ^ 22 := by
  have : w.toNat < 2 ^ 32 := w.isLt
  simp only [fieldsOf, BitVec.extractLsb'_toNat, Nat.shiftRight_eq_div_pow]
  omega

theorem unassigned_word (w lit : Word) (h : assignedOpcode (w.toNat / 2 ^ 22) = false) : decodeWord w lit = .ok (.unassignedOpcode w) := by
  have hw : w.toNat / 2 ^ 22 < 1024 := by have := w.isLt; omega
  simp only [decodeWord, opcode_toNat]
  generalize w.toNat / 2 ^ 22 = n at h hw
  have hd : n = n / 64 * 64 + n % 64 := by omega
  have hm : n % 64 < 64 := by omega
  generalize n % 64 = fn at hd hm
  generalize n / 64 = k at hd
  subst hd
  split
  · rw [decodeControl_none _ _ _ hm h]; rfl
  · rw [decodeLane_none _ _ _ hm h]; rfl
  · rw [decodeLogic_none _ _ _ hm h]; rfl
  · rw [decodeArith_none _ _ _ hm h]; rfl
  · rw [decodeConvert_none _ _ _ hm h]; rfl
  · rw [decodeLoadStore_none _ _ _ hm h]; rfl
  · rw [decodeAtomic_none _ _ _ hm h]; rfl
  · rw [decodeSync_none _ _ _ hm h]; rfl
  · rw [decodeCopy_none _ _ _ hm h]; rfl
  · rw [decodeMatrix_none _ _ _ hm h]; rfl
  · rw [decodeChoice_none _ _ _ hm h]; rfl
  · rw [decodeEstate_none _ _ _ hm h]; rfl
  · rw [decodeMesh_none _ _ _ hm h]; rfl
  · rw [decodeSystem_none _ _ _ hm h]; rfl
  · rfl

theorem unassignedOpcode (w : Word) : Statement (.unassignedOpcode w) := by
  intro h rest
  have h : assignedOpcode (w.toNat / 2 ^ 22) = false := by simpa [Instr.wf] using h
  have hl : takesLiteral (fieldsOf w).op = false := by
    have := no_literal (w.toNat / 2 ^ 22) (by have := w.isLt; omega) h
    rwa [← opcode_toNat, BitVec.ofNat_toNat, BitVec.setWidth_eq] at this
  simp only [encode, List.cons_append, List.nil_append, decode, hl, unassigned_word w 0#32 h, Bool.false_eq_true, ↓reduceIte]
  rfl

theorem launch x0 : Statement (.launch x0) := by
  intro h
  exact (Bool.false_ne_true h).elim

theorem faultStatusResolved x0 x1 : Statement (.faultStatusResolved x0 x1) := by
  intro h
  exact (Bool.false_ne_true h).elim

theorem faultStatusDenied x0 x1 : Statement (.faultStatusDenied x0 x1) := by
  intro h
  exact (Bool.false_ne_true h).elim

theorem commonsWindowGrant x0 x1 x2 : Statement (.commonsWindowGrant x0 x1 x2) := by
  intro h
  exact (Bool.false_ne_true h).elim

theorem commonsContributionSet x0 x1 : Statement (.commonsContributionSet x0 x1) := by
  intro h
  exact (Bool.false_ne_true h).elim

theorem translationInvalidation x0 x1 : Statement (.translationInvalidation x0 x1) := by
  intro h
  exact (Bool.false_ne_true h).elim

theorem invalidationComplete x0 : Statement (.invalidationComplete x0) := by
  intro h
  exact (Bool.false_ne_true h).elim

theorem watchpointWrite x0 x1 x2 : Statement (.watchpointWrite x0 x1 x2) := by
  intro h
  exact (Bool.false_ne_true h).elim

theorem identify x0 : Statement (.identify x0) := by
  intro h
  exact (Bool.false_ne_true h).elim

theorem attest x0 : Statement (.attest x0) := by
  intro h
  exact (Bool.false_ne_true h).elim

theorem loadImage x0 x1 : Statement (.loadImage x0 x1) := by
  intro h
  exact (Bool.false_ne_true h).elim

theorem resetWarm x0 : Statement (.resetWarm x0) := by
  intro h
  exact (Bool.false_ne_true h).elim

theorem resetFull x0 : Statement (.resetFull x0) := by
  intro h
  exact (Bool.false_ne_true h).elim

theorem readCounters x0 : Statement (.readCounters x0) := by
  intro h
  exact (Bool.false_ne_true h).elim

theorem setPowerLimit x0 : Statement (.setPowerLimit x0) := by
  intro h
  exact (Bool.false_ne_true h).elim

theorem retrieveDump x0 : Statement (.retrieveDump x0) := by
  intro h
  exact (Bool.false_ne_true h).elim

theorem readErrorLog x0 : Statement (.readErrorLog x0) := by
  intro h
  exact (Bool.false_ne_true h).elim

theorem partReset x0 : Statement (.partReset x0) := by
  intro h
  exact (Bool.false_ne_true h).elim

theorem bootImageRetry x0 : Statement (.bootImageRetry x0) := by
  intro h
  exact (Bool.false_ne_true h).elim

theorem poolRefill x0 x1 : Statement (.poolRefill x0 x1) := by
  intro h
  exact (Bool.false_ne_true h).elim

theorem slotAgeClose x0 x1 : Statement (.slotAgeClose x0 x1) := by
  intro h
  exact (Bool.false_ne_true h).elim

theorem routerTimeout x0 x1 x2 : Statement (.routerTimeout x0 x1 x2) := by
  intro h
  exact (Bool.false_ne_true h).elim

theorem reductionPacketArrival x0 x1 : Statement (.reductionPacketArrival x0 x1) := by
  intro h
  exact (Bool.false_ne_true h).elim

theorem patrolRead x0 x1 : Statement (.patrolRead x0 x1) := by
  intro h
  exact (Bool.false_ne_true h).elim

theorem thermalThrottleStart x0 x1 : Statement (.thermalThrottleStart x0 x1) := by
  intro h
  exact (Bool.false_ne_true h).elim

theorem throttleStep x0 : Statement (.throttleStep x0) := by
  intro h
  exact (Bool.false_ne_true h).elim

theorem thermalReset x0 x1 x2 : Statement (.thermalReset x0 x1 x2) := by
  intro h
  exact (Bool.false_ne_true h).elim

theorem atomicReply x0 : Statement (.atomicReply x0) := by
  intro h
  exact (Bool.false_ne_true h).elim

theorem registerLineFill x0 : Statement (.registerLineFill x0) := by
  intro h
  exact (Bool.false_ne_true h).elim

theorem storeQueueDrain x0 : Statement (.storeQueueDrain x0) := by
  intro h
  exact (Bool.false_ne_true h).elim

theorem watchpointHit x0 : Statement (.watchpointHit x0) := by
  intro h
  exact (Bool.false_ne_true h).elim

theorem stopNotice x0 : Statement (.stopNotice x0) := by
  intro h
  exact (Bool.false_ne_true h).elim

theorem resumeNotice x0 : Statement (.resumeNotice x0) := by
  intro h
  exact (Bool.false_ne_true h).elim

theorem courierCountDown x0 x1 x2 : Statement (.courierCountDown x0 x1 x2) := by
  intro h
  exact (Bool.false_ne_true h).elim

theorem copyFaultResume x0 x1 : Statement (.copyFaultResume x0 x1) := by
  intro h
  exact (Bool.false_ne_true h).elim

theorem deferredPathResume x0 : Statement (.deferredPathResume x0) := by
  intro h
  exact (Bool.false_ne_true h).elim

theorem faultPostAfterWait x0 : Statement (.faultPostAfterWait x0) := by
  intro h
  exact (Bool.false_ne_true h).elim

theorem matrixStep x0 : Statement (.matrixStep x0) := by
  intro h
  exact (Bool.false_ne_true h).elim

theorem tapsterOptimiserStep x0 : Statement (.tapsterOptimiserStep x0) := by
  intro h
  exact (Bool.false_ne_true h).elim

theorem syscReply x0 x1 : Statement (.syscReply x0 x1) := by
  intro h
  exact (Bool.false_ne_true h).elim

theorem barWaitComplete x0 : Statement (.barWaitComplete x0) := by
  intro h
  exact (Bool.false_ne_true h).elim

theorem gbarWaitComplete x0 : Statement (.gbarWaitComplete x0) := by
  intro h
  exact (Bool.false_ne_true h).elim

theorem evwaitComplete x0 : Statement (.evwaitComplete x0) := by
  intro h
  exact (Bool.false_ne_true h).elim

theorem awaitWake x0 : Statement (.awaitWake x0) := by
  intro h
  exact (Bool.false_ne_true h).elim

theorem lockAcquireAfterWait x0 : Statement (.lockAcquireAfterWait x0) := by
  intro h
  exact (Bool.false_ne_true h).elim

theorem cwaitComplete x0 : Statement (.cwaitComplete x0) := by
  intro h
  exact (Bool.false_ne_true h).elim

theorem mwaitComplete x0 : Statement (.mwaitComplete x0) := by
  intro h
  exact (Bool.false_ne_true h).elim

theorem enqAfterWait x0 : Statement (.enqAfterWait x0) := by
  intro h
  exact (Bool.false_ne_true h).elim

theorem cpostAfterWait x0 : Statement (.cpostAfterWait x0) := by
  intro h
  exact (Bool.false_ne_true h).elim

theorem mtldAfterWait x0 : Statement (.mtldAfterWait x0) := by
  intro h
  exact (Bool.false_ne_true h).elim

theorem rpktAfterWait x0 : Statement (.rpktAfterWait x0) := by
  intro h
  exact (Bool.false_ne_true h).elim

theorem rprcvComplete x0 : Statement (.rprcvComplete x0) := by
  intro h
  exact (Bool.false_ne_true h).elim

theorem blockAdmission x0 x1 x2 x3 : Statement (.blockAdmission x0 x1 x2 x3) := by
  intro h
  exact (Bool.false_ne_true h).elim

theorem nodeBatchAdmission x0 x1 x2 : Statement (.nodeBatchAdmission x0 x1 x2) := by
  intro h
  exact (Bool.false_ne_true h).elim

theorem estateHandlerAdmission x0 x1 x2 : Statement (.estateHandlerAdmission x0 x1 x2) := by
  intro h
  exact (Bool.false_ne_true h).elim

theorem preempt x0 x1 : Statement (.preempt x0 x1) := by
  intro h
  exact (Bool.false_ne_true h).elim

theorem preemptResume x0 x1 x2 : Statement (.preemptResume x0 x1 x2) := by
  intro h
  exact (Bool.false_ne_true h).elim

theorem convey x0 : Statement (.convey x0) := by
  intro h
  exact (Bool.false_ne_true h).elim

theorem conveyanceWriteRetry x0 : Statement (.conveyanceWriteRetry x0) := by
  intro h
  exact (Bool.false_ne_true h).elim

theorem dumpCapture x0 : Statement (.dumpCapture x0) := by
  intro h
  exact (Bool.false_ne_true h).elim

theorem digestCompare x0 x1 : Statement (.digestCompare x0 x1) := by
  intro h
  exact (Bool.false_ne_true h).elim

theorem blockCompletion x0 x1 : Statement (.blockCompletion x0 x1) := by
  intro h
  exact (Bool.false_ne_true h).elim

theorem gridCompletion x0 x1 : Statement (.gridCompletion x0 x1) := by
  intro h
  exact (Bool.false_ne_true h).elim

theorem xanRun x0 : Statement (.xanRun x0) := by
  intro h
  exact (Bool.false_ne_true h).elim

theorem xanContinue x0 : Statement (.xanContinue x0) := by
  intro h
  exact (Bool.false_ne_true h).elim

theorem xanPorterHold x0 : Statement (.xanPorterHold x0) := by
  intro h
  exact (Bool.false_ne_true h).elim

theorem xanPorterResolve x0 x1 x2 : Statement (.xanPorterResolve x0 x1 x2) := by
  intro h
  exact (Bool.false_ne_true h).elim

theorem xanPorterRelease x0 x1 : Statement (.xanPorterRelease x0 x1) := by
  intro h
  exact (Bool.false_ne_true h).elim

theorem xanPageEvict x0 x1 : Statement (.xanPageEvict x0 x1) := by
  intro h
  exact (Bool.false_ne_true h).elim

theorem xanFocusLane x0 x1 : Statement (.xanFocusLane x0 x1) := by
  intro h
  exact (Bool.false_ne_true h).elim

theorem xanFocusLaneAlone x0 x1 : Statement (.xanFocusLaneAlone x0 x1) := by
  intro h
  exact (Bool.false_ne_true h).elim

theorem xanFocusOff x0 : Statement (.xanFocusOff x0) := by
  intro h
  exact (Bool.false_ne_true h).elim

theorem xanStep x0 : Statement (.xanStep x0) := by
  intro h
  exact (Bool.false_ne_true h).elim

theorem xanStepForce x0 : Statement (.xanStepForce x0) := by
  intro h
  exact (Bool.false_ne_true h).elim

theorem xanSet x0 x1 x2 x3 : Statement (.xanSet x0 x1 x2 x3) := by
  intro h
  exact (Bool.false_ne_true h).elim

theorem xanSetForce x0 x1 x2 x3 : Statement (.xanSetForce x0 x1 x2 x3) := by
  intro h
  exact (Bool.false_ne_true h).elim

theorem xanWatch x0 : Statement (.xanWatch x0) := by
  intro h
  exact (Bool.false_ne_true h).elim

theorem xanWatchDelete x0 x1 : Statement (.xanWatchDelete x0 x1) := by
  intro h
  exact (Bool.false_ne_true h).elim

theorem xanBreak x0 x1 x2 : Statement (.xanBreak x0 x1 x2) := by
  intro h
  exact (Bool.false_ne_true h).elim

theorem xanBreakCore x0 x1 x2 x3 : Statement (.xanBreakCore x0 x1 x2 x3) := by
  intro h
  exact (Bool.false_ne_true h).elim

theorem xanBkptBcast x0 x1 : Statement (.xanBkptBcast x0 x1) := by
  intro h
  exact (Bool.false_ne_true h).elim

theorem xanCv x0 x1 : Statement (.xanCv x0 x1) := by
  intro h
  exact (Bool.false_ne_true h).elim

theorem xanChain x0 x1 x2 : Statement (.xanChain x0 x1 x2) := by
  intro h
  exact (Bool.false_ne_true h).elim

theorem xanEvents x0 : Statement (.xanEvents x0) := by
  intro h
  exact (Bool.false_ne_true h).elim

theorem xanBlock x0 x1 : Statement (.xanBlock x0 x1) := by
  intro h
  exact (Bool.false_ne_true h).elim

theorem xanEstate x0 : Statement (.xanEstate x0) := by
  intro h
  exact (Bool.false_ne_true h).elim

theorem loadReply x0 : Statement (.loadReply x0) := by
  intro h
  exact (Bool.false_ne_true h).elim

theorem peerRetryLimit x0 x1 : Statement (.peerRetryLimit x0 x1) := by
  intro h
  exact (Bool.false_ne_true h).elim

theorem uncorrectableSoftError x0 : Statement (.uncorrectableSoftError x0) := by
  intro h
  exact (Bool.false_ne_true h).elim

theorem managementBadRequest x0 x1 : Statement (.managementBadRequest x0 x1) := by
  intro h
  exact (Bool.false_ne_true h).elim

end Sys2Proof.Laws.RoundTrip
end

