-- ==== Sys2Proof/Laws/Row.lean ====
section
/-! SUPPORT. Instructions whose lanes compute from their row: what stands, lives and is read at a position, and their completion. -/

namespace Sys2Proof.Machine

open Sys2Proof Safety

variable {s : State} {t : Team} {i : Instr} {al : Alu} {p : Nat}

theorem standing_of (hs : Seated t) {th : Thread} (hm : th ∈ t.threads) : standing t th.pos = th := hs.thread_home hm

/-- A position of the team's groups has its thread, and `standing` is it. -/
theorem standing_mem (hs : Seated t) (hp : p < 32 * t.ngrp) : standing t p ∈ t.threads ∧ (standing t p).pos = p := by
  obtain ⟨h, th, hh, rfl⟩ := hs.occupied hp
  have hm := List.mem_of_getElem? hh
  rw [standing_of hs hm]
  exact ⟨hm, rfl⟩

/-- The live lanes of the issuing team, by position. -/
theorem live_at (hs : Seated t) (hrec : t.recent = []) (tick : Nat) (i : Instr) (hp : p < 32 * t.ngrp) :
    maskHas ((Ctx.plain i t).live t tick) p = liveAt t p := by
  obtain ⟨hm, hpos⟩ := standing_mem hs hp
  have := live_eq hs hrec tick hm i
  rw [hpos] at this
  rw [this, isLive, liveAt, hpos]

/-- What the lane at a position reads. -/
theorem read_at (hs : Seated t) (hrec : t.recent = []) (tick : Nat) (i : Instr) {x : Srcs} (k : Nat) (hok : (x.get k).ok t = true)
    (hvs : ∀ r n, x.get k = .vs r n → 0 < n) (hp : p < 32 * t.ngrp) : (Ctx.plain i t).read t tick x k p = rdAt t (x.get k) p := by
  obtain ⟨hm, hpos⟩ := standing_mem hs hp
  have := read_eq hs hrec tick hm i k hok hvs
  rw [hpos] at this
  exact this

/-- Positions of a row of the team's groups. -/
theorem row_within (hp : p < 32 * t.ngrp) {q : Nat} (hq : q / 32 = p / 32) : q < 32 * t.ngrp := by omega

/-- An instruction of classes 1 to 4 or A completes with its form's results, when its lane function is the form's at every thread. -/
theorem execAlu_row (hc : Calm s t) (hs : Seated t) {mk : Ctx → Team → Nat → Alu} (hal : mk (Ctx.plain i t) t s.tick = al)
    {f : RowForm} (hdst : al.dst = f.dst) (hfrees : freesOf al.m al.x = f.frees) (hpois : al.pois = f.pois) (hwrites : al.writes = f.writes)
    (hhelps : al.helps = f.helps) (hlocal : al.Local)
    (hk : al.check.priv = false ∧ al.check.illegal = false ∧ al.check.unsupported = none ∧ al.check.extra = none) (hx : al.x.ok t = true)
    (hd : al.dst.ok t = true)
    (hdraws : ∀ r, al.logReads = some r → (s.setTeam t).badLogs t r ((Ctx.plain i t).live t s.tick) = 0)
    (hkeeps : ∀ th ∈ t.threads, passKeeps al (Ctx.plain i t) t s.tick ((Ctx.plain i t).live t s.tick) (aluHelpers al i t s.tick) th.pos =
      f.keeps t th.pos)
    (hval : ∀ th ∈ t.threads, passOut al (Ctx.plain i t) t s.tick ((Ctx.plain i t).live t s.tick) (aluHelpers al i t s.tick) th.pos =
      f.val t th.pos)
    (hun : f.untrapped t) :
    ∃ t', execAlu i s mk = .next (s.setTeam t') ∧ f.Result t t' i := by
  obtain ⟨n, rs, d, fd, a, l, k, j, h⟩ := execAlu_calm (i := i) (al := al) hc hs hal
    ⟨hk.1, by simp [hk.2.1, hd], hx, hk.2.2.1, hk.2.2.2⟩ hlocal hdraws
    (by
      intro p hp
      obtain ⟨hm, hpos⟩ := standing_mem hs (running_within hs (live_running t s.tick i hp))
      have h1 := hval _ hm
      have h2 := hun _ hm (by rw [← live_eq hs hc.windows s.tick hm i, hpos]; exact hp)
      rw [hpos] at h1 h2
      rw [h1]; exact h2)
  refine ⟨_, h, n, ?_⟩
  have hth : t.threads.map (aluThread al (Ctx.plain i t) t s.tick ((Ctx.plain i t).live t s.tick) (aluHelpers al i t s.tick)) =
      t.threads.map (f.after t) := by
    apply List.map_congr_left
    intro th hm
    unfold aluThread RowForm.after
    simp only [hval th hm, hkeeps th hm]
    rw [live_eq hs hc.windows s.tick hm i]
    have hh : maskHas (aluHelpers al i t s.tick) th.pos = (f.helps && isHelper t th) := by
      rw [aluHelpers, hhelps]
      cases f.helps with
      | true => rw [if_pos rfl, maskHas_filterMask, guard_eq hs hc.windows s.tick hm, isHelper, Bool.true_and]
      | false => exact maskHas_zero _
    rw [hh, hdst, hfrees, hpois, hwrites]
    cases isLive t th with
    | true => simp only [if_true]; cases f.writes th.pos && !f.keeps t th.pos <;> simp
    | false => simp only [Bool.false_eq_true, if_false, Ctx.plain_mode]; rfl
  rw [hth]

end Sys2Proof.Machine
end

