-- ==== Sys2Proof/Laws/Trap.lean ====
section
/-! SUPPORT. Taking a trap, returning from it, and waiting: what each leaves, and what it leaves alone. -/

namespace Sys2Proof.Machine

open Sys2Proof Safety

variable {s : State} {t : Team} {g : Grid} {c : Ctx} {ti : TrapInfo} {lanes : Mask} {keep : Option ReplayEntry} {rpc traph : Double}

/-- A team of a grid with a trap handler, outside any handler, enters it; the rest of the part stays (R203, R204). -/
theorem State.takeTrap_enters (ht : s.team? c.uid = some t) (h : TakesTraps s t g) :
    s.takeTrap c ti lanes keep rpc = s.setTeam (t.enterTrap c ti lanes keep rpc g.traph) := by
  have hz : ¬ (g.traph = 0#64) := h.handler
  simp [State.takeTrap, ht, h.grid, h.original, h.own, h.idle, hz]

/-- A trap inside a handler ends the team (R203). -/
theorem State.takeTrap_nested (ht : s.team? c.uid = some t) (hg : s.gridOf t = some g) (ho : s.isShadow t = false)
    (ha : t.frame.active ≠ 0) : s.takeTrap c ti lanes keep rpc = s.fatalTrap c ti lanes rpc := by
  have hz : ¬ (t.frame.active = 0#8) := ha
  simp [State.takeTrap, ht, hg, ho, hz]

/-- A trap of a grid without a trap handler ends the team (R203). -/
theorem State.takeTrap_unhandled (ht : s.team? c.uid = some t) (hg : s.gridOf t = some g) (ho : s.isShadow t = false)
    (hz : g.traph = 0) : s.takeTrap c ti lanes keep rpc = s.fatalTrap c ti lanes rpc := by
  simp [State.takeTrap, ht, hg, ho, hz]

/-- What trap entry sets. -/
theorem Team.enterTrap_sets (t : Team) (c : Ctx) (ti : TrapInfo) (lanes : Mask) (keep : Option ReplayEntry) (rpc traph : Double) :
    let u := t.enterTrap c ti lanes keep rpc traph
    u.pc = traph ∧ u.mode = 0 ∧ u.mask = lanes ∧ u.run = .ready ∧ u.replay = [] ∧ u.frame.tpc = c.pc ∧ u.frame.smode = t.mode ∧
      u.frame.smask = t.mask ∧ u.frame.lmask = lanes ∧ u.frame.cause = ti.cause ∧ u.frame.detail = ti.detail ∧ u.frame.vaddr = ti.vaddr ∧
      u.frame.info = ti.info ∧ u.frame.word = c.word ∧ u.frame.lit = c.lit ∧ u.frame.active = 1 := by
  unfold Team.enterTrap
  cases keep with
  | none => simp [Team.frameOf]
  | some e => dsimp only; split <;> simp [Team.frameOf]

/-- What trap entry leaves alone: every register, thread, holding, queue and the pending paths. -/
theorem Team.enterTrap_keeps (t : Team) (c : Ctx) (ti : TrapInfo) (lanes : Mask) (keep : Option ReplayEntry) (rpc traph : Double) :
    let u := t.enterTrap c ti lanes keep rpc traph
    u.uid = t.uid ∧ u.s = t.s ∧ u.threads = t.threads ∧ u.stack = t.stack ∧ u.estate = t.estate ∧ u.storeQ = t.storeQ ∧
      u.inflight = t.inflight ∧ u.insn = t.insn ∧ u.passes = t.passes ∧ u.spill = t.spill ∧ u.ssp = t.ssp ∧ u.cause = t.cause ∧
      u.atomrN = t.atomrN ∧ u.batches = t.batches := by
  unfold Team.enterTrap
  cases keep with
  | none => simp
  | some e => dsimp only; split <;> simp

/-- Returning restores the path that the trap left (R206). -/
theorem Team.leaveTrap_sets (t : Team) : t.leaveTrap.pc = t.frame.rpc ∧ t.leaveTrap.mode = t.frame.smode ∧
    t.leaveTrap.mask = maskMinus (t.frame.smask &&& fullMask t.ngrp) t.retiredMask ∧ t.leaveTrap.frame.active = 0 ∧
    t.leaveTrap.replay = t.rteReplays ∧ t.leaveTrap.ssp = t.sspImage := by
  unfold Team.leaveTrap Team.dropBelow
  dsimp only
  split <;> exact ⟨rfl, rfl, rfl, rfl, rfl, rfl⟩

/-- Returning leaves every register, thread, holding and queue alone. -/
theorem Team.leaveTrap_keeps (t : Team) : t.leaveTrap.uid = t.uid ∧ t.leaveTrap.s = t.s ∧ t.leaveTrap.threads = t.threads ∧
    t.leaveTrap.stack = t.stack ∧ t.leaveTrap.estate = t.estate ∧ t.leaveTrap.storeQ = t.storeQ ∧ t.leaveTrap.spill = t.spill := by
  unfold Team.leaveTrap Team.dropBelow
  dsimp only
  split <;> exact ⟨rfl, rfl, rfl, rfl, rfl, rfl, rfl⟩

/-- An instruction that waits touches its team alone (R317). -/
theorem State.wait_keeps (s : State) (c : Ctx) (w : Wait) (e : ReplayEntry) :
    (s.wait c w e).mem = s.mem ∧ (s.wait c w e).blocks = s.blocks ∧ (s.wait c w e).grids = s.grids ∧ (s.wait c w e).cores = s.cores ∧
      (s.wait c w e).dies = s.dies ∧ (s.wait c w e).procs = s.procs ∧ (s.wait c w e).hub = s.hub := ⟨rfl, rfl, rfl, rfl, rfl, rfl, rfl⟩

/-- A wait that ends touches its team alone (R317). -/
theorem State.endWait_keeps (s : State) (uid : Nat) (f : Team → Team) :
    (s.endWait uid f).mem = s.mem ∧ (s.endWait uid f).blocks = s.blocks ∧ (s.endWait uid f).grids = s.grids ∧
      (s.endWait uid f).cores = s.cores ∧ (s.endWait uid f).dies = s.dies ∧ (s.endWait uid f).procs = s.procs ∧
      (s.endWait uid f).hub = s.hub := ⟨rfl, rfl, rfl, rfl, rfl, rfl, rfl⟩

end Sys2Proof.Machine
end

