-- ==== Sys2Proof/Tests/Slice0.lean ====
section
/-! SUPPORT. Tests: ill-formed terms, words written out from the encodings, single steps with results worked out by hand from the
rules, and for every statement a state and operands that meet its hypotheses. -/

namespace Sys2Proof.Tests

set_option maxRecDepth 20000
set_option Elab.async false
set_option autoImplicit false

open Sys2Proof Machine Safety

/-! ### Ill-formed terms: one for each check of WellFormed -/

def m0 : Mods := { lua := false, lub := false, stall := 0 }
def mLub : Mods := { lua := false, lub := true, stall := 0 }
def la (op : BitVec 4) (ret : Bool) (width : Bool := false) : LA := { scope := 0, order := 0, op := op, width := width, ret := ret, offset := 0 }

/-- R315: LUB of a literal form is 0. -/
theorem test_wf_lub : (Instr.addLiteral mLub 1 2 { imm := 5 }).wf = false := rfl
theorem test_wf_lub_movk : (Instr.movk mLub 1 { imm := 5 }).wf = false := rfl
/-- R88: RET = 0 with d ≠ 0 is no encoding, but for CAS. -/
theorem test_wf_ret : (Instr.atomVectorBase m0 1 2 3 (la 0 false)).wf = false := rfl
theorem test_wf_cas : (Instr.atomVectorBase m0 1 2 3 (la 10 false)).wf = true := rfl
/-- R89: a is 0 unless the heir kind is 0. -/
theorem test_wf_heir : (Instr.heir m0 3 { quiet := false, kind := 1, slot := 0 }).wf = false := rfl
/-- Index 0x21 of CTR is the row that clears MFLAGS. -/
theorem test_wf_ctr : (Instr.ctr m0 4 { idx := 0x21 }).wf = false := rfl
/-- An assigned opcode is no unassigned word. -/
theorem test_wf_unassigned : (Instr.unassignedOpcode 0x00400000).wf = false := by decide
/-- An event has no words. -/
theorem test_wf_event : (Instr.matrixStep 3).wf = false := rfl

/-! ### Words written out from R76 to R89: opcode [31:22], d [21:16], a [15:10], b [9:4], LUA 3, LUB 2, STALL [1:0] -/

/-- Class 0, BRC: opcode 0x003, sense 1 in d, predicate 5 in a; target −1 word. -/
theorem test_word_brc : decodeWord 0b0000000011_000001_000101_000000_0_0_00 0xFFFFFFFF = .ok (.brc m0 1 5 { offset := 0xFFFFFFFF }) := rfl
/-- Class 1, SHFL: opcode 0x047; kind 2 in [6:5], value 9 in [4:0]. -/
theorem test_word_shfl : decodeWord 0b0001000111_000011_000111_000000_0_0_00 0b10_01001 = .ok (.shflLiteral m0 3 7 { kind := 2, value := 9 }) := rfl
/-- Class 2, AND: opcode 0x080, LUA set, STALL 2. -/
theorem test_word_and : decodeWord 0b0010000000_000001_000010_000011_1_0_10 0 =
    .ok (.andVector { lua := true, lub := false, stall := 2 } 1 2 3) := rfl
/-- Class 2, BFI: opcode 0x0B0; width 7 in [14:8], position 9 in [5:0]. -/
theorem test_word_bfi : decodeWord 0b0010110000_000001_000010_000000_0_0_00 0b0000111_00_001001 =
    .ok (.bfiLiteral m0 1 2 { width := 7, pos := 9 }) := rfl
/-- Class 3, FMA with a scalar: opcode 0x0C9. -/
theorem test_word_fma : decodeWord 0b0011001001_000100_000101_000110_0_0_00 0 = .ok (.fmaScalar m0 4 5 6) := rfl
/-- Class 4, CVT: opcode 0x100; saturate 11, RC [10:8] 2, destination [7:4] 4, source [3:0] 9. -/
theorem test_word_cvt : decodeWord 0b0100000000_000001_000010_000000_0_0_00 0b1_010_0100_1001 =
    .ok (.cvt m0 1 2 { sat := true, rc := 2, dst := 4, src := 9 }) := rfl
/-- Class 5, LD: opcode 0x140; SCOPE [31:29] 4, ORD 28, HINT [27:26] 1, SIZE [25:23] 3, OFFSET [22:0] 0x7FFFFF. -/
theorem test_word_ld : decodeWord 0b0101000000_000010_000100_000000_0_0_00 0b100_1_01_011_11111111111111111111111 =
    .ok (.ldVectorBase m0 2 4 { scope := 4, ord := true, hint := 1, size := 3, offset := 0x7FFFFF }) := rfl
/-- Class 6, ATOM: opcode 0x180; SCOPE 2, ORDER [28:27] 3, OP [26:23] 9, WIDTH 22, RET 21, OFFSET [20:0] 4. -/
theorem test_word_atom : decodeWord 0b0110000000_000001_000010_000100_0_0_00 0b010_11_1001_1_1_000000000000000000100 =
    .ok (.atomVectorBase m0 1 2 4 { scope := 2, order := 3, op := 9, width := true, ret := true, offset := 4 }) := rfl
/-- Class 7, BARI: opcode 0x1C0. -/
theorem test_word_bari : decodeWord 0b0111000000_000000_000101_000110_0_0_00 0 = .ok (.bari m0 5 6) := rfl
/-- Class 8, CSTAT: opcode 0x203. -/
theorem test_word_cstat : decodeWord 0b1000000011_000001_000010_000000_0_0_00 0 = .ok (.cstat m0 1 2) := rfl
/-- Class 9, MLOOP: opcode 0x240; loop count 300. -/
theorem test_word_mloop : decodeWord 0b1001000000_000001_000010_000011_0_0_00 300 = .ok (.mloop m0 1 2 3 { k := 300 }) := rfl
/-- Class A, CVCFG: opcode 0x283; mode 16, cap [15:0] 64. -/
theorem test_word_cvcfg : decodeWord 0b1010000011_000000_000000_000000_0_0_00 0x10040 = .ok (.cvcfg m0 { mode := true, cap := 64 }) := rfl
/-- Class B, HEIR: opcode 0x2C0; quiet 7, kind [6:5] 2, slot [4:0] 31. -/
theorem test_word_heir : decodeWord 0b1011000000_000000_000000_000000_0_0_00 0b1_10_11111 =
    .ok (.heir m0 0 { quiet := true, kind := 2, slot := 31 }) := rfl
/-- Class C, RCCTL: opcode 0x302; index 6 is FLUSH, index 7 names no parameter. -/
theorem test_word_rcctl : decodeWord 0b1100000010_000000_000011_000000_0_0_00 6 = .ok (.rcctlFlush m0 3) := rfl
theorem test_word_rcctl_unassigned : decodeWord 0b1100000010_000000_000011_000000_0_0_00 7 = .error .unassignedIndex := rfl
/-- Class D, CTR: opcode 0x346; index 0x21 clears MFLAGS as it reads. -/
theorem test_word_ctr : decodeWord 0b1101000110_000100_000000_000000_0_0_00 0x21 = .ok (.ctrMflagsClear m0 4) := rfl
/-- R78: a field marked 0 that is not. -/
theorem test_word_reserved : decodeWord 0b0000000001_000001_000000_000000_0_0_00 0 = .error .reservedField := rfl
/-- R79: opcode 0x000 is unassigned. -/
theorem test_word_unassigned : decodeWord 0 0 = .ok (.unassignedOpcode 0) := rfl

/-! ### A small part: one grid of one block of one team, with two pages mapped -/

def T : Team := firstTeam 1 1 2 0
def B : Block := firstBlock 2 1
def G : Grid := firstGrid 1

def page (va pa : Nat) : Translation := { asn := 1, global := false, va := va, size := 4096, pa := pa, r := true, w := true, x := true }

/-- Bytes 0, 1, 2, … at 0x21000, where the page at 0x2000 lies. -/
def part0 : State :=
  let l := [page 0x2000 0x21000, page 0x1000 0x20000]
  let s := ((State.reset.withFirst 0).modCore 0 fun c => { c with tlb := l }).modDie 0 fun d => { d with dtlb := l }
  { s with mem := Memory.writeBytes s.mem 0x21000 ((List.range 64).map fun k => BitVec.ofNat 8 k) }

/-- The part with this team, block and grid. -/
def part (t : Team) (b : Block := B) (g : Grid := G) : State := { part0 with teams := [t], blocks := [b], grids := [g] }

/-- The team after one instruction. -/
def after1 (i : Instr) (s : State) : Option Team :=
  match exec i s with
  | .next s' => s'.team? 1
  | _ => none

/-- The team with registers of lane 0 and scalars set. -/
def withV (t : Team) (r : Nat) (x : Word) : Team := { t with threads := t.threads.map fun th => if th.pos = 0 then th.writeV r x else th }
def lane0 (o : Option Team) (r : Nat) : Option Word := o.map fun t => (t.thread 0).readV r
/-- Mode register with a TYPE (R64: bits 7 to 5). -/
def typed (ty : Nat) : Word := BitVec.ofNat 32 (32 * ty)

/-! ### Meeting the hypotheses -/

/-- What makes the only team of a part seated and quiet, as one check. -/
abbrev Settles (s : State) (t : Team) : Prop :=
  t.threads.map Thread.pos = List.range (32 * t.ngrp) ∧ t.ngrp ≤ 32 ∧ t.mask.toNat < 2 ^ (32 * t.ngrp) ∧ t.nvec ≤ 64 ∧ t.nscal ≤ 64 ∧
    t.storeQ = [] ∧ s.watches = [] ∧ s.poison = [] ∧ (∀ b ∈ s.blocks, b.shadowOf = none ∧ b.sampled = false) ∧
    ∀ g ∈ s.grids, g.oldBounds = [] ∧ ∀ b ∈ g.bounds.toList, b.size = 0

/-- What makes a team calm, but for the turn. -/
abbrev Calms (s : State) (t : Team) : Prop :=
  t.replay = [] ∧ t.inflight = [] ∧ t.recent = [] ∧ t.running ≠ 0 ∧ s.soft = [] ∧ modeChk t.mode = false ∧
    (t.aside.isSome = true → modeGuard t.mode ≤ 3) ∧ (t.absent = 0 ∧ t.auxAbsent = 0 ∧ t.fAbsent = 0) ∧ t.run = .ready ∧
    s.gridFrozen t.gid = false

/-- A calm, seated and quiet team. -/
structure Ready (s : State) (t : Team) : Prop where
  calm : Calm s t
  seated : Seated t
  quiet : Quiet s t

theorem settled {s : State} {t : Team} (h0 : s.teams = [t]) (h : Settles s t) : Seated t ∧ Quiet s t := by
  obtain ⟨seats, groups, within, vregs, sregs, queue, unwatched, clean, original, bounds⟩ := h
  refine ⟨⟨seats ▸ List.Perm.refl _, groups, fun p hp => Nat.lt_of_not_le fun hle => ?_, vregs, sregs⟩,
    ⟨queue, unwatched, fun b hb => original b (List.mem_of_find?_eq_some hb), fun g hg _ => bounds g hg, clean, by simp [h0]⟩⟩
  have : t.mask.toNat < 2 ^ p := Nat.lt_of_lt_of_le within (Nat.pow_le_pow_right (by decide) hle)
  rw [maskHas, BitVec.getLsbD, Nat.testBit_lt_two_pow this] at hp
  exact absurd hp (by decide)

theorem ready {s : State} {t : Team} (h0 : s.teams = [t]) (h1 : t.uid = s.turn) (h : Calms s t ∧ Settles s t) : Ready s t := by
  obtain ⟨⟨owes, awaits, windows, runs, sound, unchecked, guarded, present, still, thawed⟩, hs⟩ := h
  exact ⟨⟨by simp [State.team?, h0, h1], owes, awaits, windows, runs, sound, unchecked, guarded, present, still, thawed⟩,
    (settled h0 hs).1, (settled h0 hs).2⟩

/-- A property of every lane of a mask, from those listed. -/
theorem lanes_of {m : Mask} {l : List Nat} {P : Nat → Prop} (h : maskLanes m = l) (hl : ∀ p ∈ l, P p) (p : Nat) (hp : maskHas m p = true) : P p :=
  hl p (h ▸ mem_maskLanes.mpr hp)

theorem part_ready : Ready (part T) T := ready rfl rfl (by decide +kernel)

/-! ### For each statement, a state and operands that meet the hypotheses of each clause -/

/-- PatternFunctions: a shift by the most, a field that ends at the top bit, LEA. -/
theorem wit_PatternFunctions : Ready (part T) T ∧
    (∃ f, logicForm T.mode (.shlLiteral m0 1 2 { count := 31 }) = some f ∧ f.ok T = true) ∧
    (∃ f, fieldForm T.mode (.bfxLiteral m0 63 63 { width := 1, pos := 31 }) = some f ∧ f.ok T = true) ∧
    (∃ f, moveOp T.mode (.leaVector m0 62 62 3) = some f ∧ f.ok T = true) :=
  ⟨part_ready, ⟨_, rfl, by decide +kernel⟩, ⟨_, rfl, by decide +kernel⟩, ⟨_, rfl, by decide +kernel⟩⟩

/-- TypedArithmetic: an instruction of class 3, and one of R124 on f32, with no flag raised. -/
theorem wit_TypedArithmetic : Ready (part T) T ∧
    (∃ f, typedForm T.mode (.addVector m0 1 0 0) = some f ∧ f.ok T = true ∧ f.untrapped T) :=
  ⟨part_ready, _, rfl, by decide +kernel, by unfold LaneForm.untrapped; decide +kernel⟩
theorem wit_TypedArithmetic_approx : let t := { T with mode := typed 4 }
    Ready (part t) t ∧ ∃ f, typedForm t.mode (.rcp m0 1 2) = some f ∧ f.ok t = true :=
  ⟨ready rfl rfl (by decide +kernel), _, rfl, by decide +kernel⟩

/-- The rules of TypedArithmetic: a zero and a least operand; a NaN, an infinity, a zero, a narrow number that NFZ flushes. -/
theorem wit_TypedArithmetic_rules : modeType (typed 0) ≤ 3 ∧ intOf (modeType (typed 2)) (2 ^ 63) = -2 ^ 63 ∧ intOf (modeType (typed 3)) 0 = 0 ∧
    4 ≤ modeType (typed 4) ∧ modeType (typed 5) ≤ 5 ∧ 6 ≤ modeType (typed 6) ∧ 6 ≤ modeType (typed 7) ∧
    (⟨0xFF800001⟩ : Element (typed 4)).signals = true ∧ 0xFF800001 < 2 ^ 32 ∧ (⟨0x7FF8000000000000⟩ : Element (typed 5)).isNan = true ∧
    (⟨0xFFF0000000000000⟩ : Element (typed 5)).isInf = true ∧ 0xFFF0000000000000 < 2 ^ 64 ∧ (⟨0x8000⟩ : Element (typed 7)).isZero = true ∧
    (⟨0x3FF⟩ : Element (typed 6 ||| 0x1000)).isZero = true ∧ (⟨0x3FF⟩ : Element (typed 6)).isZero = false := by decide +kernel

theorem part_takesTraps : TakesTraps (part T) T G := ⟨rfl, by decide +kernel, rfl, rfl, rfl⟩

/-- RowFunctions: the last truth-table entry, the highest vote mode, a draw of the last literal site. -/
theorem wit_RowFunctions : Ready (part T) T ∧
    (∃ f, crossForm T.mode (.vote m0 1 0 2) = some f ∧ f.ok T = true ∧ f.untrapped T) ∧
    (∃ f, crossForm T.mode (.shflLiteral m0 1 2 { kind := 3, value := 31 }) = some f ∧ f.ok T = true) ∧
    (∃ f, convertForm T.mode (.cvt m0 1 2 { sat := true, rc := 6, dst := 4, src := 1 }) = some f ∧ f.ok T = true) ∧
    (∃ f, drawForm T.mode (.draw m0 1 0 0) = some f ∧ f.ok T = true) :=
  ⟨part_ready, ⟨_, rfl, by decide +kernel, by unfold RowForm.untrapped; decide +kernel⟩, ⟨_, rfl, by decide +kernel⟩,
    ⟨_, rfl, by decide +kernel⟩, ⟨_, rfl, by decide +kernel⟩⟩

/-- StraightControl: RET to the highest aligned canonical address below 2^56; MODE and GMODE. -/
theorem wit_StraightControl : let t := T.writeSP 62 0x00FFFFFFFFFFFFFC
    Ready (part t) t ∧ t.aside = none ∧ (t.readSP 62).toNat % 4 = 0 ∧ canonical (t.readSP 62) = true ∧
      t.hasP 15 = true ∧ modeRnd ((0x500 : BitVec 19).setWidth 32) < 6 ∧ t.hasS 63 = true ∧ t.readS 5 >>> 19 = 0 ∧ modeRnd (t.readS 5) < 6 :=
  ⟨ready rfl rfl (by decide +kernel), by decide +kernel⟩

/-- ArrivalPoints: an empty stack, a path that has just resumed, and one that parks above another. -/
def tStack : Team := { T with stack := [parked 0x1800 (fullMask 1)] }
theorem wit_ArrivalPoints : Ready (part T) T ∧ T.stack = [] ∧ Ready (part tStack) tStack ∧ tStack.resumed = false ∧
    (parked 0x1800 (fullMask 1)).kind = 0 ∧ (parked 0x1800 (fullMask 1)).pc ≠ tStack.pc ∧
    maskMinus (parked 0x1800 (fullMask 1)).gmask tStack.retiredMask ≠ 0 :=
  ⟨part_ready, rfl, ready rfl rfl (by decide +kernel), rfl, rfl, by decide +kernel, by decide +kernel⟩
theorem wit_ArrivalPoints_resumed : let t := { tStack with resumed := true }
    Ready (part t) t ∧ t.resumed = true := ⟨ready rfl rfl (by decide +kernel), rfl⟩

/-- ConditionalBranches: all taken, none taken, and lanes that disagree under a stack one short of full. -/
def tSplit : Team := { T with threads := T.threads.map fun th => if th.pos < 31 then th.writeP 15 true else th,
                              stack := List.replicate 255 (parked 0x1800 1) }
theorem wit_ConditionalBranches : Ready (part T) T ∧ T.hasP 0 = true ∧ otherLanes T 0 false = 0 ∧ takenLanes T 0 true = 0 ∧
    Ready (part tSplit) tSplit ∧ tSplit.hasP 15 = true ∧ takenLanes tSplit 15 false ≠ 0 ∧ otherLanes tSplit 15 false ≠ 0 ∧
    tSplit.stack.length < 256 ∧ maskLanes (otherLanes T 0 false) = [] ∧ maskLanes (takenLanes T 0 true) = [] :=
  ⟨part_ready, rfl, by decide +kernel, by decide +kernel, ready rfl rfl (by decide +kernel), rfl, by decide +kernel, by decide +kernel,
    by decide +kernel, by decide +kernel, by decide +kernel⟩

/-- IndirectBranch: two addresses, the stack then full. -/
def tSpread : Team :=
  { T with mask := 5, stack := List.replicate 255 (parked 0x1800 1),
           threads := T.threads.map fun th => if th.pos = 0 then th.writeV 2 0x1400 else if th.pos = 2 then th.writeV 2 0x1200 else th }
theorem wit_IndirectBranch : Ready (part tSpread) tSpread ∧ tSpread.hasVP 2 = true ∧
    (∀ p, maskHas tSpread.running p = true → (rdAt tSpread (.v 2 true) p).toNat % 4 = 0) ∧
    [0x1200, 0x1400].Pairwise (· < ·) ∧
    (∀ k, k ∈ [0x1200, 0x1400] ↔ ∃ p, maskHas tSpread.running p = true ∧ (rdAt tSpread (.v 2 true) p).toNat = k) ∧
    tSpread.stack.length + 1 ≤ 256 := by
  have hl : maskLanes tSpread.running = [0, 2] := by decide +kernel
  refine ⟨ready rfl rfl (by decide +kernel), rfl, lanes_of hl (by decide +kernel), by decide, fun k => ⟨fun h => ?_, fun ⟨p, hp, hk⟩ => ?_⟩, by decide +kernel⟩
  · have h' : k = 0x1200 ∨ k = 0x1400 := by simpa using h
    rcases h' with rfl | rfl
    · exact ⟨2, by decide +kernel, by decide +kernel⟩
    · exact ⟨0, by decide +kernel, by decide +kernel⟩
  · have hm : p ∈ [0, 2] := hl ▸ mem_maskLanes.mpr hp
    have hp' : p = 0 ∨ p = 2 := by simpa using hm
    have e0 : (rdAt tSpread (.v 2 true) 0).toNat = 0x1400 := by decide +kernel
    have e2 : (rdAt tSpread (.v 2 true) 2).toNat = 0x1200 := by decide +kernel
    rcases hp' with rfl | rfl
    · rw [← hk, e0]; decide
    · rw [← hk, e2]; decide

/-- Endings: death takes the team at once, its last path ends, and it is no sampled block's. -/
theorem wit_Endings : Ready (part T) T ∧ DiesPlainly (part T) T ∧ T.frame.active = 0 ∧ T.aside = none ∧ T.stack = [] ∧
    (part T).awaitsDigest T = false ∧ (Src.vs 56 8).ok T = true ∧ ∀ g, (part T).grid? T.gid = some g → g.relay = none :=
  ⟨part_ready, ⟨rfl, by decide, rfl, by intro p hp; cases hp; rfl, fun n h => TeamKind.noConfusion (show TeamKind.grid = TeamKind.proposal n from h)⟩, rfl, rfl, rfl, by decide +kernel, rfl, fun g h => by cases h; rfl⟩

/-- HardwiredPredicate: CMP and PLOG to p0; TapsterCounters: the last pair. -/
theorem wit_HardwiredPredicate : Ready (part T) T ∧
    (∃ f, typedForm T.mode (.cmpVector m0 0 1 2 { cond := 0 }) = some f ∧ f.dst = .p 0 ∧ f.a.ok T = true ∧ f.b.ok T = true ∧ f.d.ok T = true ∧ f.untrapped T) ∧
    (∃ f, crossForm T.mode (.plog m0 0 1 15 { table := 7 }) = some f ∧ f.dst = .p 0 ∧ f.a.ok T = true ∧ f.b.ok T = true ∧ f.untrapped T) :=
  ⟨part_ready, ⟨_, rfl, rfl, by decide +kernel, by decide +kernel, by decide +kernel, by unfold LaneForm.untrapped; decide +kernel⟩,
    ⟨_, rfl, rfl, by decide +kernel, by decide +kernel, by unfold RowForm.untrapped; decide +kernel⟩⟩
theorem wit_TapsterCounters : Ready (part T) T ∧ T.hasSP 62 = true := ⟨part_ready, rfl⟩

/-- SoftwareTraps. -/
theorem wit_SoftwareTraps : Ready (part T) T ∧ TakesTraps (part T) T G ∧ G.debugged = false := ⟨part_ready, part_takesTraps, rfl⟩

/-- ReturnFromTrap: the highest legal mode, entries of STATE 0 to 3. -/
def tHandler : Team :=
  { T with frame := { T.frame with active := 1, smode := 0x7FDFF, smask := fullMask 1, rpc := 0x1800 },
           rq := vput (vput (vput T.rq 1 { ReplayEntry.free with state := 1 }) 2 { ReplayEntry.free with state := 2 }) 7 { ReplayEntry.free with state := 3 } }
theorem wit_ReturnFromTrap : Ready (part tHandler) tHandler ∧ tHandler.aside = none ∧ tHandler.frame.active = 1 ∧
    tHandler.stack.length = tHandler.frame.edepth.toNat ∧ (∀ k, (vget tHandler.rq k .free).state.toNat ≤ 3) ∧ tHandler.frame.smode >>> 19 = 0 ∧
    modeRnd tHandler.frame.smode < 6 ∧ maskMinus (tHandler.frame.smask &&& fullMask tHandler.ngrp) tHandler.retiredMask ≠ 0 := by
  refine ⟨ready rfl rfl (by decide +kernel), rfl, rfl, rfl, fun k => ?_, by decide +kernel, by decide +kernel, by decide +kernel⟩
  by_cases h : k < 8
  · exact (by decide +kernel : ∀ k, k < 8 → (vget tHandler.rq k .free).state.toNat ≤ 3) k h
  · have : vget tHandler.rq k .free = .free := by simp [vget, h]
    rw [this]; decide

/-- TrapsAtIssue: the last entry of the queue is the free one; a handler is active; a register that does not exist. -/
def tFull : Team := { T with rq := vput (Vector.replicate 8 { ReplayEntry.free with state := 1 }) 7 .free, nvec := 8 }
theorem wit_TrapsAtIssue : Ready (part tFull) tFull ∧ TakesTraps (part tFull) tFull G ∧ tFull.freeEntry = some 7 ∧
    ∃ f, logicForm tFull.mode (.andVector m0 8 2 3) = some f ∧ f.ok tFull = false :=
  ⟨ready rfl rfl (by decide +kernel), ⟨rfl, by decide +kernel, rfl, rfl, rfl⟩, by decide +kernel, _, rfl, by decide +kernel⟩
theorem wit_TrapsAtIssue_active : Ready (part tHandler) tHandler ∧ DiesPlainly (part tHandler) tHandler ∧ (part tHandler).gridOf tHandler = some G ∧
    (part tHandler).isShadow tHandler = false ∧ tHandler.frame.active ≠ 0 :=
  ⟨ready rfl rfl (by decide +kernel),
    ⟨rfl, by decide, rfl, by intro p hp; cases hp; rfl, fun n h => TeamKind.noConfusion (show TeamKind.grid = TeamKind.proposal n from h)⟩, rfl, rfl, by decide⟩

/-- A freed entry in a live lane; a result inside its window; a full stack, under a predicate that divides and under two addresses. -/
def tChecked (th : Thread → Thread) : Team := { T with mode := 0x40000, threads := T.threads.map th }
def tFreed : Team := { T with threads := T.threads.map fun th => if th.pos = 31 then th.free 62 else th }
theorem wit_TrapsAtIssue_freed : Ready (part tFreed) tFreed ∧ TakesTraps (part tFreed) tFreed G ∧ tFreed.freeEntry = some 0 ∧
    ∃ f, moveOp 0x40000 (.leaVector m0 6 62 3) = some f ∧ f.ok tFreed = true ∧
      (f.a.vregs.find? fun r => filterMask (liveMask tFreed) (fun p => (standing tFreed p).freed.getLsbD r) != 0) = some 62 :=
  ⟨ready rfl rfl (by decide +kernel), ⟨rfl, by decide +kernel, rfl, rfl, rfl⟩, by decide +kernel, _, rfl, by decide +kernel, by decide +kernel⟩
def early : RecentWrite := { pc := 0x100000FF0, lat := 4, dist := 3, olds := [(refV 31 3, 77)] }
theorem wit_TrapsAtIssue_stall : TakesTraps (part T) T G ∧ T.freeEntry = some 0 ∧ maskHas (liveMask T) (T.thread 31).pos = true ∧ 31 < T.threads.length ∧
    early.dist < early.lat ∧ early.olds = [(refV 31 3, 77)] ∧
    ∃ f, logicForm 0x40000 (.andVector m0 1 2 3) = some f ∧ f.ok T = true ∧ f.b.vregs = [3] ∧
      ∀ r ∈ f.a.vregs ++ f.b.vregs, filterMask (liveMask T) (fun p => (standing T p).freed.getLsbD r) = 0 :=
  ⟨part_takesTraps, by decide +kernel, by decide +kernel, by decide +kernel, by decide, rfl, _, rfl, by decide +kernel, rfl, by decide +kernel⟩
def tDeep (t : Team) : Team := { t with stack := List.replicate 256 (parked 0x1800 1) }
theorem wit_TrapsAtIssue_stack : Ready (part (tDeep tSplit)) (tDeep tSplit) ∧ TakesTraps (part (tDeep tSplit)) (tDeep tSplit) G ∧
    (tDeep tSplit).freeEntry = some 0 ∧ 256 ≤ (tDeep tSplit).stack.length ∧ (tDeep tSplit).hasP 15 = true ∧
    takenLanes (tDeep tSplit) 15 false ≠ 0 ∧ otherLanes (tDeep tSplit) 15 false ≠ 0 ∧
    Ready (part (tDeep tSpread)) (tDeep tSpread) ∧ TakesTraps (part (tDeep tSpread)) (tDeep tSpread) G ∧ (tDeep tSpread).hasVP 2 = true ∧
    maskLanes (tDeep tSpread).running = [0, 2] ∧
    [0, 2].map (fun p => (rdAt (tDeep tSpread) (.v 2 true) p).toNat) = [0x1400, 0x1200] :=
  ⟨ready rfl rfl (by decide +kernel), ⟨rfl, by decide +kernel, rfl, rfl, rfl⟩, by decide +kernel, by decide +kernel, rfl, by decide +kernel,
    by decide +kernel, ready rfl rfl (by decide +kernel), ⟨rfl, by decide +kernel, rfl, rfl, rfl⟩, rfl, by decide +kernel, by decide +kernel⟩

/-- IntegerArithmetic: SAT set, and a TYPE that does not change. -/
theorem wit_IntegerArithmetic : let t := { T with mode := 0x800 ||| typed 3 }
    Ready (part t) t ∧ (∃ f, exactForm t.mode (.mulhVector m0 62 62 62) = some f ∧ f.ok t = true) ∧ modeSat t.mode = true ∧
      ∃ f, logicForm (t.mode &&& ~~~0x800) (.shlLiteral m0 62 62 { count := 63 }) = some f ∧ f.ok t = true :=
  ⟨ready rfl rfl (by decide +kernel), ⟨_, rfl, by decide +kernel⟩, by decide +kernel, _, rfl, by decide +kernel⟩

/-- Reduction: of f32, with no trap enabled. -/
theorem wit_Reduction : let t := { T with mode := typed 4 }
    Ready (part t) t ∧ divType (modeType t.mode) = true ∧ (vec t.mode 63).ok t = true ∧ (sca t.mode 63).ok t = true ∧
      ∀ f ∈ (reduction t (vec t.mode 63)).flags, f.2 &&& modeTraps t.mode = 0 :=
  ⟨ready rfl rfl (by decide +kernel), rfl, rfl, rfl, by decide +kernel⟩

/-- ArithmeticTrap: every flag's trap enabled, lane 3 divides 1.0 by 0. -/
def tDivides : Team :=
  { T with mode := typed 4 ||| 0x3E000, mask := 0xFF, threads := T.threads.map fun th =>
      (th.writeV 2 0x3F800000).writeV 3 (if th.pos = 3 then 0 else 0x3F800000) }
theorem wit_ArithmeticTrap : Ready (part tDivides) tDivides ∧ TakesTraps (part tDivides) tDivides G ∧
    ∃ f, typedForm tDivides.mode (.divVector m0 1 2 3) = some f ∧ f.ok tDivides = true ∧
      (∃ th ∈ tDivides.threads, isLive tDivides th = true ∧ th.pos / 32 = 0 ∧ (f.out tDivides th).flags &&& modeTraps tDivides.mode ≠ 0) ∧
      ∀ th ∈ tDivides.threads, isLive tDivides th = true → th.pos / 32 < 0 → (f.out tDivides th).flags &&& modeTraps tDivides.mode = 0 :=
  ⟨ready rfl rfl (by decide +kernel), ⟨rfl, by decide +kernel, rfl, rfl, rfl⟩, _, rfl, by decide +kernel, by decide +kernel,
    fun _ _ _ h => absurd h (Nat.not_lt_zero _)⟩

/-- MemoryWrites. -/
theorem wit_MemoryWrites : Memory.wf (part T).mem = true := by decide +kernel

/-- Translation: the last byte of a mapped page that the buffers hold, a core of a die whose buffers hold none, and an address with no
mapping. -/
def pageFound : Page := { va := 0x2000, pa := 0x21000, size := 4096, r := true, w := true, x := true, global := false, c64 := false, ch := 0, level := 0 }
theorem wit_Translation : (part T).walk firstProcess.root 0x2FFF = .page pageFound ∧
    (part T).cachedAt 0 firstProcess.asn 0x2FFF = some (pageFound.toCached firstProcess.asn) ∧ (part T).cachedAt 144 firstProcess.asn 0x2FFF = none ∧
    (part T).walk firstProcess.root 0x3000 = .fault 0 0 ∧ (part T).cachedAt 0 firstProcess.asn 0x3000 = none ∧ 0x3000 < 2 ^ 57 := by
  decide +kernel

/-- What a device access of the part meets on its way to the page at 0x2000. -/
def pageCached (s : State) (va : Nat) : Prop :=
  s.walk firstProcess.root va = .page pageFound ∧ (s.coreAt 0).lookup firstProcess.asn va = some (pageFound.toCached firstProcess.asn) ∧
    pageFound.toCached firstProcess.asn ∈ (s.dieAt 0).dtlb

/-- A device place of the part, for a team of its first core. -/
theorem place_of (s : State) (t : Team) (ea : Double) (n pa : Nat) (need : Need) (hg : s.procOf t = some firstProcess) (hc : t.core = 0)
    (h : s.resolve t .device ea n (need == .store) = .virt ea.toNat ∧ pa = 0x21000 + (ea.toNat % 2 ^ 57 - 0x2000))
    (hp : pageCached s (ea.toNat % 2 ^ 57)) : Places s t .device need ea n (.phys pa) := by
  refine ⟨by rw [hg]; rfl, Or.inr ⟨pa, h.1, ⟨firstProcess, pageFound, hg, hp.1, rfl, ?_, ?_, by cases need <;> rfl, h.2⟩, rfl⟩⟩
  · rw [hc]; exact hp.2.1
  · rw [hc]; exact hp.2.2

/-- Loads and Stores: lanes 0 and 2 at the bottom of the page; SIZE 5 is a pair. -/
def tLanes : Team := { T with mask := 5, threads := T.threads.map fun th => th.writeV 2 (BitVec.ofNat 32 (0x2000 + 8 * th.pos)) }
def lsPair : LS := { scope := 4, ord := true, hint := 0, size := 5, offset := 0 }
def lsByte : LS := { scope := 0, ord := false, hint := 0, size := 0, offset := 0 }
def lsWord : LS := { scope := 0, ord := false, hint := 0, size := 4, offset := 0 }
def tgLane (p : Nat) : Target := .phys (0x21000 + 8 * p)
theorem tLanes_live : maskLanes (liveMask tLanes) = [0, 2] := by decide +kernel
/-- Lanes 0 and 2 of a team such as tLanes: what holds of each. -/
theorem both_lanes {m : Mask} {P : Nat → Prop} (h : maskLanes m = [0, 2]) (h0 : P 0) (h2 : P 2) : ∀ p, maskHas m p = true → P p :=
  lanes_of h fun p hp => by
    have : p = 0 ∨ p = 2 := by simpa using hp
    rcases this with rfl | rfl <;> assumption
theorem wit_Loads : Ready (part tLanes) tLanes ∧ ∃ f, loadForm (.ldVectorBase m0 62 2 lsPair) = some f ∧ f.l.ok f.space = true ∧ f.base.ok tLanes = true ∧
    f.dst.ok tLanes = true ∧ ∀ p, maskHas (liveMask tLanes) p = true →
      Places (part tLanes) tLanes f.space .load (f.ea tLanes p) f.l.bytes (tgLane p) ∧ Current (part tLanes) tLanes f.l (tgLane p) :=
  ⟨ready rfl rfl (by decide +kernel), _, rfl, rfl, rfl, rfl, both_lanes tLanes_live
    ⟨place_of _ _ _ _ _ .load rfl rfl (by decide +kernel) (by unfold pageCached; decide +kernel), Or.inl rfl⟩
    ⟨place_of _ _ _ _ _ .load rfl rfl (by decide +kernel) (by unfold pageCached; decide +kernel), Or.inl rfl⟩⟩
theorem wit_Stores : Ready (part tLanes) tLanes ∧ ∃ f, storeForm (.stVectorBase m0 2 62 lsPair) = some f ∧ f.l.storeOk f.space = true ∧ f.base.ok tLanes = true ∧
    f.data.ok tLanes = true ∧ ∀ p, maskHas (liveMask tLanes) p = true →
      Places (part tLanes) tLanes f.space .store (f.ea tLanes p) f.l.bytes (tgLane p) :=
  ⟨ready rfl rfl (by decide +kernel), _, rfl, rfl, rfl, rfl, both_lanes tLanes_live
    (place_of _ _ _ _ _ .store rfl rfl (by decide +kernel) (by unfold pageCached; decide +kernel))
    (place_of _ _ _ _ _ .store rfl rfl (by decide +kernel) (by unfold pageCached; decide +kernel))⟩

/-- Stores, the bound register of the last number: a word at the range's last byte is below LO, one within it is above HI. -/
def tOut : Team := { tLanes with threads := tLanes.threads.map fun th => th.writeV 62 (if th.pos = 0 then 0xFFFFFFFF else 8) }
def boundOf (format : Byte) (policy : BitVec 2) : Bound := { base := 0x1FFF, size := 18, lo := 0, hi := 7, format := format, space := 0, policy := policy }
theorem wit_Stores_bound : Ready (part tOut) tOut ∧ (part tOut).gridOf tOut = some G ∧ 15 < 16 ∧ TakesTraps (part tOut) tOut G ∧
    (∃ f, storeForm (.stVectorBase m0 2 62 lsWord) = some f ∧ f.l.storeOk f.space = true ∧ f.base.ok tOut = true ∧ f.data.ok tOut = true ∧
      f.l.bytes = 4 ∧ f.space = .device ∧ [0, 2].map (fun p => ((f.ea tOut p).toNat, ((rdAt tOut f.data p).setWidth 32 : Word))) =
        [(0x2000, 0xFFFFFFFF), (0x2010, 8)] ∧
      ∀ p, maskHas (liveMask tOut) p = true → p / 32 = 0 ∧ Places (part tOut) tOut f.space .store (f.ea tOut p) f.l.bytes (tgLane p)) ∧
    ∀ policy ∈ [1, 2, 3], ∀ format ∈ [0, 1], (boundOf format policy).size ≠ 0 ∧ (boundOf format policy).format ≤ 1 ∧
      (boundOf format policy).space.toNat = 0 ∧ 0x2010 < (boundOf format policy).base.toNat + (boundOf format policy).size.toNat :=
  ⟨ready rfl rfl (by decide +kernel), rfl, by decide, ⟨rfl, by decide +kernel, rfl, rfl, rfl⟩,
    ⟨_, rfl, rfl, rfl, rfl, rfl, rfl, by decide +kernel, both_lanes (by decide +kernel)
      ⟨rfl, place_of _ _ _ _ _ .store rfl rfl (by decide +kernel) (by unfold pageCached; decide +kernel)⟩
      ⟨rfl, place_of _ _ _ _ _ .store rfl rfl (by decide +kernel) (by unfold pageCached; decide +kernel)⟩⟩, by decide +kernel⟩

/-- ConstantAndSpillAccesses: no live lane, an 8-byte load at the top of the page, a prefetch. -/
def tNone : Team := { T with mode := 1 }
def tTop : Team := T.writeSP 10 0x2FF8
theorem wit_ConstantAndSpillAccesses : Ready (part tNone) tNone ∧ liveMask tNone = 0 ∧ Ready (part tTop) tTop ∧ lsPair.ok = true ∧
    tTop.hasSP 10 = true ∧ tTop.hasSP 62 = true ∧ liveMask tTop ≠ 0 ∧
    Places (part tTop) tTop .device .load (tTop.readSP 10 + lsPair.off) lsPair.bytes (.phys 0x21FF8) ∧
    Current (part tTop) tTop lsPair (.phys 0x21FF8) ∧ (Src.v 62 true).ok tTop = true ∧ lsByte.ok = true ∧ lsByte.size = 0 ∧ lsByte.ord = false :=
  ⟨ready rfl rfl (by decide +kernel), by decide +kernel, ready rfl rfl (by decide +kernel), rfl, rfl, rfl, by decide +kernel,
    place_of _ _ _ _ _ .load rfl rfl (by decide +kernel) (by unfold pageCached; decide +kernel), Or.inl rfl, rfl, rfl, rfl, rfl⟩

def lsSpill : LS := { scope := 0, ord := false, hint := 0, size := 5, offset := 0 }
/-- ConstantAndSpillAccesses, the spill region: a pair at the bottom of the region. -/
theorem wit_ConstantAndSpillAccesses_spill : Ready (part T) T ∧ lsSpill.spillOk = true ∧ lsSpill.storeOk = true ∧ SpillsAt (part T) T lsSpill ∧
    (Src.v 62 lsSpill.pair).ok T = true ∧ SpillFresh (part T) T lsSpill :=
  ⟨part_ready, rfl, rfl, ⟨rfl, G, rfl, lanes_of (l := List.range 32) (by decide +kernel) (by decide +kernel)⟩, rfl,
    lanes_of (l := List.range 32) (by decide +kernel) fun p hp ch hc pa h => absurd h (by
      have : (part T).imagePa (.spill T.uid) (ch.1.toNat - T.spillBase.toNat) = none :=
        (by decide +kernel : ∀ p ∈ List.range 32, ∀ ch ∈ spillChunks lsSpill T p, (part T).imagePa (.spill T.uid) (ch.1.toNat - T.spillBase.toNat) = none) p hp ch hc
      rw [this]; exact nofun)⟩
/-- The same in a page that the process maps, its lines in L1. -/
def tSpills : Team := { T with mask := 1, spillBase := 0x2000, ssp := 0x2000, spill := Memory.writeBytes [] 0 ((List.range 256).map fun k => BitVec.ofNat 8 (k + 1)) }
def sSpills : State := (part tSpills).modCore 0 fun c =>
  { c with l1 := [0, 1].map fun k => { line := 0x420 + k, data := BitVec.ofNat 1024 (Memory.readNat tSpills.spill (128 * k) 128) } }
theorem wit_ConstantAndSpillAccesses_cached : Ready sSpills tSpills ∧ SpillsAt sSpills tSpills lsSpill ∧ SpillFresh sSpills tSpills lsSpill := by
  refine ⟨ready rfl rfl (by decide +kernel), ⟨rfl, G, rfl, lanes_of (l := [0]) (by decide +kernel) (by decide +kernel)⟩,
    lanes_of (l := [0]) (by decide +kernel) fun p hp ch hc pa h => ?_⟩
  have hall : ∀ p ∈ [0], ∀ ch ∈ spillChunks lsSpill tSpills p,
      (match sSpills.imagePa (.spill tSpills.uid) (ch.1.toNat - tSpills.spillBase.toNat) with
      | some pa => match ((sSpills.coreAt 0).l1.take 1536).find? (fun x => x.line == pa / 128) with
        | some ln => decide (((List.range ch.2).map fun k => byteOf ln.data.toNat (pa % 128 + k)) =
            Memory.readBytes tSpills.spill (ch.1.toNat - tSpills.spillBase.toNat) ch.2)
        | none => false
      | none => false) = true := by decide +kernel
  have := hall p hp ch hc
  rw [h] at this
  dsimp only at this
  split at this
  · exact ⟨_, by assumption, of_decide_eq_true this⟩
  · cases this

/-- Atomics: an 8-byte CAS of lanes 0 and 2. -/
theorem wit_Atomics : Ready (part tLanes) tLanes ∧ ∃ f, atomForm (((part tLanes).gridOf tLanes).any Grid.ordered) (.atomVectorBase m0 4 2 6 (la 10 true true)) = some f ∧
    f.ok tLanes = true ∧ liveMask tLanes ≠ 0 ∧ ∀ p, maskHas (liveMask tLanes) p = true →
      p / 32 = 0 ∧ Places (part tLanes) tLanes f.space .store (addressOf f.space (rdAt tLanes f.base p) f.l.off) f.l.bytes (tgLane p) := by
  exact ⟨ready rfl rfl (by decide +kernel), _, rfl, by decide +kernel, by decide +kernel,
    both_lanes tLanes_live ⟨rfl, place_of _ _ _ _ _ .store rfl rfl (by decide +kernel) (by unfold pageCached; decide +kernel)⟩ ⟨rfl, place_of _ _ _ _ _ .store rfl rfl (by decide +kernel) (by unfold pageCached; decide +kernel)⟩⟩

/-- OrderedReservation: in an ordered grid whose teams may take 5, two lanes that take 2 each, and two that take 3 each. -/
def gOrdered : Grid := { G with desc := G.desc.take 0x1F ++ [2, 5, 0, 0, 0] ++ G.desc.drop 0x24 }
def tTakes (n : Word) : Team := { tLanes with threads := tLanes.threads.map fun th => th.writeV 6 n }
theorem wit_OrderedReservation (n : Word) (hn : n = 2 ∨ n = 3) : Ready (part (tTakes n) B gOrdered) (tTakes n) ∧
    TakesTraps (part (tTakes n) B gOrdered) (tTakes n) gOrdered ∧ gOrdered.ordered = true ∧
    ∃ f, atomForm true (.atomrVectorBase m0 4 2 6 (la 0 true)) = none ∧ atomForm false (.atomrVectorBase m0 4 2 6 (la 0 true)) = some f ∧
      f.ok (tTakes n) = true ∧ liveMask (tTakes n) ≠ 0 ∧
      (((tTakes n).atomrN + ((maskLanes (liveMask (tTakes n))).map (f.x (tTakes n))).sum ≤ gOrdered.atomr) ↔ n = 2) ∧
      ∀ p, maskHas (liveMask (tTakes n)) p = true → p / 32 = 0 ∧
        Places (part (tTakes n) B gOrdered) (tTakes n) f.space .store (addressOf f.space (rdAt (tTakes n) f.base p) f.l.off) f.l.bytes (tgLane p) := by
  rcases hn with rfl | rfl <;>
  · exact ⟨ready rfl rfl (by decide +kernel), ⟨rfl, by decide +kernel, rfl, rfl, rfl⟩, by decide +kernel, _, rfl, rfl, by decide +kernel,
      by decide +kernel, by decide +kernel, both_lanes (by decide +kernel) ⟨rfl, place_of _ _ _ _ _ .store rfl rfl (by decide +kernel) (by unfold pageCached; decide +kernel)⟩ ⟨rfl, place_of _ _ _ _ _ .store rfl rfl (by decide +kernel) (by unfold pageCached; decide +kernel)⟩⟩

/-- Fences: the widest scope. -/
theorem wit_Fences : Ready (part T) T ∧ (3 : BitVec 2) ≠ 0 ∧ (5 : BitVec 3).toNat ≤ 5 := ⟨part_ready, by decide, by decide⟩

/-- AlignmentTrap: lanes 0 and 2, of which lane 2's address is odd. -/
def tOdd : Team := { tLanes with threads := tLanes.threads.map fun th => if th.pos = 2 then th.writeV 2 0x2011 else th }
theorem wit_AlignmentTrap : Ready (part tOdd) tOdd ∧ TakesTraps (part tOdd) tOdd G ∧
    (∃ f, loadForm (.ldVectorBase m0 63 2 lsWord) = some f ∧ f.l.ok f.space = true ∧ f.dst.ok tOdd = true ∧ f.base.ok tOdd = true ∧
      lowestLane (filterMask (liveMask tOdd) fun q => (f.ea tOdd q).toNat % f.l.bytes != 0) = some 2 ∧
      ∀ q, maskHas (liveMask tOdd) q = true → 2 / 32 ≤ q / 32) ∧
    ∃ f, storeForm (.stVectorBase m0 2 63 lsWord) = some f ∧ f.l.storeOk f.space = true ∧ f.data.ok tOdd = true ∧ f.base.ok tOdd = true :=
  ⟨ready rfl rfl (by decide +kernel), ⟨rfl, by decide +kernel, rfl, rfl, rfl⟩,
    ⟨_, rfl, rfl, rfl, rfl, by decide +kernel, fun q _ => Nat.zero_le _⟩, _, rfl, rfl, rfl, rfl⟩

/-- CountDown: INIT 0, and a count that INIT refills. -/
theorem wit_CountDown : bitsOf 5 103 64 = 0 ∧ bitsOf (5 + 4 * 2 ^ 64) 103 64 ≠ 0 ∧ 5 + 4 * 2 ^ 64 < 2 ^ 128 := by decide

/-- Barriers: an object at the end of scratch, named by BARW with phase 1. -/
def tBarrier : Team := ((T.writeS 20 0x7FF0).writeS 21 32).writeS 22 0x7FF1
theorem wit_Barriers : Ready (part tBarrier) tBarrier ∧ tBarrier.hasS 20 = true ∧ tBarrier.hasS 21 = true ∧
    ObjectAt (part tBarrier) tBarrier (tBarrier.readS 20).toNat ∧ ObjectAt (part tBarrier) tBarrier ((tBarrier.readS 22).toNat / 16 * 16) ∧
    (tBarrier.readS 22).toNat % 16 / 2 = 0 ∧ arrives tBarrier ∧ tBarrier.isGrid = true :=
  ⟨ready rfl rfl (by decide +kernel), rfl, rfl, ⟨by decide +kernel, B, rfl, by decide +kernel⟩, ⟨by decide +kernel, B, rfl, by decide +kernel⟩,
    by decide +kernel, Or.inl rfl, rfl⟩

/-- BlockEvents: the highest index, an event that is published and one that is not. -/
def tEvent : Team := T.writeS 20 0
def gEvent : Grid := { G with events := [(0, 7)] }
theorem wit_BlockEvents : Ready (part tEvent) tEvent ∧ (part tEvent).gridOf tEvent = some G ∧ (part tEvent).blockOf tEvent = some B ∧
    tEvent.hasS 20 = true ∧ tEvent.isGrid = true ∧ B.published = false ∧ (tEvent.readS 20).toNat < G.count ∧ G.ordered = false ∧
    tEvent.hasS 63 = true ∧ tEvent.hasP 15 = true ∧ G.event? 0 = none ∧
    Ready (part tEvent B gEvent) tEvent ∧ gEvent.event? 0 = some 7 ∧ (tEvent.readS 20).toNat < gEvent.count :=
  ⟨ready rfl rfl (by decide +kernel), rfl, rfl, rfl, rfl, rfl, by decide +kernel, by decide +kernel, rfl, rfl, rfl,
    ready rfl rfl (by decide +kernel), rfl, by decide +kernel⟩

/-- CoalescingNodes: 32 records of 8 words for a node with just that room, and for one without. -/
def node (slots : List SlotState) : Node :=
  { entry := 0x1000, buf := 0x2100, nslot := 2, recw := 8, age := 4096, thresh := 16, slots := slots, openIx := 0, batches := 0 }
def gNode (slots : List SlotState) : Grid := { G with nodes := [node slots] }
theorem wit_CoalescingNodes : Ready (part T B (gNode [.free, .free])) T ∧ (part T B (gNode [.free, .free])).nodeOf T 0 = some (node [.free, .free]) ∧
    (8 : Reg).toNat ≤ 8 ∧ (node [.free, .free]).recw = (8 : Reg).toNat ∧ (maskLanes T.running).length ≤ (node [.free, .free]).thresh * 2 ∧
    (Src.vs 56 8).ok T = true ∧ (maskLanes T.running).length ≤ (node [.free, .free]).room ∧
    Ready (part T B (gNode [.free, .running 16])) T ∧ (part T B (gNode [.free, .running 16])).nodeOf T 0 = some (node [.free, .running 16]) ∧
    (node [.free, .running 16]).room < (maskLanes T.running).length :=
  ⟨ready rfl rfl (by decide +kernel), rfl, by decide, rfl, by decide +kernel, rfl, by decide +kernel, ready rfl rfl (by decide +kernel), rfl,
    by decide +kernel⟩

/-- Copies: a descriptor at the end of scratch; a batch that is not complete. -/
def tCopy : Team :=
  let t := (T.writeS 20 0x7FE0).writeS 21 1
  ({ t with openBatch := [{ req := 9, done := false, status := 0 }] } : Team).closeBatch
theorem wit_Copies : Ready (part tCopy) tCopy ∧ tCopy.hasS 20 = true ∧ (part tCopy).blockOf tCopy = some B ∧ ((part tCopy).procOf tCopy).isSome = true ∧
    (tCopy.readS 20).toNat % 32 = 0 ∧ (tCopy.readS 20).toNat + 32 ≤ B.scrsz ∧ (part tCopy).courierFull tCopy.core = false ∧ liveMask tCopy ≠ 0 ∧
    tCopy.hasS 63 = true ∧ tCopy.readS 22 = 0 ∧ tCopy.readS 21 ≠ 0 ∧ tCopy.batchOf (tCopy.readS 21) = some 1 ∧ tCopy.batchesDone 1 = false :=
  ⟨ready rfl rfl (by decide +kernel), by decide +kernel, by decide +kernel, by decide +kernel, by decide +kernel, by decide +kernel, by decide +kernel,
    by decide +kernel, by decide +kernel, by decide +kernel, by decide +kernel, by decide +kernel, by decide +kernel⟩
theorem wit_Copies_none : Ready (part tNone) tNone ∧ liveMask tNone = 0 := ⟨ready rfl rfl (by decide +kernel), by decide +kernel⟩
def copyOf (kind : BitVec 3) (counted : Nat) (paused : Option (BitVec 12)) : CopyReq :=
  { id := 9, team := 1, blk := 2, gid := 1, pc := 0x1000, kind := kind, dst := 0x400, src := 0x2FE0, dstride := 64, sstride := 16, len := 16, rows := 2,
    bar := 0x40, peer := 0, moved := [], counted := counted, status := 0, paused := paused, word := 0, homes := 1, after := 3,
    inHandler := false, isHeir := false }
theorem wit_Copies_full : let s := (part tCopy).modCore 0 fun c => { c with courier := List.replicate 256 (copyOf 0 0 none) }
    Ready s tCopy ∧ s.courierFull tCopy.core = true := ⟨ready rfl rfl (by decide +kernel), by decide +kernel⟩

/-- ChoiceConfiguration: the least and greatest capacity, here one; a key that is set; a descriptor at the end of scratch. -/
theorem wit_ChoiceConfiguration : Ready (part tCopy) tCopy ∧ (part tCopy).gridOf tCopy = some G ∧ (part tCopy).blockOf tCopy = some B ∧
    (16 : Half).toNat ≤ G.cvcap ∧ (∀ th ∈ tCopy.threads, isLive tCopy th = true → th.cv.busy = false) ∧ tCopy.hasV 2 = true ∧
    (∀ th ∈ tCopy.threads, isLive tCopy th = true → th.cv.badKey (th.readV 2) = false) ∧ tCopy.hasS 20 = true ∧
    G.relay.any (fun r => r.level == 0) = false ∧ (tCopy.readS 20).toNat % 32 = 0 ∧ (tCopy.readS 20).toNat + 32 ≤ B.scrsz ∧ liveMask tCopy ≠ 0 ∧
    badMutation (B.formatAt (tCopy.readS 20).toNat) = false :=
  ⟨ready rfl rfl (by decide +kernel), by decide +kernel⟩

/-- Holdings: the last item of the estate, a free lock and one that is held, a promise that is held. -/
def slotOf (kind : BitVec 3) (a : Double) : EstateSlot := { EstateSlot.free 1 with kind := kind, addr := a }
def tHolds : Team :=
  let t := ((T.writeSP 20 0x2040).writeSP 22 0x2000).writeS 24 130
  { t with estate := vput (vput t.estate 0 (slotOf kindLock 0x2040)) 31 (slotOf kindPromise 0x2040) }
theorem wit_Holdings : Ready (part tHolds) tHolds ∧ liveMask tHolds ≠ 0 ∧ tHolds.hasS 24 = true ∧ (tHolds.readS 24).toNat < 131 ∧ tHolds.hasP 15 = true ∧
    WordAt (part tHolds) tHolds 20 .store (.phys 0x21040) ∧ WordAt (part tHolds) tHolds 20 .load (.phys 0x21040) ∧
    lockPoisoned ((part tHolds).wordAt (.phys 0x21040)) = false ∧ lockOwner ((part tHolds).wordAt (.phys 0x21040)) = 0 ∧
    (Estate.freeSlot tHolds.estate).isSome = true ∧ (Estate.find tHolds.estate kindLock (tHolds.readSP 20)).isSome = true ∧
    (Estate.find tHolds.estate kindPromise (tHolds.readSP 20)).isSome = true ∧ promiseState ((part tHolds).wordAt (.phys 0x21040)) = 0 ∧
    WordAt (part tHolds) tHolds 22 .store (.phys 0x21000) ∧ lockPoisoned ((part tHolds).wordAt (.phys 0x21000)) = false ∧
    lockOwner ((part tHolds).wordAt (.phys 0x21000)) ≠ 0 :=
  ⟨ready rfl rfl (by decide +kernel), by decide +kernel, rfl, by decide +kernel, rfl,
    ⟨rfl, by decide +kernel, place_of _ _ _ _ _ .store rfl rfl (by decide +kernel) (by unfold pageCached; decide +kernel)⟩,
    ⟨rfl, by decide +kernel, place_of _ _ _ _ _ .load rfl rfl (by decide +kernel) (by unfold pageCached; decide +kernel)⟩,
    by decide +kernel, by decide +kernel, by decide +kernel, by decide +kernel, by decide +kernel, by decide +kernel,
    ⟨rfl, by decide +kernel, place_of _ _ _ _ _ .store rfl rfl (by decide +kernel) (by unfold pageCached; decide +kernel)⟩,
    by decide +kernel, by decide +kernel⟩
theorem wit_Holdings_kept : let s := { part tHolds with mem := Memory.write (part tHolds).mem 0x21040 1 }
    Ready s tHolds ∧ WordAt s tHolds 20 .load (.phys 0x21040) ∧ promiseState (s.wordAt (.phys 0x21040)) ≠ 0 :=
  ⟨ready rfl rfl (by decide +kernel), ⟨rfl, by decide +kernel, place_of _ _ _ _ _ .load rfl rfl (by decide +kernel) (by unfold pageCached; decide +kernel)⟩, by decide +kernel⟩

/-- What a grant leaves: the die's pool, holding more than any charge of one matrix step. -/
theorem countOnes_le (x bits : Nat) : countOnes x bits ≤ bits := by
  unfold countOnes
  suffices h : ∀ (l : List Nat) n, l.foldl (fun n i => if x.testBit i then n + 1 else n) n ≤ n + l.length by
    simpa using h (List.range bits) 0
  intro l
  induction l with
  | nil => simp
  | cons a l ih => intro n; refine (ih _).trans ?_; simp only [List.length_cons]; split <;> omega
theorem grant_of {s : State} {die gid team : Nat} {w : StepWait} (n : Nat) (h1 : (n : Int) ≤ (s.dieAt die).pool) (h : w.charge ≤ n)
    (h2 : (s.dieWaits die team).isEmpty = true) : ∃ s1, s.grantStep die gid team w = some s1 := by
  have : (w.charge : Int) ≤ (s.dieAt die).pool := by omega
  rw [List.isEmpty_iff] at h2
  unfold State.grantStep State.grantCharge
  simp only [h2, List.any_nil, Bool.and_false, Bool.false_eq_true, if_false]
  split
  · exact ⟨_, rfl⟩
  · exact ⟨_, rfl⟩

/-- A part with a full pool of tokens. -/
def rich (s : State) : State := s.modDie 0 fun d => { d with pool := 100000 }

/-- MatrixLoops: a format block of one row and one column at the end of scratch, the last accumulator, an increment; the last step. -/
def fmtOne : Nat := 1 + 1 * 16 + 1 * 2 ^ 28 + 1 * 2 ^ 32 + 1 * 2 ^ 40 + 0x1000 * 2 ^ 128
def bMatrix : Block := { B with scratch := Memory.writeBytes [] 0x7FE0 (leBytes 32 fmtOne), tfull := 1 }
def tMatrix : Team := (T.writeS 20 0x40).writeS 21 0x7FE0
theorem wit_MatrixLoops_issue : let f := FormatBlock.parse (bMatrix.formatAt 0x7FE0)
    Ready (rich (part tMatrix bMatrix)) tMatrix ∧ (rich (part tMatrix bMatrix)).blockOf tMatrix = some bMatrix ∧ tMatrix.hasS 63 = true ∧
    tMatrix.readS 20 = 0x40 ∧ (tMatrix.readS 21).toNat = 0x7FE0 ∧ 0x7FE0 + 32 ≤ bMatrix.scrsz ∧ 7 < bMatrix.nacc ∧
    f.check bMatrix 0x40 300 = none ∧ bMatrix.tileFull (f.tile 0) = true :=
  ⟨ready rfl rfl (by decide +kernel), by decide +kernel⟩
theorem wit_MatrixLoops_charge (x : StepIn) (prev : Nat) (h : x.f.fa = 1) :
    ∃ s1, (rich (part tMatrix bMatrix)).grantStep 0 1 1 (tMatrix.chargeWait (x.charge prev)) = some s1 := by
  refine grant_of 50000 (by decide +kernel) ?_ (by decide +kernel)
  show x.charge prev ≤ 50000
  have h1 := countOnes_le (Nat.xor x.bits prev) (64 * 4096)
  have h2 : ∀ a, a ≤ 1 → stepBase a ≤ 2400 := by decide
  have h3 : stepBase (if x.f.fa ≤ x.f.fb then x.f.fa else x.f.fb) ≤ 2400 := h2 _ (by rw [h]; split <;> omega)
  unfold StepIn.charge
  omega
/-- The same loop where the die's pool is empty. -/
theorem wit_MatrixLoops_token (x : StepIn) (prev : Nat) : Ready (part tMatrix bMatrix) tMatrix ∧
    (part tMatrix bMatrix).grantStep 0 1 1 (tMatrix.chargeWait (x.charge prev)) = none := by
  refine ⟨ready rfl rfl (by decide +kernel), ?_⟩
  have h2 : (part tMatrix bMatrix).dieWaits 0 1 = [] := List.isEmpty_iff.mp (by decide +kernel)
  have h3 : ((part tMatrix bMatrix).dieAt 0).privPools = [] := by decide +kernel
  have h4 : ((part tMatrix bMatrix).dieAt 0).pool = 0 := by decide +kernel
  have h5 : ∀ n, 0 < stepBase n := fun n => by unfold stepBase; split <;> decide
  have h6 : 0 < x.charge prev := Nat.lt_of_lt_of_le (h5 _) (Nat.le_add_right _ _)
  unfold State.grantStep State.grantCharge State.ownPool
  simp only [h2, h3, h4, List.any_nil, Bool.and_false, Bool.false_eq_true, if_false]
  rw [if_neg]
  show ¬ ((x.charge prev : Int) ≤ 0)
  omega
def lastJob : MatrixJob := { id := 0, team := 1, work := .loop 7 fmtOne 0x40 3 2 0 false true 0 [] }
def tLoop : Team := { tMatrix with run := .waiting (.mloop 0) }
def bLoop : Block := { bMatrix with jobs := [lastJob], nextJob := 1 }
theorem wit_MatrixLoops_step : (part tLoop bLoop).soft = [] ∧ (part tLoop bLoop).watches = [] ∧ (part tLoop bLoop).blocks = [bLoop] ∧ bLoop.jobs = [lastJob] ∧
    ((part tLoop bLoop).startable 0 bLoop lastJob).isSome = true ∧ Table.wf bLoop.accs = true :=
  by decide +kernel

/-- MatrixData: the last tile and the last accumulator, data that end at the end of scratch; a tile that is full. -/
def tData : Team := (T.writeS 20 0x4000).writeS 21 0x7800
theorem wit_MatrixData : Ready (part tData) tData ∧ Ready (part tData { B with tfull := 0x8000 }) tData ∧ (part tData).blockOf tData = some B ∧ (part tData).serves tData = true ∧
    tData.hasS 63 = true ∧ 15 < B.ntile ∧ 7 < B.nacc ∧ (tData.readS 20).toNat % 256 = 0 ∧ (tData.readS 20).toNat + 0x4000 ≤ B.scrsz ∧
    B.tileFull 15 = false ∧ (part tData { B with tfull := 0x8000 }).serves tData = true ∧ ({ B with tfull := 0x8000 } : Block).tileFull 15 = true ∧
    (tData.readS 20).toNat + 1024 * ((matrixFmt 3).bits / 8) ≤ B.scrsz ∧ (tData.readS 21).toNat % 256 = 0 ∧
    (tData.readS 21).toNat + 1024 * ((matrixFmt 2).bits / 8) ≤ B.scrsz :=
  ⟨ready rfl rfl (by decide +kernel), ready rfl rfl (by decide +kernel), rfl, by decide +kernel⟩

/-- MatrixReservation: with a free slot; with none; held by another, held by the team; work done and not done. -/
def tFullEstate : Team := { T with estate := Vector.replicate 32 (slotOf kindLock 0x2000) }
def reserved (u : Nat) (s : State) : State := s.modCore 0 fun c => { c with reservation := some u }
theorem wit_MatrixReservation : Ready (part T) T ∧ (part T).blockOf T = some B ∧ T.core < 576 ∧ T.hasP 15 = true ∧
    ((part T).coreAt T.core).reservation = none ∧ (Estate.freeSlot T.estate).isSome = true ∧
    Ready (part tFullEstate) tFullEstate ∧ Estate.freeSlot tFullEstate.estate = none ∧
    Ready (reserved 9 (part T)) T ∧ ((reserved 9 (part T)).coreAt T.core).reservation = some 9 ∧
    Ready (reserved 1 (part T)) T ∧ ((reserved 1 (part T)).coreAt T.core).reservation = some T.uid ∧
    B.matrixDone B.nextJob = true ∧ Ready (part T bLoop) T ∧ bLoop.matrixDone bLoop.nextJob = false :=
  ⟨part_ready, rfl, by decide, rfl, by decide +kernel, by decide +kernel, ready rfl rfl (by decide +kernel), by decide +kernel,
    ready rfl rfl (by decide +kernel), by decide +kernel, ready rfl rfl (by decide +kernel), by decide +kernel, by decide +kernel,
    ready rfl rfl (by decide +kernel), by decide +kernel⟩

/-- Radiance: records that end at the end of scratch; each parameter at an end of its range; weights in the commons. -/
def tRad : Team := ((T.writeS 20 0x7FD0).writeS 21 65535).writeS 22 0x7F7FFFFF
def sRad : State := rich (part { tRad with mask := 1 })
def tRad1 : Team := { tRad with mask := 1 }
def procWindow : Process := { firstProcess with windows := [(0, List.range 144)] }
def sLoadw : State := { part (T.writeS 20 0x8000) with procs := [procWindow] }
theorem wit_Radiance : Ready sRad tRad1 ∧ sRad.blockOf tRad1 = some B ∧ tRad1.hasV 63 = true ∧ tRad1.hasS 63 = true ∧ sRad.serves tRad1 = true ∧
    (sRad.coreAt 0).weightSet = sRad.setNumber 0 ∧ (tRad1.readS 20).toNat % 16 = 0 ∧ maskLanes (liveMask tRad1) = [0] ∧
    recordOff tRad1 (tRad1.readS 20).toNat 0 + 48 ≤ B.scrsz ∧ sRad.rcqTurn tRad1 = true ∧ (sRad.grantPasses tRad1 1).isSome = true ∧
    (Src.vs 61 3).ok tRad1 = true ∧ (tRad1.readS 21).toNat ≤ 65535 ∧ positiveF32 (tRad1.readS 22) = true ∧ fractionF32 0 = true :=
  ⟨ready rfl rfl (by decide +kernel), rfl, rfl, rfl, by decide +kernel⟩
theorem wit_Radiance_loadw : Ready sLoadw (T.writeS 20 0x8000) ∧ liveMask (T.writeS 20 0x8000) ≠ 0 ∧
    sLoadw.procOf (T.writeS 20 0x8000) = some procWindow ∧ ((T.writeS 20 0x8000).readS 20).toNat % 0x4000 = 0 ∧
    sLoadw.commonsRange 0 procWindow 0x8000 0x4000 false = true ∧ (sLoadw.commonsAt 0 0x8000 1).isSome = true :=
  ⟨ready rfl rfl (by decide +kernel), by decide +kernel⟩
/-- A cache region in the commons of the die's last core. -/
def inRegion (die : Nat) (s : State) : State := s.modDie die fun d => { d with rcBase := some 0x023C0000 }
theorem wit_Radiance_region : RegionPlaced (inRegion 0 sLoadw) 0 ∧ Ready (inRegion 0 sLoadw) (T.writeS 20 0x8000) ∧
    (inRegion 0 sLoadw).commonsRange 0 procWindow 0x8000 0x4000 false = true :=
  ⟨⟨143, 0, by decide +kernel⟩, ready rfl rfl (by decide +kernel), by decide +kernel⟩

/-- ReductionPackets: a router with no children at the team's core: its local slot empty in this round; full in both; a result held. -/
def rtr : Router :=
  { tree := 5, die := 0, core := 0, children := [], rnd := 0, tout := 1000, round := 0, now := emptySlots 1, next := emptySlots 1, held := none, timedOut := false, out := none }
def pkt1 : Packet := { round := 0, data := packetOf T 4, incomplete := false }
def rtrFull : Router := { rtr with children := [1], now := [some pkt1, none], next := [some pkt1, none] }
def rtrHeld : Router := { rtr with held := some pkt1 }
def gRouter (r : Router) : Grid := { G with routers := [r] }
theorem wit_ReductionPackets : Ready (part T B (gRouter rtr)) T ∧ Ready (part T B (gRouter rtrFull)) T ∧ Ready (part T B (gRouter rtrHeld)) T ∧
    (part T B (gRouter rtr)).gridOf T = some (gRouter rtr) ∧ T.hasV 63 = true ∧ T.hasS 63 = true ∧
    ((gRouter rtr).localSlot 5 0).isSome = true ∧ ((gRouter rtr).rootAt 5 0).isSome = true ∧ liveMask T ≠ 0 ∧
    ((part T B (gRouter rtr)).sendPacket T 5 (packetOf T 4)).isSome = true ∧ ((part T B (gRouter rtr)).takeResult T 5).isNone = true ∧
    ((gRouter rtrFull).localSlot 5 0).isSome = true ∧
    ((part T B (gRouter rtrFull)).sendPacket T 5 (packetOf T 4)).isNone = true ∧
    ((part T B (gRouter rtrHeld)).takeResult T 5).isSome = true :=
  ⟨ready rfl rfl (by decide +kernel), ready rfl rfl (by decide +kernel), ready rfl rfl (by decide +kernel), rfl, by decide +kernel⟩

/-- SpecialRegisters: every index that names a register is one of the three forms; a counter; a bound at the end of scratch. -/
def bBound : Block := { B with scratch := Memory.writeBytes [] 0x7FE0 (leBytes 32 (0x2000 * 2 ^ 192 + 256 * 2 ^ 128)) }
def tBound : Team := T.writeS 20 0x7FE0
theorem wit_SpecialRegisters : Ready (part T) T ∧ T.hasV 63 = true ∧ T.hasS 63 = true ∧ T.hasSP 62 = true ∧
    (∀ i ∈ [0x10, 0x14], (teamRegister T i).isSome = true) ∧ (∀ i ∈ [0, 8, 0x20, 0x28, 0x30, 0x38], (counterOf (part T) T B i).isSome = true) ∧
    (part T).blockOf T = some B ∧ T.aside = none ∧
    Ready (part tBound bBound) tBound ∧ (tBound.readS 20).toNat % 32 = 0 ∧ (tBound.readS 20).toNat + 32 ≤ bBound.scrsz ∧
    (Bound.parse (bBound.formatAt (tBound.readS 20).toNat)).isSome = true :=
  ⟨part_ready, rfl, rfl, rfl, by decide +kernel, by decide +kernel, rfl, rfl, ready rfl rfl (by decide +kernel),
    by decide +kernel, by decide +kernel, by decide +kernel⟩

/-! Waits, replies, engines. -/

/-- A team that waits, in a part whose only team it is. -/
def waits (w : Wait) (t : Team := T) : Team := { t with run := .waiting w }
def bObj (x : Nat) : Block := { B with scratch := Memory.writeBytes [] 0x40 (leBytes 16 x) }
def tDone : Team := ({ T with openBatch := [{ req := 9, done := true, status := 3 }] } : Team).closeBatch
def tWoken : Team := tDone

/-- WaitsEnd, first clause: a phase that has turned, a grid barrier with its only team ended, a batch that is done, no matrix work, a
value published. -/
theorem wit_WaitsEnd_plain : let s := fun (w : Wait) (b : Block) (g : Grid) => part (waits w) b g
    (s (.bar 0x40 false) (bObj (2 ^ 127)) G).waiter 1 = some (waits (.bar 0x40 false), .bar 0x40 false) ∧
    Quiet (s (.bar 0x40 false) (bObj (2 ^ 127)) G) (waits (.bar 0x40 false)) ∧
    (s (.bar 0x40 false) (bObj (2 ^ 127)) G).phaseAt 2 0x40 ≠ false ∧
    (s (.gbar 0) B G).waiter 1 = some (waits (.gbar 0), .gbar 0) ∧ (s (.gbar 0) B G).gbarDone 1 0 = true ∧
    (s (.mwait 0) B G).waiter 1 = some (waits (.mwait 0), .mwait 0) ∧ B.matrixDone 0 = true ∧
    (s (.evwait 63 0) B gEvent).waiter 1 = some (waits (.evwait 63 0), .evwait 63 0) ∧ (s (.evwait 63 0) B gEvent).eventOf (waits (.evwait 63 0)) 0 = some 7 :=
  ⟨rfl, (settled rfl (by decide +kernel)).2, by decide +kernel, rfl, by decide +kernel, rfl, rfl, rfl, by decide +kernel⟩
theorem wit_WaitsEnd_cwait : let t := waits (.cwait 1) tDone
    (part t).waiter 1 = some (t, .cwait 1) ∧ Quiet (part t) t ∧ (t.batchOf 1).any t.batchesDone = true :=
  ⟨rfl, (settled rfl (by decide +kernel)).2, by decide +kernel⟩

/-- Second clause: a promise with a status, a lock that is free. -/
def sAwait : State := { part (waits (.await 63 0x2000)) with mem := Memory.write part0.mem 0x21000 1 }
theorem wit_WaitsEnd_words : sAwait.waiter 1 = some (waits (.await 63 0x2000), .await 63 0x2000) ∧ Quiet sAwait (waits (.await 63 0x2000)) ∧
    sAwait.soft = [] ∧ sAwait.waitWord (waits (.await 63 0x2000)) .load 0x2000 = some (.phys 0x21000) ∧
    promiseState (sAwait.wordAt (.phys 0x21000)) ≠ 0 ∧
    (part (waits (.lock 15 0x2040 1))).waiter 1 = some (waits (.lock 15 0x2040 1), .lock 15 0x2040 1) ∧
    (part (waits (.lock 15 0x2040 1))).waitWord (waits (.lock 15 0x2040 1)) .store 0x2040 = some (.phys 0x21040) ∧
    lockPoisoned ((part (waits (.lock 15 0x2040 1))).wordAt (.phys 0x21040)) = false ∧
    lockOwner ((part (waits (.lock 15 0x2040 1))).wordAt (.phys 0x21040)) = 0 ∧ (Estate.freeSlot T.estate).isSome = true :=
  ⟨rfl, (settled rfl (by decide +kernel)).2, rfl, by decide +kernel, by decide +kernel, rfl, by decide +kernel, by decide +kernel,
    by decide +kernel, by decide +kernel⟩

/-- Third clause: room for one record, for a copy, for a tile, for a packet; a result. -/
def wEnq : Wait := .enq 0 [[1, 2, 3, 4, 5, 6, 7, 8]] [63]
def wPkt : Wait := .rpkt 5 (packetOf T 4) [4]
def wRcv : Wait := .rprcv 63 63 5 1
def loadJob : MatrixJob := { id := 0, team := 1, work := .load 15 0x4000 [] }
def bLoad : Block := { B with jobs := [loadJob], nextJob := 1 }
theorem wit_WaitsEnd_work :
    (part (waits wEnq) B (gNode [.free, .free])).waiter 1 = some (waits wEnq, wEnq) ∧ Seated (waits wEnq) ∧ Quiet (part (waits wEnq) B (gNode [.free, .free])) (waits wEnq) ∧
    (part (waits wEnq) B (gNode [.free, .free])).nodeOf (waits wEnq) 0 = some (node [.free, .free]) ∧ 1 ≤ (node [.free, .free]).room ∧
    (part (waits (.cpost 0x7FE0))).waiter 1 = some (waits (.cpost 0x7FE0), .cpost 0x7FE0) ∧
    (part (waits (.cpost 0x7FE0))).courierFull 0 = false ∧ ((part (waits (.cpost 0x7FE0))).procOf (waits (.cpost 0x7FE0))).isSome = true ∧
    (part (waits (.mtld 0)) bLoad).waiter 1 = some (waits (.mtld 0), .mtld 0) ∧ bLoad.jobs.find? (fun j => j.id == 0) = some loadJob ∧
    (part (waits (.mtld 0)) bLoad).tileReady (waits (.mtld 0)) bLoad 15 = true ∧
    (part (waits wPkt) B (gRouter rtr)).waiter 1 = some (waits wPkt, wPkt) ∧
    ((part (waits wPkt) B (gRouter rtr)).sendPacket (waits wPkt) 5 (packetOf T 4)).isSome = true ∧
    (part (waits wRcv) B (gRouter rtrHeld)).waiter 1 = some (waits wRcv, wRcv) ∧
    ((part (waits wRcv) B (gRouter rtrHeld)).takeResult (waits wRcv) 5).isSome = true :=
  have h := settled rfl (by decide +kernel)
  ⟨rfl, h.1, h.2, rfl, by decide +kernel, rfl, rfl, rfl, rfl, by decide +kernel, by decide +kernel, rfl, by decide +kernel, rfl, by decide +kernel⟩
def tSysc : Team := { waits (.sysc 9) with sysc := .sent }
theorem wit_WaitsEnd_sysc : (part tSysc).waiter 1 = some (tSysc, .sysc 9) ∧ Quiet (part tSysc) tSysc ∧ tSysc.sysc = .sent :=
  ⟨rfl, (settled rfl (by decide +kernel)).2, rfl⟩

/-- A live team of a part with no other. -/
theorem alive {s : State} {t : Team} (h0 : s.teams = [t]) (h1 : t.cause = 0) (h2 : s.gridFrozen t.gid = false) : Alive s t :=
  ⟨by simp [State.team?, h0], h1, h2, by simp [h0]⟩

/-- StoresAndReplies: a store to device memory, to scratch and to the commons; a load of a dead lane, an atomic. -/
def queued (space : Space) (key : Nat) : StoreEntry :=
  { space := space, addr := 0x2000, key := key, bytes := [1, 2, 3, 4], pc := 0x1000, row := 0, pos := 0, lane := 0, core := 0, word := 0, lit := 0,
    after := 1, publishes := false }
def storing (e : StoreEntry) : Team := { T with storeQ := [e] }
def pending (atomic : Bool) : InFlight := { atomic := atomic, pc := 0x1000, writes := [(.v 0 63, 7), (.s 63, 9)] }
def loading (atomic : Bool) : Team := { T with inflight := [pending atomic] }
def tMissing : Team := { loading false with run := .missing [.vector 63, .aux 0] }
theorem wit_StoresAndReplies : (∀ e ∈ [queued .device 0x21000, queued .scratch (2 ^ 33 + 0x7FFC), queued .commons (575 * 2 ^ 32)],
      Alive (part (storing e)) (storing e) ∧ (part (storing e)).watches = [] ∧ (part (storing e)).badSector e.key = false) ∧
    ((part T).block? ((2 ^ 33 + 0x7FFC) / 2 ^ 32)).isSome = true ∧ 575 * 2 ^ 32 / 2 ^ 32 < 576 ∧
    Alive (part (loading false)) (loading false) ∧ Alive (part (loading true)) (loading true) ∧ (loading true).aside = none ∧ (part T).soft = [] ∧
    Alive (part tMissing) tMissing ∧ tMissing.run = .missing [.vector 63, .aux 0] ∧ tMissing.inflight = [pending false] := by
  refine ⟨?_, by decide +kernel, by decide, alive rfl rfl (by decide +kernel), alive rfl rfl (by decide +kernel), rfl, rfl,
    alive rfl rfl (by decide +kernel), rfl, rfl⟩
  intro e he
  refine ⟨alive rfl rfl ?_, rfl, rfl⟩
  simp only [List.mem_cons, List.not_mem_nil, or_false] at he
  rcases he with rfl | rfl | rfl <;> decide +kernel

/-- A dirty line of the last register, and of the first. -/
def tDirty (k : Nat) : Team := T.markV k 0
theorem wit_StoresAndReplies_line : ∀ k ∈ [0, 63], Seated (tDirty k) ∧ Memory.wf (tDirty k).image = true ∧ (tDirty k).hasLine (.vector (32 * k)) = true ∧
    (tDirty k).isDirty (.vector (32 * k)) = true := by
  intro k hk
  simp only [List.mem_cons, List.not_mem_nil, or_false] at hk
  rcases hk with rfl | rfl <;> exact ⟨(settled (s := part _) rfl (by decide +kernel)).1, by decide +kernel⟩

/-- CourierAndPool: a copy from device memory to scratch whose last chunk is due, or but for it one more; one that is paused with its
fault resolved; a peer copy. -/
def copies (q : CopyReq) (s : State := part T) : State := s.modCore 0 fun c => { c with courier := [q] }
def lastChunk : CopyChunk := { row := 1, off := 0, len := 16, data := [] }
def faultOfCore (access : BitVec 3) (status : BitVec 2) : FaultEntry :=
  { vaddr := 0x2000, pc := 0x1000, lmask := 1, grid := 1, asn := 1, core := 0, tslot := 0, row := 0, access := access, level := 0, cause := 1,
    status := status, index := 4, team := 1, order := 0 }
def faulted (f : FaultEntry) (s : State := part T) : State := s.modDie 0 fun d => { d with faults := [f] }
def reaches (x : CopyPlace) (tg : Target) : Bool := match x with | .at a _ => decide (a = tg) | _ => false
theorem reached_at {x : CopyPlace} {tg : Target} (h : reaches x tg = true) : ∃ y, x = .at tg y := by
  rcases x with ⟨a, b⟩ | _ | _
  · exact ⟨b, by rw [of_decide_eq_true (show decide (a = tg) = true from h)]⟩
  · cases h
  · cases h
theorem copying (q : CopyReq) (h : (copies q).block? q.blk = some B) (h1 : ((copies q).grid? q.gid).bind (fun g => (copies q).proc? g.pid) = some firstProcess)
    (h2 : ((copies q).coreAt 0).courier = [q]) : Copying (copies q) 0 q B firstProcess :=
  ⟨by decide, by simp [h2], h, rfl, h1⟩
theorem wit_CourierAndPool : (∀ n ∈ [0, 16], Copying (copies (copyOf 0 n none)) 0 (copyOf 0 n none) B firstProcess) ∧
    (copyOf 0 16 none).paused = none ∧ (copyOf 0 16 none).fits lastChunk = true ∧ (copies (copyOf 0 16 none)).gridFrozen 1 = false ∧
    (copies (copyOf 0 16 none)).watches = [] ∧ (copies (copyOf 0 16 none)).soft = [] ∧ (copies (copyOf 0 16 none)).poison = [] ∧
    memoriesWf (copies (copyOf 0 16 none)) = true ∧ B.shadowOf = none ∧ B.sampled = false ∧ (copies (copyOf 0 16 none)).team? 1 = some T ∧
    (copyOf 0 16 none).kind.toNat ≤ 3 ∧ (copyOf 0 16 none).total ≤ 16 + lastChunk.len ∧ 0 + lastChunk.len < (copyOf 0 0 none).total ∧
    (∀ i, i < lastChunk.len → ∃ y, (copies (copyOf 0 16 none)).copyPlace B firstProcess (copyOf 0 16 none) (sourceSide 0) 0x2FE0 16 .load 1 (0 + i) =
      .at (.phys (0x21FF0 + i)) y) ∧
    (∀ i, i < lastChunk.len → ((∃ y, (copies (copyOf 0 16 none)).copyPlace B firstProcess (copyOf 0 16 none) (destSide 0) 0x400 64 .store 1 (0 + i) =
      .at (.scratch 2 (0x440 + i)) y) ∧ Writable (.scratch 2 (0x440 + i)) ∧ (∀ k, k < i → Target.scratch 2 (0x440 + k) ≠ .scratch 2 (0x440 + i)) ∧
      ∀ o, Target.scratch 2 (0x440 + i) = .scratch B.uid o → within o 0x40 16 = false)) := by
  refine ⟨?_, rfl, by decide +kernel, by decide +kernel, rfl, rfl, rfl, by decide +kernel, rfl, rfl, rfl, by decide, by decide, by decide, fun i hi => ?_, fun i hi => ?_⟩
  · intro n hn
    simp only [List.mem_cons, List.not_mem_nil, or_false] at hn
    rcases hn with rfl | rfl <;> exact copying _ rfl rfl rfl
  · exact reached_at ((by decide +kernel : ∀ i, i < 16 → reaches ((copies (copyOf 0 16 none)).copyPlace B firstProcess (copyOf 0 16 none) (sourceSide 0)
      0x2FE0 16 .load 1 (0 + i)) (.phys (0x21FF0 + i)) = true) i hi)
  · refine ⟨reached_at ((by decide +kernel : ∀ i, i < 16 → reaches ((copies (copyOf 0 16 none)).copyPlace B firstProcess (copyOf 0 16 none) (destSide 0)
      0x400 64 .store 1 (0 + i)) (.scratch 2 (0x440 + i)) = true) i hi), trivial, fun k hk h => ?_, fun o h => ?_⟩
    · injection h; omega
    · injection h with _ h
      subst h
      simp only [within, Bool.and_eq_false_iff, decide_eq_false_iff_not]
      omega
/-- A chunk from a peer. -/
def peerChunk : CopyChunk := { row := 1, off := 0, len := 16, data := List.replicate 16 7 }
theorem wit_CourierAndPool_peer : (copyOf 5 16 none).fits peerChunk = true ∧ (copyOf 5 16 none).kind = 5 ∧ peerChunk.data.length = peerChunk.len := by
  decide +kernel
theorem wit_CourierAndPool_faults : let q := copyOf 0 0 (some 4)
    Copying (faulted (faultOfCore 4 1) (copies q)) 0 q B firstProcess ∧ q.paused = some 4 ∧
    ((faulted (faultOfCore 4 1) (copies q)).dieAt 0).faults.find? (fun x => x.index == 4 && x.team == q.team && 4 ≤ x.access.toNat) = some (faultOfCore 4 1) ∧
    Copying (copies (copyOf 5 0 none)) 0 (copyOf 5 0 none) B firstProcess :=
  ⟨⟨by decide, rfl, rfl, rfl, rfl⟩, rfl, by decide +kernel, copying _ rfl rfl rfl⟩

/-- FaultsResolve: a pending entry; a deferred path whose entry is resolved, one of whose lanes has exited; a pass that has room again. -/
def path4 : PathEntry := { gmask := 0xFF, resv := 0, ftag := 4, kind := 1, pc := 0x1040 }
def tDeferred : Team := { T with run := .choosing none, stack := [path4] }
def sDeferred : State := faulted (faultOfCore 0 1) (part tDeferred)
def tQueueFull : Team := { T with run := .queueFull }
theorem wit_FaultsResolve : (faulted (faultOfCore 0 0)).pendingFault 0 4 = some (faultOfCore 0 0) ∧ (faulted (faultOfCore 0 0)).held (faultOfCore 0 0) = false ∧
    (faulted (faultOfCore 0 0)).restorePage (faultOfCore 0 0) = faulted (faultOfCore 0 0) ∧
    Alive sDeferred tDeferred ∧ sDeferred.moves tDeferred = true ∧ sDeferred.faultOf tDeferred path4.ftag = some (faultOfCore 0 1) ∧
    maskMinus path4.gmask tDeferred.retiredMask ≠ 0 ∧
    Alive (part tQueueFull) tQueueFull ∧ (part tQueueFull).moves tQueueFull = true ∧ faultRoom (part tQueueFull) (dieOf tQueueFull.core) 1 = true :=
  ⟨by decide +kernel, by decide +kernel, rfl, alive rfl rfl (by decide +kernel), by decide +kernel, by decide +kernel, by decide +kernel,
    alive rfl rfl (by decide +kernel), by decide +kernel, by decide +kernel⟩

/-- The path that is chosen stands on top, and no other deferred one below it. -/
theorem wit_FaultsResolve_top : tDeferred.run = .choosing none ∧ tDeferred.stack = [path4] ∧ path4.kind = 1 ∧ path4.resv = 0 ∧
    ({ tDeferred with stack := [path4, parked 0x1800 1] } : Team).stack.tail.head?.map PathEntry.kind = some 0 :=
  ⟨rfl, rfl, rfl, rfl, rfl⟩
/-- Lane 0 at the top of a mapped page, lane 2 at the start of the next, which nothing maps. -/
def tFaulting : Team := { tLanes with threads := tLanes.threads.map fun th => th.writeV 2 (if th.pos = 2 then 0x3000 else 0x2FF8) }
def ldPair : Instr := .ldVectorBase m0 62 2 lsPair
theorem wit_FaultsResolve_defer : Ready (part tFaulting) tFaulting ∧ (part tFaulting).procOf tFaulting = some firstProcess ∧
    maskMinus tFaulting.running 4 ≠ 0 ∧ faultRoom (part tFaulting) (dieOf tFaulting.core) 1 = true ∧ tFaulting.stack.length < 256 ∧
    (∀ e ∈ tFaulting.rq.toList, e.state ≠ 3) ∧ tFaulting.freeEntry = some 0 ∧
    ∃ f, RowLoad tFaulting ldPair f 0 ∧
      (∀ p, maskHas 4 p = true → maskHas (liveMask tFaulting) p = true ∧
        PageFaults (part tFaulting) tFaulting firstProcess (f.ea tFaulting p) f.l.bytes 0 0 ∧ (f.ea tFaulting p).toNat / 4096 = 3) ∧
      ∀ p, maskHas (maskMinus (liveMask tFaulting) 4) p = true →
        Places (part tFaulting) tFaulting .device .load (f.ea tFaulting p) f.l.bytes (.phys 0x21FF8) ∧
          Current (part tFaulting) tFaulting f.l (.phys 0x21FF8) :=
  ⟨ready rfl rfl (by decide +kernel), rfl, by decide +kernel, by decide +kernel, by decide +kernel, by decide +kernel, by decide +kernel,
    _, ⟨rfl, rfl, ⟨rfl, rfl, rfl⟩, both_lanes (by decide +kernel) rfl rfl⟩,
    lanes_of (l := [2]) (by decide +kernel) (fun p hp => by
      rw [List.mem_singleton] at hp; subst hp
      exact ⟨by decide +kernel, ⟨rfl, by decide +kernel, by decide +kernel⟩, by decide +kernel⟩),
    lanes_of (l := [0]) (by decide +kernel) (fun p hp => by
      rw [List.mem_singleton] at hp; subst hp
      exact ⟨place_of _ _ _ _ _ .load rfl rfl (by decide +kernel) (by unfold pageCached; decide +kernel), Or.inl rfl⟩)⟩

/-- MemoryService: the last range and the last core; no store within a range that waits; a sector that is populated; a node and routers. -/
def range1 : TransRange := { asn := 1, va := 0x2000, len := 4096 }
theorem wit_MemoryService : (part T).poison = [] ∧ (part T).soft = [] ∧
    ({ part T with invalidating := [range1] } : State).invalidating.contains range1 = true ∧ (∀ t ∈ (part T).teams, t.storesIn range1 = false) ∧
    (∀ c ∈ [432, 575], c < 576 ∧ dieOf c = 3) ∧ ((part T).proc? 1).isSome = true ∧
    (∀ b ∈ (part T).blocks, b.core = 575 → b.resident = false) ∧ 0x80000 % 0x10000 = 0 ∧
    (part T).populated (32 * 0) 32 = true ∧ (part T).poison.contains 0 = false ∧ (part T).siteOk (.sector 0) = true ∧
    (part T).siteOk (.scratch 2 0x1FFF) = true ∧ (part T).soft.contains (.scratch 2 0x1FFF) = false := by
  refine ⟨rfl, rfl, rfl, by decide +kernel, by decide, rfl, ?_, by decide, by decide +kernel⟩
  intro b hb h
  rw [show (part T).blocks = [B] from rfl, List.mem_singleton] at hb
  subst hb
  cases h

/-! Nodes, launches, admission, pre-emption, the end of teams, blocks and grids. -/

/-- A descriptor with bytes at an offset. -/
def edit (off : Nat) (bs : List Byte) (g : Grid) : Grid := { g with desc := g.desc.take off ++ bs ++ g.desc.drop (off + bs.length) }
def inFlight1 : PacketInFlight := { tree := 5, die := 0, core := 0, slot := 0, src := 0, packet := pkt1 }
def gService : Grid := { G with nodes := [node [.free, .free]], routers := [rtr], packets := [inFlight1] }
theorem wit_MemoryService_nodes : (part T B gService).grid? 1 = some gService ∧ 0 < gService.nodes.length ∧ gService.packets[0]? = some inFlight1 ∧
    gService.isOldest 0 inFlight1 = true ∧ gService.routerAt 5 0 0 = some rtr ∧ slotTaken rtr.now 0 = false ∧
    (gRouter rtrFull).routers.find? (fun r => r.tree == 5 && r.core == 0) = some rtrFull ∧ rtrFull.now.any Option.isSome = true :=
  by decide +kernel

def relayed : Relay :=
  { pentry := 0x1100, chst := 0x2100, reca := 0x2200, steps := 4, level := 0, mutDesc := 0, waiting := [], since := 0,
    closed := [{ proposals := [{ chain := 5, step := 1, source := [], kind := 0, badSplice := false, settled := false }], byAge := false, order := 3 }],
    running := [] }
/-- A built-in node whose open slot holds a proposal; a router with no result that waits. -/
def waiting1 : Proposal := { chain := 6, step := 1, source := [], kind := 0, badSplice := false, settled := false }
theorem wit_MemoryService_age : let g := { gService with relay := some { relayed with waiting := [waiting1], since := 9 } }
    (part T B g).grid? 1 = some g ∧ g.relay = some { relayed with waiting := [waiting1], since := 9 } ∧ [waiting1] ≠ [] ∧ rtrFull.out = none :=
  ⟨rfl, rfl, by decide, rfl⟩
/-- The sector of lane 2 is uncorrectable, that of lane 0 is not. -/
def tFar : Team := { tLanes with threads := tLanes.threads.map fun th => th.writeV 2 (BitVec.ofNat 32 (0x2000 + 16 * th.pos)) }
def gStrict : Grid := edit 0x01F [4] G
theorem wit_MemoryService_consume (g : Grid) (hg : g = G ∨ g = gStrict) : Ready (part tFar B g) tFar ∧ tFar.isGrid = true ∧
    (part tFar B g).isStrict tFar = decide (g = gStrict) ∧ TakesTraps (part tFar B g) tFar g ∧
    ∃ f, RowLoad tFar ldPair f 0 ∧ (∀ p, maskHas (liveMask tFar) p = true →
        Places (part tFar B g) tFar .device .load (f.ea tFar p) f.l.bytes (.phys (0x21000 + 16 * p)) ∧
        Current (part tFar B g) tFar f.l (.phys (0x21000 + 16 * p)) ∧
        ∀ pr, (part tFar B g).procOf tFar = some pr → ∀ a ∈ (part tFar B g).walkReadsFrom ((f.ea tFar p).toNat % 2 ^ 57) 5 pr.root,
          [0x1081].contains (a / 32) = false) ∧
      lowestLane (filterMask (liveMask tFar) fun p => [0x1081].contains ((0x21000 + 16 * p) / 32)) = some 2 ∧
      maskMinus tFar.running (filterMask (liveMask tFar) fun p => [0x1081].contains ((0x21000 + 16 * p) / 32)) ≠ 0 := by
  have hw : ∀ g : Grid, (g = G ∨ g = gStrict) → ∀ p ∈ [0, 2], ∀ pr, (part tFar B g).procOf tFar = some pr →
      ∀ a ∈ (part tFar B g).walkReadsFrom ((0x2000 + 16 * p) % 2 ^ 57) 5 pr.root, [0x1081].contains (a / 32) = false := by
    intro g hg p hp pr hpr
    have h1 : (part tFar B g).procOf tFar = some firstProcess := by rcases hg with rfl | rfl <;> rfl
    rw [h1] at hpr
    cases hpr
    exact (by decide +kernel : ∀ p ∈ [0, 2], ∀ a ∈ part0.walkReadsFrom ((0x2000 + 16 * p) % 2 ^ 57) 5 firstProcess.root, [0x1081].contains (a / 32) = false) p hp
  rcases hg with rfl | rfl <;>
  exact ⟨ready rfl rfl (by decide +kernel), rfl, by decide +kernel, ⟨rfl, by decide +kernel, rfl, rfl, rfl⟩,
    _, ⟨rfl, rfl, ⟨rfl, rfl, rfl⟩, both_lanes (by decide +kernel) rfl rfl⟩,
    both_lanes (by decide +kernel)
      ⟨place_of _ _ _ _ _ .load rfl rfl (by decide +kernel) (by unfold pageCached; decide +kernel), Or.inl rfl, hw _ (by simp) 0 (by simp)⟩
      ⟨place_of _ _ _ _ _ .load rfl rfl (by decide +kernel) (by unfold pageCached; decide +kernel), Or.inl rfl, hw _ (by simp) 2 (by simp)⟩,
    by decide +kernel, by decide +kernel⟩

/-- Launching: a call that fails its fields, one with a Relay that is not well formed, one that passes; its process known and not known. -/
def sBooted : State := { part T with hub := { (part T).hub with booted := true } }
def callOf (pid : Nat) (desc : List Byte) : LaunchCall :=
  { pid := pid, tid := 3, asn := 1, root := 0x10000, peers := [], dumpPolicy := 0, queue := 15, desc := desc, debugged := false }
def run1 : RunCommand := { call := callOf 1 firstDesc, place := [(0, 0)], params := [{ offset := 124, kind := .float, value := 7 }] }
theorem wit_Launching : sBooted.hub.booted = true ∧ sBooted.poison = [] ∧ ((sBooted.callProcess (callOf 1 firstDesc)).proc? 1).isSome = true ∧
    ((sBooted.callProcess (callOf 2 firstDesc)).proc? 2).isSome = true ∧
    (newGrid 2 (callOf 1 firstDesc) []).fieldsOk = true ∧ (newGrid 2 (callOf 1 []) []).fieldsOk = false ∧
    run1.params.all paramOk = true ∧ sBooted.placementOk (newGrid 2 { run1.call with debugged := true } run1.place) = true := by
  decide +kernel
def relayDesc : List Byte := (edit 0x040 (leBytes 8 0x2001) G).desc
theorem readVirt_head (s : State) (p : Process) (va : Nat) :
    ∃ rest, s.readVirtNat p va 64 = ((s.readVirt p va 1).headD 0).toNat + 256 * rest :=
  ⟨_, by
    rw [State.readVirtNat, State.readVirt, State.readVirt, show List.range 64 = 0 :: (List.range 63).map Nat.succ from rfl, List.map_cons, leNat, show List.range 1 = [0] from rfl,
      List.map_cons, List.headD_cons]⟩
theorem relay_bad {x : Nat} (h : x % 4 = 1) : relayOk x = false := by
  have : (fieldAt x 0 8 % 4 == 0) = false := by
    rw [fieldAt]; simp only [beq_eq_false_iff_ne, ne_eq]; omega
  simp [relayOk, this]
theorem wit_Launching_relay : (newGrid 2 (callOf 1 relayDesc) []).relayA ≠ 0 ∧
    relayOk (sBooted.readVirtNat firstProcess (newGrid 2 (callOf 1 relayDesc) []).relayA.toNat 64) = false := by
  have ha : (newGrid 2 (callOf 1 relayDesc) []).relayA = 0x2001 := by decide +kernel
  rw [ha]
  refine ⟨by decide, relay_bad ?_⟩
  obtain ⟨r, h⟩ := readVirt_head sBooted firstProcess (0x2001 : Double).toNat
  have h1 : ((sBooted.readVirt firstProcess (0x2001 : Double).toNat 1).headD 0).toNat = 1 := by decide +kernel
  rw [h, h1]; omega
def oneWindow : Process := { firstProcess with windows := [(0, [0])] }
def sWindow : State := { sBooted with procs := [oneWindow] }
theorem wit_Launching_check : (match sWindow.checkLaunch oneWindow (newGrid 2 (callOf 1 firstDesc) []) with | .ok _ => true | .error _ => false) = true ∧
    (match sWindow.checkLaunch oneWindow (newGrid 2 (callOf 1 []) []) with | .ok _ => false | .error _ => true) = true :=
  ⟨by decide +kernel, by decide +kernel⟩

/-- Admission: the second block of a grid of four; the shadow of a sampled one; a node's batch and the Relay's; a due handler. Its places
are those of one team, in pages that nothing maps yet. -/
def places1 : Placement :=
  { imgas := [0x1000040000000], spills := [0x1000050000000], logs := (List.range 32).map fun i => BitVec.ofNat 64 (0x1000060000000 + 0x100000 * i),
    bimga := 0x1000070000000 }
/-- Of an address from 2^48 to 2^49 the root table's second entry says that nothing maps it. -/
theorem walk_unmapped {s : State} {root va : Nat} (h : Memory.readNat s.mem (root + 8) 8 % 2 = 0) (h1 : 2 ^ 48 ≤ va) (h2 : va < 2 ^ 49) :
    s.walk root va = .fault 0 4 := by
  have hb : bitsOf (va % 2 ^ 57) 56 48 = 1 := by unfold bitsOf; omega
  rw [State.walk, State.walkFrom]
  simp only [hb, h, Nat.mul_one, if_true]
theorem placed_ok {s : State} {g : Grid} {core n ngrp : Nat} {p : Placement} {pr : Process} (hp : s.proc? g.pid = some pr)
    (h : Memory.readNat s.mem (pr.root + 8) 8 % 2 = 0)
    (hr : (g.placeRegions ngrp p).all (fun r => decide (2 ^ 48 ≤ r.1 ∧ r.1 % 4096 + r.2 ≤ 2 ^ 40 ∧ r.1 ≤ 2 ^ 48 + 2 ^ 40)) = true)
    (hs : (p.imgas.length == n && p.spills.length == n && p.logs.length == n * 32 * ngrp && (p.bimga :: p.imgas).all (fun a => a.toNat % 4096 == 0) &&
      p.logs.all (fun a => a.toNat % 64 == 0) && (p.bimga :: (p.imgas ++ p.spills ++ p.logs)).all canonical &&
      noOverlap (g.placeRegions ngrp p ++ s.regions g.pid)) = true) : s.placeOk g core n ngrp p = true := by
  rw [State.placeOk, hs, hp, Bool.true_and, List.all_eq_true]
  intro r hin
  obtain ⟨h1, h2, h3⟩ := of_decide_eq_true (List.all_eq_true.mp hr r hin)
  rw [State.nearOn, List.all_eq_true]
  intro i hi
  rw [List.mem_range] at hi
  rw [State.engineAddr, walk_unmapped h (by omega) (by omega)]
def gFour : Grid := edit 0x010 (leBytes 4 4) G
def gBatch : Grid := { edit 0x010 (leBytes 4 4) G with admitted := 4, nodes := [node [.closed 3 false 5 0, .free]] }
def gProposal : Grid := { edit 0x010 (leBytes 4 4) G with admitted := 4, relay := some relayed }
def dueOne : HandlerDue :=
  { dead := 1, slot := 31, tag := 99, heirless := true, number := 0, holding := slotOf kindPromise 0x2040, needCore := none, needDie := none,
    estate := vput (Vector.replicate 32 (.free 1)) 31 (slotOf kindPromise 0x2040) }
def gDue : Grid := { edit 0x060 (leBytes 8 0x1900) (edit 0x010 (leBytes 4 4) G) with admitted := 4, handlersDue := [dueOne] }
theorem wit_Admission_fresh : (part T B gFour).grid? 1 = some gFour ∧ (part T B gFour).placeOk gFour 575 gFour.teams gFour.ngrp places1 = true ∧
    (part T B gFour).offered gFour 575 2 = true ∧ (part T B gFour).freshFits gFour 575 = true :=
  ⟨rfl, placed_ok rfl (by decide +kernel) (by decide +kernel) (by decide +kernel), by decide +kernel, by decide +kernel⟩
theorem wit_Admission_shadow : let b : Block := { B with sampled := true }
    (part T b gFour).placeOk gFour 5 gFour.teams gFour.ngrp places1 = true ∧ (part T b gFour).offered gFour 5 2 = true ∧ 0 ≠ gFour.admitted ∧
    (part T b gFour).shadowDue gFour 0 = some b ∧ 5 ≠ b.core ∧ (part T b gFour).admits gFour 5 gFour.askBlock = true :=
  ⟨placed_ok rfl (by decide +kernel) (by decide +kernel) (by decide +kernel), by decide +kernel⟩
theorem wit_Admission_batch : (part T B gBatch).placeOk gBatch 0 1 gBatch.ngrp places1 = true ∧ (part T B gBatch).offered gBatch 0 1 = true ∧
    (part T B gBatch).admits gBatch 0 gBatch.askTeam = true ∧ (gBatch.firstBatch.any fun x => (part T B gBatch).batchTurn gBatch x 0) = true ∧
    (gProposal.firstBatch.any fun x => (part T B gProposal).batchTurn gProposal x 0) = true ∧
    (part T B gProposal).placeOk gProposal 0 1 gProposal.ngrp places1 = true ∧
    (part T B gProposal).offered gProposal 0 1 = true ∧ (part T B gProposal).admits gProposal 0 gProposal.askTeam = true ∧
    (gProposal.firstBatch.any fun x => (gProposal.nodes[x.node]?).isNone && (relayed.closed[x.slot]?).isSome) = true ∧
    (gBatch.firstBatch.any fun x => (gBatch.nodes[x.node]?).isSome) = true ∧
    (part T B gBatch).handlersBefore gBatch 0 = false ∧ (part T B gProposal).handlersBefore gProposal 0 = false :=
  ⟨placed_ok rfl (by decide +kernel) (by decide +kernel) (by decide +kernel), by decide +kernel, by decide +kernel, by decide +kernel, by decide +kernel,
    placed_ok rfl (by decide +kernel) (by decide +kernel) (by decide +kernel), by decide +kernel⟩
theorem wit_Admission_handler : (part T B gDue).placeOk gDue 0 1 1 places1 = true ∧ (part T B gDue).offered gDue 0 1 = true ∧
    (part T B gDue).admits gDue 0 gDue.askTeam = true ∧ gDue.handlersDue.find? (fun h => h.mayGo 0) = some dueOne ∧ (part T B gDue).team? dueOne.dead = some T ∧
    (part T B gDue).handlersBefore gDue 0 = false ∧ (part T B gDue).batchesBefore gDue 0 = false :=
  ⟨placed_ok rfl (by decide +kernel) (by decide +kernel) (by decide +kernel), by decide +kernel, by decide +kernel, by decide +kernel, rfl,
    by decide +kernel, by decide +kernel⟩

/-- Preemption: a grid of a higher priority that only core 0 could take, and does not fit; teams that are done; a block that is off its core. -/
def gSaves : Grid := edit 0x050 (leBytes 8 0x1400 ++ leBytes 8 0x1500) (edit 0x01E [0] G)
def gHigh : Grid := { edit 0x01C [16, 8, 5] (edit 0x018 (leBytes 4 0xFFFF00) G) with gid := 7, admitted := 0, place := [(0, 0)] }
def sPre (t : Team) (b : Block) : State := { part t b with grids := [gSaves, gHigh] }
def bPre : Block := { B with preempting := true, saving := true }
def bOff : Block := { B with resident := false, saveAssigned := true }
theorem wit_Preemption : (sPre T B).grid? 1 = some gSaves ∧ (sPre T B).block? 2 = some B ∧ gSaves.gang = false ∧ B.saving = false ∧
    (∀ x ∈ (sPre T B).blocks, x.preempting = false) ∧ (sPre T B).hasCopies B = false ∧ (sPre T B).yields B = true ∧
    (sPre T B).starved gSaves.prio = true ∧ (sPre T B).lastIn gSaves B = true ∧ gSaves.saveh ≠ 0 ∧
    (sPre T bPre).contextsDone bPre = true ∧ (sPre T bPre).hasCopies bPre = false ∧
    (part T bOff gSaves).resumeFits gSaves bOff 143 = true ∧ (part T bOff gSaves).offered gSaves 143 0 = true ∧ gSaves.resth ≠ 0 ∧
    (sPre T { B with resuming := true }).contextsDone { B with resuming := true } = true := ⟨rfl, rfl, by decide +kernel⟩
/-- The save area that the first pre-emption assigns, in pages that nothing maps; teams that have nothing to finish. -/
def call1 : PreemptCall := { block := 2, saves := [(2, 0x1000071000000)] }
theorem wit_Preemption_saves : (sPre T B).savesOk gSaves [B] call1.saves = true ∧ call1.block = B.uid ∧
    ∀ t ∈ (sPre T B).teams, t.run ≠ .queueFull ∧ (∀ l, t.run ≠ .wholePath l) ∧ t.mustFinish = none := by
  refine ⟨?_, rfl, fun t ht => ?_⟩
  · rw [State.savesOk]
    have hp : (sPre T B).proc? gSaves.pid = some firstProcess := rfl
    rw [hp]
    simp only [Bool.and_eq_true]
    refine ⟨by decide +kernel, ?_⟩
    rw [show ([B].filter fun b => !b.saveAssigned).filterMap (fun b => (call1.saves.lookup b.uid).map fun a => (a.toNat, b.scrsz)) =
      [(0x1000071000000, 0x8000)] from by decide +kernel]
    simp only [List.all_cons, List.all_nil, Bool.and_true]
    rw [State.nearOn, List.all_eq_true]
    intro i hi
    rw [List.mem_range] at hi
    rw [State.engineAddr, walk_unmapped (by decide +kernel) (by omega) (by omega)]
  · rw [show (sPre T B).teams = [T] from rfl, List.mem_singleton] at ht
    subst ht
    exact ⟨by decide, nofun, rfl⟩
theorem wit_Preemption_team : Single (sPre T B) T ∧ T.blk = B.uid :=
  ⟨⟨List.mem_singleton.mpr rfl, rfl, fun _ h _ => List.mem_singleton.mp h⟩, rfl⟩

/-- Conveyances: a dead team whose only holding is a promise in the estate's last slot, for an heir named by tag and for none; one with
nothing; one whose conveyance a fault has stopped, at a slot and at the waited lock. -/
def tDead (hkind : BitVec 2) : Team :=
  { T with cause := 2, estate := vput T.estate 31 { slotOf kindPromise 0x2040 with hkind := hkind, htag := 9, quiet := true } }
def tHeir : Team := { T with uid := 50, tag := 9 }
def gConv (fault : Option (BitVec 12 × Nat)) : Grid := { edit 0x014 [2] G with conveying := [{ team := 1, fault := fault }] }
def sConv (hkind : BitVec 2) (fault : Option (BitVec 12 × Nat)) : State :=
  { part (tDead hkind) B (gConv fault) with teams := [tDead hkind, tHeir] }
def eConv (hkind : BitVec 2) : EstateSlot := Estate.slot (tDead hkind).estate 31
def heirs (hkind : BitVec 2) : Option Heir :=
  ((sConv hkind none).heirOf (gConv none) (tDead hkind) (eConv hkind)).filter fun h => (sConv hkind none).acceptable (gConv none) (tDead hkind) (eConv hkind) h
theorem wit_Conveyances : (sConv 0 none).grid? 1 = some (gConv none) ∧ (gConv none).conveying.head? = some { team := 1, fault := none } ∧
    (sConv 0 none).team? 1 = some (tDead 0) ∧ (sConv 0 none).gridFrozen 1 = false ∧ (tDead 0).run = .ready ∧ (tDead 0).cause ≠ 0 ∧
    Estate.last (tDead 0).estate = some 31 ∧ Estate.last T.estate = none ∧
    Estate.last (Estate.release (tDead 0).estate 31 ((sConv 0 none).heirKind (tDead 0))) = none ∧ (eConv 0).kind = 2 ∧
    (sConv 0 none).procOf (tDead 0) = some firstProcess ∧
    (match (sConv 0 none).wordPlace firstProcess (eConv 0).addr with | .ok tg => decide (tg = .phys 0x21040) | .error _ => false) = true ∧
    (sConv 0 none).poison = [] ∧ (sConv 0 none).soft = [] ∧ Memory.wf (sConv 0 none).mem = true ∧ (heirs 3).isNone = true ∧ (eConv 3).quiet = true :=
  ⟨rfl, rfl, rfl, by decide +kernel⟩
theorem wit_Conveyances_sole : ∀ u ∈ (sConv 0 none).teams, u.uid = (tDead 0).uid → u = tDead 0 := by
  intro u hu h
  rw [show (sConv 0 none).teams = [tDead 0, tHeir] from rfl, List.mem_cons, List.mem_singleton] at hu
  rcases hu with rfl | rfl
  · rfl
  · exact absurd h (by decide)
theorem wit_Conveyances_heir : heirs 0 = some (.team tHeir) ∧ (sConv 0 none).team? tHeir.uid = some tHeir ∧ tHeir.cause = 0 := ⟨rfl, rfl, rfl⟩
theorem wit_Conveyances_fault : ∀ f ∈ [faultOfCore 1 0, faultOfCore 1 1, faultOfCore 1 2],
    ((faulted f (sConv 0 (some (4, 32)))).faultOf (tDead 0) 4 = some f ∧ (gConv (some (4, 31))).conveying.head? = some { team := 1, fault := some (4, 31) }) := by
  intro f hf
  simp only [List.mem_cons, List.not_mem_nil, or_false] at hf
  rcases hf with rfl | rfl | rfl <;> exact ⟨by decide +kernel, rfl⟩

/-- Completion: a sampled block and its shadow, with equal digests and with others; a block and a grid that are over; a frozen team. -/
def tDigest : Team := waits .digest
def bSampled : Block := { B with sampled := true, digest := 5 }
def bShadow (d : BitVec 128) : Block := { B with uid := 80, shadowOf := some 2, digest := d }
def sDigest (d : BitVec 128) (g : Grid := G) : State := { part tDigest bSampled g with blocks := [bSampled, bShadow d] }
theorem wit_Completion_digest : (sDigest 5).grid? 1 = some G ∧ (sDigest 5).block? 2 = some bSampled ∧ ((sDigest 5).atDigest bSampled).isSome = true ∧
    (sDigest 5).team? 1 = some tDigest ∧ (sDigest 5).blocks.find? (fun x => x.shadowOf == some 2) = some (bShadow 5) ∧ (sDigest 5).moves tDigest = true ∧
    (sDigest 5).blockOver (bShadow 5) = true ∧ (sDigest 5).hasCopies bSampled = false ∧ bSampled.digestDone = false ∧ (bShadow 5).mismatch = false ∧
    bSampled.digest = (bShadow 5).digest ∧
    bSampled.digest ≠ (bShadow 6).digest ∧ (edit 0x01F [4] G).strict = true ∧ G.strict = false ∧ (sDigest 6 (edit 0x01F [4] G)).isShadow tDigest = false ∧
    tDigest.aside = none ∧ tDigest.frame.active = 0 ∧ (edit 0x01F [4] G).traph ≠ 0 :=
  ⟨rfl, rfl, by decide +kernel, rfl, by decide +kernel⟩
def tOver : Team := { T with cause := 1 }
def bOver : Block := { B with published := true }
theorem wit_Completion_over : (part tOver bOver).grid? 1 = some G ∧ (part tOver bOver).block? 2 = some bOver ∧ (part tOver bOver).blockOver bOver = true ∧
    bOver.index < G.count ∧ (bOver.sampled = true → bOver.digestDone = true) ∧ ({ bOver with sampled := true, digestDone := true } : Block).digestDone = true ∧
    ((part tOver bOver).proc? G.pid).isSome = true ∧ ({ B with index := 0x80000000 } : Block).index ≥ G.count ∧
    (part tOver { B with index := 0x80000000 }).blockOver { B with index := 0x80000000 } = true ∧
    ({ G with completions := [0] } : Grid).over = true := by
  decide +kernel
def tFrozen : Team := { T with run := .frozen }
def sFrozen : State := { part tFrozen with hub := { (part tFrozen).hub with dumpQueue := [1, 3] } }
theorem wit_Completion_dump : sFrozen.team? tFrozen.uid = some tFrozen ∧ sFrozen.hub.dumpQueue = tFrozen.uid :: [3] ∧ tFrozen.run = .frozen ∧
    sFrozen.gridOf tFrozen = some G ∧ sFrozen.blockOf tFrozen = some B ∧ sFrozen.procOf tFrozen = some firstProcess := ⟨rfl, rfl, rfl, rfl, rfl, rfl⟩

/-- OptimiserStep: just 256 filled slots. -/
def sample1 : SampleSlot := { emptySample with state := .filled }
def tap : Tapster := { (part0.dieAt 3).tapster with budget := 1, loaded := true, slots := (List.range 256).map fun k => (k, sample1) }
theorem wit_OptimiserStep : tap.budget ≠ 0 ∧ tap.loaded = true ∧ ((filledSlots tap).take 256).length = 256 := by
  refine ⟨by decide, rfl, ?_⟩
  have h1 : List.range 65536 = List.range 256 ++ (List.range 65280).map (256 + ·) := List.range_add (n := 256) (m := 65280)
  have h2 : (((List.range 256).map fun i => (tap.consume + i) % 65536).filter fun k => (tap.slot k).state == .filled).length = 256 := by decide +kernel
  rw [List.length_take, filledSlots, h1, List.map_append, List.filter_append, List.length_append, h2]
  omega

theorem wit_OptimiserStep_region : RegionPlaced (inRegion 3 (part T)) 3 ∧ (inRegion 3 (part T)).soft = [] := ⟨⟨575, 0, by decide +kernel⟩, rfl⟩

/-- Management: a request without and one with a signature; each end of the power limit; a dump to retrieve; code 0 and code 9. -/
def datagram (flags : Byte) (body : List Byte) : Datagram :=
  { magic := 0x534D4347, flags := flags, len := BitVec.ofNat 16 body.length, seq := 1, body := body, sig := List.replicate 114 0 }
theorem wit_Management : Unsigned (datagram 0 (List.replicate 32 0)) ∧ (datagram 0 (List.replicate 32 0)).body.length = 32 ∧
    (∀ b ∈ [[0, 0], [1, 0], [0xB0, 4], [0x28, 0x0A], [0xAF, 4], [0x29, 0x0A]], Signed sBooted (datagram 1 b)) ∧ sBooted.hub.booted = true ∧
    leNat [0xB0#8, 4#8] = 1200 ∧ leNat [0x28#8, 0x0A#8] = 2600 ∧ leNat [0xAF#8, 4#8] < 1200 ∧ 2600 < leNat [0x29#8, 0x0A#8] ∧ sBooted.hub.applying = [] := by
  refine ⟨⟨by decide +kernel, by decide +kernel⟩, by decide, ?_, rfl, by decide, by decide, by decide, by decide, by decide +kernel⟩
  intro b hb
  simp only [List.mem_cons, List.not_mem_nil, or_false] at hb
  rcases hb with rfl | rfl | rfl | rfl | rfl | rfl <;> exact ⟨by decide +kernel, by decide +kernel, by decide +kernel, by decide +kernel⟩

/-- A limit that is being applied; a dump of the grid and none; a sequence that is not new; a reset of each kind without a signature. -/
theorem wit_Management_refused : ({ sBooted.hub with applying := [3] } : Hub).applying ≠ [] ∧
    ({ sBooted.hub with dumps := [{ gid := 1, bytes := [] }] } : Hub).dumps.find? (fun d => d.gid == leNat [2#8]) = none ∧
    (({ sBooted.hub with dumps := [{ gid := 1, bytes := [] }] } : Hub).dumps.find? (fun d => d.gid == leNat [1#8])).isSome = true ∧
    (∀ b ∈ [[0], [1], [0xB0, 4]], isRequest (datagram 1 b) = true ∧ isSigned (datagram 1 b) = true ∧ (datagram 1 b).sig.length = 114 ∧
      (datagram 1 b).seq ≤ ({ sBooted.hub with lastSeq := 1 } : Hub).lastSeq) ∧
    leNat [0#8] = 0 ∧ leNat [1#8] = 1 ∧ Unsigned (datagram 0 [0]) ∧ Unsigned (datagram 0 [1]) :=
  ⟨by decide +kernel, by decide +kernel, by decide +kernel, by decide +kernel, by decide, by decide, ⟨by decide +kernel, by decide +kernel⟩,
    ⟨by decide +kernel, by decide +kernel⟩⟩

/-- ResetsAndHeat: one above 105 °C and 115 °C in the unit of R309, temperatures at the ends of each range. -/
def boot1 : BootFetch := { image := none, farPorts := 1, sysRate := 1, lmRate := 1, rcBases := [0, 0x10000, 0x023C0000, 0] }
theorem wit_ResetsAndHeat : bootOk boot1 = true ∧ (part T).hub.booted = false ∧ ({ (part T).hub with romRan := true } : Hub).booted = false ∧
    (part T).hub.throttling = none ∧ ({ (part T).hub with throttling := some 3 } : Hub).throttling.isSome = true ∧
    (part T).hub.commanded.toNat = 2600 ∧ (part T).hub.effective.toNat = 2600 := by decide +kernel
def heats (l : List Nat) (p : Int → Bool) : Bool := (l.map fun n => (BitVec.ofNat 16 n).toInt).all p
theorem wit_ResetsAndHeat_degrees : heats [841] (fun x => 840 < x) = true ∧ heats [840, 760, 0, 0xFFFF] (fun x => x ≤ 840) = true ∧
    heats [760] (fun x => 760 ≤ x) = true ∧ heats [759, 0, 0, 0x8000] (fun x => x < 760) = true ∧ heats [920] (fun x => 920 ≤ x) = true :=
  by decide +kernel

/-- StopsAndSteps: a watchpoint that is well formed and one that is not; a hit; a notice of each kind; a stopped team, in focus and not. -/
def gDebug : Grid := { G with debugged := true }
def tStopped : Team := { T with stop := some { reason := 0, skid := [], exact := true, kept := none, row := none } }
def hit1 : WatchHit := { home := 0, team := 1, index := 2, vaddr := 0x2004, pc := 0x1008, word := 0x400, lit := 0, homes := 8, after := 7 }
def notice (resume : Bool) : Notice := { gid := 1, resume := resume, since := none }
def command (space : BitVec 2) (core : Option Nat) : WatchCommand :=
  { gid := 1, space := space, addr := 0x100, die := none, core := core, len := 16, kinds := 3, bcast := 1 }
def sHit (g : Grid) : State := { part T B g with hits := [hit1] }
theorem wit_StopsAndSteps_hits : (∀ g, (sHit g).hits = [hit1] ∧ (sHit g).team? hit1.team = some T) ∧ T.cause = 0 ∧
    (sHit G).gridOf T = some G ∧ (sHit gDebug).gridOf T = some gDebug ∧ (sHit G).moves T = true ∧ T.run = .ready ∧ T.replay = [] ∧ TakesTraps (sHit G) T G ∧ ∀ u ∈ (sHit G).teams, u.uid = T.uid → u = T :=
  ⟨fun _ => ⟨rfl, rfl⟩, rfl, rfl, rfl, by decide +kernel, rfl, rfl, ⟨rfl, by decide +kernel, rfl, rfl, rfl⟩, fun _ h _ => List.mem_singleton.mp h⟩
/-- StopsAndSteps, the prompt: nothing outstanding; a `continue` that has not returned, with a team that runs, one that waits, one that has
stopped. -/
def sPrompt (t : Team) : State := { part t B gDebug with prompting := [1] }
theorem wit_StopsAndSteps_prompt : (part T B gDebug).prompting.contains 1 = false ∧ (sPrompt T).prompting.contains 1 = true ∧
    (sPrompt T).returnsToPrompt gDebug = false ∧ (sPrompt tStopped).returnsToPrompt gDebug = true ∧
    (sPrompt (waits (.gbar 0))).returnsToPrompt gDebug = true ∧ ((sPrompt (waits (.gbar 0))).waitsOn (waits (.gbar 0))).isSome = true := by
  decide +kernel
theorem wit_StopsAndSteps : watchOk (watchValue (command 0 (some 3)) 4) = true ∧ (∃ v, watchOk v = false) ∧
    T.frame.active = 0 ∧ T.aside = none ∧
    (∀ r ∈ [true, false], [notice r].find? (fun n => n.resume == r) = some (notice r)) ∧ gDebug.debugged = true ∧
    Stopped (part tStopped B gDebug) tStopped ∧ tStopped.focus ≠ some true ∧ 31 < tStopped.threads.length ∧ maskHas tStopped.running (tStopped.thread 31).pos = true ∧
    tStopped.stack.length < 256 ∧ (namedRefs (.v 63) [0, 31]).all (regExists tStopped) = true ∧ tStopped.awaits (namedRefs (.v 63) [0, 31]) = false ∧
    ({ loading false with stop := tStopped.stop } : Team).awaits (namedRefs (.s 63) []) = true :=
  ⟨by decide +kernel, ⟨BitVec.allOnes 128, by decide +kernel⟩, rfl, rfl, by decide +kernel, rfl, ⟨rfl, rfl, rfl⟩, by decide +kernel⟩

/-- A team that owes a replay, and one in focus. -/
def tOwes : Team := { tStopped with replay := [{ slot := none, entry := .free, denied := [], rte := false, again := false }] }
theorem wit_StopsAndSteps_focus : Stopped (part tOwes B gDebug) tOwes ∧ tOwes.run = .ready ∧ tOwes.focus = none ∧ tOwes.replay ≠ [] ∧
    maskHas tOwes.running (tOwes.thread 31).pos = true ∧ 31 < tOwes.threads.length ∧ tStopped.run = .ready ∧ tStopped.replay = [] ∧
    (∀ a ∈ [true, false], Stopped (part { tStopped with focus := some a } B gDebug) { tStopped with focus := some a }) :=
  ⟨⟨rfl, rfl, rfl⟩, rfl, rfl, by decide, by decide +kernel, by decide +kernel, rfl, rfl, fun _ _ => ⟨rfl, rfl, rfl⟩⟩

/-- DebuggerWrites: no entry pending and one; a running process; a page to evict; each space of a watchpoint, before and after admission. -/
def sEmpty : State := { part T with teams := [] }
theorem wit_DebuggerWrites : (part T).pendingOf 1 = [] ∧ (faulted (faultOfCore 0 0)).pendingOf 1 = [(4, 0)] ∧
    (∃ t ∈ (part T).teams, t.cause = 0 ∧ t.stop = none ∧ ∃ p, (part T).procOf t = some p ∧ p.pid = 1) ∧
    sEmpty.leafSlot firstProcess 0x2000 = some 0x14010 ∧ Memory.readNat sEmpty.mem 0x14010 8 % 2 = 1 ∧ sEmpty.poison = [] ∧ sEmpty.soft = [] ∧
    sEmpty.malformed (Memory.readNat sEmpty.mem 0x14010 8) 0 0x2000 = false ∧ (part T).grid? 9 = none ∧
    powerOfTwo 16 = some 4 ∧ watchHome (command 0 (some 575)) = some 575 ∧ (watchHome (command 1 (some 7))).isSome = true ∧
    (∀ c ∈ [command 0 (some 575), command 1 none, command 1 (some 7), command 2 none], watchCoresOk c = true ∧ c.addr.toNat % c.len = 0 ∧ c.kinds ≠ 0) ∧
    ({ gDebug with admitted := 0 } : Grid).admitted = 0 ∧ gDebug.admitted ≠ 0 ∧ ((part T B gDebug).freeWatch 575).isSome = true ∧
    ((part T B gDebug).coreAt 0).freeBreak = some 0 ∧ (0 ∈ (part T B gDebug).gridCores 1 ∧ 575 ∉ (part T B gDebug).gridCores 1) ∧
    (∀ n ∈ (part T B gDebug).gridCores 1, ((part T B gDebug).coreAt n).freeBreak.isSome = true) :=
  ⟨by decide +kernel, by decide +kernel, ⟨T, List.mem_singleton.mpr rfl, rfl, rfl, firstProcess, rfl, rfl⟩, by decide +kernel⟩
/-- An address of device memory has its home at a commons of the die named. -/
def onDevice : WatchCommand := { command 2 none with addr := BitVec.ofNat 64 (143 * 2 ^ 18 + 0x100), die := some 3 }
theorem wit_DebuggerWrites_device : watchHome onDevice = some 575 ∧ watchCoresOk onDevice = true ∧ onDevice.die.isSome = true := by decide +kernel
/-- An entry of a page that is mapped, and one of a page that is not, which a populated page frame and no other can map. -/
def fault3 : FaultEntry := { faultOfCore 0 0 with vaddr := 0x3000 }
theorem wit_DebuggerWrites_resolve : (faulted (faultOfCore 0 0)).pendingFault 0 4 = some (faultOfCore 0 0) ∧
    (faulted (faultOfCore 0 0)).faultProc (faultOfCore 0 0) = some firstProcess ∧
    (faulted (faultOfCore 0 0)).engineAddr firstProcess (faultOfCore 0 0).need 0x2000 = .ok 0x21000 ∧
    (faulted fault3).pendingFault 0 4 = some fault3 ∧ (faulted fault3).faultProc fault3 = some firstProcess ∧
    (match (faulted fault3).engineAddr firstProcess fault3.need 0x3000 with | .error _ => true | .ok _ => false) = true ∧
    ((faulted fault3).mapPage firstProcess 0x3000 (some 0x22) []).isSome = true ∧ ((faulted fault3).mapPage firstProcess 0x3000 (some (2 ^ 40)) []).isNone = true :=
  ⟨by decide +kernel, rfl, by decide +kernel⟩

/-- An entry of a load and of a store of a page that is mapped read-only since (R142: cause 0 is a page that nothing maps, 1 a store denied). -/
def readOnly (f : FaultEntry) : State :=
  let s := faulted f
  { s with mem := Memory.writeBytes s.mem 0x14010 (leBytes 8 (Memory.readNat s.mem 0x14010 8 - 0x20)) }
def storeFault (cause : BitVec 4) : FaultEntry := { faultOfCore 1 0 with cause := cause }
theorem wit_DebuggerWrites_since : ∀ c ∈ [0, 1], (readOnly (storeFault c)).pendingFault 0 4 = some (storeFault c) ∧
    (match (readOnly (storeFault c)).engineAddr firstProcess (storeFault c).need 0x2000 with | .error _ => true | .ok _ => false) = true ∧
    (match (readOnly (storeFault c)).walk firstProcess.root 0x2000 with | .page _ => true | _ => false) = true := by decide +kernel

/-- DebuggerReads: a team, a grid with a Relay, a block. -/
theorem wit_DebuggerReads : (part T B gProposal).team? 1 = some T ∧ (part T B gProposal).grid? 1 = some gProposal ∧ gProposal.relay = some relayed ∧
    ((part T B gProposal).proc? gProposal.pid).isSome = true ∧
    (part T B gProposal).blocks.find? (fun b => b.gid == 1 && b.index == 0 && b.shadowOf.isNone) = some B ∧ T.cause = 0 ∧ tOver.cause ≠ 0 ∧
    (part T).team? 2 = none ∧ 2 < (part T).nextUid :=
  ⟨rfl, rfl, rfl, rfl, rfl, rfl, by decide, rfl, by decide⟩

/-- StepKeepsMemories and DecodeEncode. -/
theorem wit_StepKeepsMemories : memoriesWf (part T) = true ∧ (match step (part T) with | .next _ => true | _ => false) = true :=
  ⟨by decide +kernel, by decide +kernel⟩
theorem wit_DecodeEncode : (Instr.bfiLiteral { lua := true, lub := false, stall := 3 } 63 63 { width := 32, pos := 31 }).wf = true ∧
    (match decode [0x20010830, 7] with | .ok (.andVector _ _ _ _, [7]) => true | _ => false) = true := ⟨rfl, rfl⟩

/-- StepRunsDecoded: by the turn and by the schedule; a word alone, one with a literal, one with a reserved field, one with an index of no
parameter. -/
def fetching (w : Nat) (inputs : List Input) : State :=
  { ((State.reset.withFirst w).modCore 0 fun c => { c with tlb := [page 0x1000 0x20000] }).modDie 0 (fun d => { d with dtlb := [page 0x1000 0x20000] })
    with inputs := inputs }
def codePage (va : Nat) : Page :=
  { va := va, pa := 0x20000, size := 4096, r := true, w := true, x := true, global := false, c64 := false, ch := 0, level := 0 }
theorem wit_StepRunsDecoded (inputs : List Input) : let s := fetching 0xFF28020808 inputs
    s.turn = T.uid ∧ s.team? T.uid = some T ∧ s.mayIssue T = true ∧ T.replay = [] ∧ s.breakAt T = none ∧ canonical T.pc = true ∧ T.grant = false ∧
      T.passBreak = none ∧ (s.gridOf T).any Grid.debugged = false :=
  ⟨rfl, rfl, rfl, rfl, rfl, rfl, rfl, rfl, rfl⟩
/-- By the schedule, and by the turn. -/
theorem wit_StepRunsDecoded_schedule : (fetching 0xFF28020808 [.issue 1 [] 0]).inputs = .issue T.uid [] 0 :: [] ∧
    (fetching 0xFF28020808 []).inputs = [] ∧ (fetching 0xFF28020808 []).turn = T.uid := ⟨rfl, rfl, rfl⟩
/-- No input but an event, or a line that leaves; a part whose register caches hold all their lines. -/
theorem wit_StepRunsDecoded_inputs : (fetching 0 [.event (.invalidationComplete ⟨1, 0, 0⟩)]).inputs = .event (.invalidationComplete ⟨1, 0, 0⟩) :: [] ∧
    encode (.invalidationComplete ⟨1, 0, 0⟩) = [] ∧ (fetching 0 []).hits = [] ∧
    (fetching 0 [.evict 1 (.vector 2016)]).inputs = .evict 1 (.vector 2016) :: [] ∧
    ∀ core, ((((part T).teams.filter fun t => t.core == core && t.cause == 0).map fun t => t.nvec * t.ngrp + t.nvec + 26).sum) ≤ 4096 := by
  refine ⟨rfl, rfl, rfl, rfl, fun core => ?_⟩
  rw [show (part T).teams = [T] from rfl]
  by_cases h : T.core = core
  · subst h; decide
  · rw [List.filter_cons_of_neg (by simp [h])]; simp
/-- R203: DIV by zero traps at its pass, and the AND behind it, which has issued, is captured; the word after it, a NOP, is not. -/
def trapping (young : Nat) : State :=
  (fetching 0x2004143032810830 [.issue 1 [] young]).modTeam 1 fun t => { t with mode := 0x10000 }
theorem test_younger : (match step (trapping 3) with
    | .next s => (s.team? 1).any fun u => u.frame.cause == 6 && u.frame.active == 1 && u.frame.tpc == 0x1000 && u.frame.rpc == 0x1008 &&
        (vget u.rq 0 .free).word == 0x32810830 && (vget u.rq 1 .free).word == 0x20041430 && (vget u.rq 1 .free).pmask == 0xFFFFFFFF &&
        (vget u.rq 2 .free).state == 0
    | _ => false) = true := by decide +kernel
theorem wit_StepRunsDecoded_younger : ((trapping 3).team? T.uid).any (fun u => u.frame.active != 1) = true ∧ T.frame.active = 0 ∧
    passCause 0x06 = true := by decide +kernel
/-- A team that is not ready, and one that another of its quadrant goes before. -/
theorem wit_StepRunsDecoded_outranked : (part (waits (.gbar 0))).mayIssue (waits (.gbar 0)) = false ∧
    ({ fetching 0x20010830 [] with teams := [T, { T with uid := 50, slot := 4, since := 1 }] } : State).ranks exec T [] = false := by
  decide +kernel
/-- No line of the instruction cache, and one as memory has it. -/
def cachedCode : State := (fetching 0xFF28020808 []).modCore 0 fun c => { c with icache := [{ line := 0x400, data := 0xFF28020808 }] }
theorem wit_StepRunsDecoded_code : ((fetching 0xFF28020808 []).coreAt 0).icache = [] ∧
    (cachedCode.coreAt 0).icache.find? (fun l => l.line == 0x20000 / 128) = some { line := 0x400, data := 0xFF28020808 } ∧
    (0xFF28020808 : BitVec 1024).extractLsb' (8 * (0x20000 % 128)) 32 = BitVec.ofNat 32 (Memory.readNat cachedCode.mem 0x20000 4) := by decide +kernel
theorem wit_StepRunsDecoded_mapped : ∀ pa ∈ [0x1000, 0x1004], Mapped (fetching 0xFF28020808 []) T .fetch pa (0x20000 + (pa - 0x1000)) := by
  intro pa h
  simp only [List.mem_cons, List.not_mem_nil, or_false] at h
  rcases h with rfl | rfl <;> exact ⟨firstProcess, codePage 0x1000, by decide +kernel⟩
theorem wit_StepRunsDecoded_words :
    (∀ w ∈ [0x20010830, 0xFF28020808, 0xFF2802080C, 0x7C0800C00], (Memory.readNat (fetching w []).mem 0x20000 4, Memory.readNat (fetching w []).mem 0x20004 4) =
      (w % 2 ^ 32, w / 2 ^ 32)) ∧
    takesLiteral (fieldsOf 0x20010830).op = false ∧ takesLiteral (fieldsOf 0x28020808).op = true ∧
    decodeWord 0x20010830 0 = .ok (.andVector m0 1 2 3) ∧ decodeWord 0x2802080C 0xFF = .error .reservedField ∧
    decodeWord 0xC0800C00 7 = .error .unassignedIndex := by decide +kernel

/-! ### Single steps -/

def t2 : Team := withV (withV T 2 0xFFFFFFF0) 3 0x00000023

/-- R321. -/
theorem test_and : lane0 (after1 (.andVector m0 1 2 3) (part t2)) 1 = some 0x20 := by decide +kernel
/-- R315, R404: a count mod 32. -/
theorem test_shl : lane0 (after1 (.shlVector m0 1 2 3) (part t2)) 1 = some 0xFFFFFF80 := by decide +kernel
/-- R404: the arithmetic shift brings in the sign. -/
theorem test_sar : lane0 (after1 (.sarLiteral m0 1 2 { count := 3 }) (part t2)) 1 = some 0xFFFFFFFE := by decide +kernel
theorem test_clz : lane0 (after1 (.clz m0 1 3) (part t2)) 1 = some 26 := by decide +kernel
theorem test_popc : lane0 (after1 (.popc m0 1 3) (part t2)) 1 = some 3 := by decide +kernel
theorem test_brev : lane0 (after1 (.brev m0 1 3) (part t2)) 1 = some 0xC4000000 := by decide +kernel
/-- R101: wrap, and a bound under SAT (bit 11) with its flag. -/
theorem test_add_wraps : lane0 (after1 (.addVector m0 1 2 3) (part t2)) 1 = some 0x13 := by decide +kernel
theorem test_add_sat : (after1 (.addVector m0 1 2 3) (part { withV (withV T 2 0x7FFFFFFF) 3 1 with mode := 0x800 ||| typed 0 })).map
    (fun t => ((t.thread 0).readV 1, (t.thread 0).flags)) = some (0x7FFFFFFF, 0x40) := by decide +kernel
/-- A destination that is also a source. -/
theorem test_sub_self : lane0 (after1 (.subVector m0 2 2 3) (part t2)) 2 = some 0xFFFFFFCD := by decide +kernel
theorem test_mul : lane0 (after1 (.mulVector m0 1 2 3) (part t2)) 1 = some 0xFFFFFDD0 := by decide +kernel
/-- R104: 1.0 + 2.0 = 3.0, and 1.0 / 0.0 is infinite with DBZ. -/
theorem test_add_f32 : lane0 (after1 (.addVector m0 1 2 3) (part { withV (withV T 2 0x3F800000) 3 0x40000000 with mode := typed 4 })) 1 =
    some 0x40400000 := by decide +kernel
theorem test_div_f32 : lane0 (after1 (.divVector m0 1 2 3) (part { withV (withV T 2 0x3F800000) 3 0 with mode := typed 4 })) 1 =
    some 0x7F800000 := by decide +kernel
theorem test_sqrt_f32 : lane0 (after1 (.sqrt m0 1 2) (part { withV T 2 0x41100000 with mode := typed 4 })) 1 = some 0x40400000 := by decide +kernel
/-- R47: p0 reads 1 and discards writes. -/
theorem test_p0 : (after1 (.cmpVector m0 0 2 3 { cond := 0 }) (part t2)).map (fun t => (t.thread 0).readP 0) = some true := by decide +kernel
/-- R326: the ballot of every lane's p0. -/
theorem test_ballot : lane0 (after1 (.ballot m0 1 0) (part T)) 1 = some 0xFFFFFFFF := by decide +kernel
/-- R331: 4 × the signed offset from the branch's own address. -/
theorem test_bra : (after1 (.bra m0 { offset := 0xFFFFFFFE }) (part T)).map Team.pc = some 0xFF8 := by decide +kernel
/-- R335, R402: CALL leaves the next address in s62:s63 and RET goes there. -/
theorem test_call : (after1 (.call m0 { offset := 4 }) (part T)).map (fun t => (t.pc, t.readSP 62)) = some (0x1010, 0x1008) := by decide +kernel
theorem test_ret : (after1 (.ret m0) (part (T.writeSP 62 0x1804))).map Team.pc = some 0x1804 := by decide +kernel
/-- R332: lanes that disagree part: the taken ones go on, the others wait at the next instruction. -/
theorem test_brc : (after1 (.brc m0 0 3 { offset := 4 }) (part { T with threads := T.threads.map fun th => if th.pos < 2 then th.writeP 3 true else th })).map
    (fun t => (t.pc, t.mask, t.stack)) = some (0x1010, 3, [parked 0x1008 0xFFFFFFFC]) := by decide +kernel
/-- R203, R204: TRAP enters the handler of the grid. -/
theorem test_trap : (after1 (.trap m0 { idx := 9 }) (part T)).map (fun t => (t.pc, t.mode, t.frame.active, t.frame.tpc, t.frame.rpc)) =
    some (0x1800, 0, 1, 0x1000, 0x1008) := by decide +kernel
/-- R371, R90: a load's value is on its way, and memory is as it was. -/
theorem test_ld : (after1 (.ldScalarBase m0 1 0 { scope := 4, ord := true, hint := 0, size := 4, offset := 4 }) (part { T with mask := 1 })).map
    Team.inflight = some [{ atomic := false, pc := 0x1000, writes := [(.v 0 1, 0x07060504)] }] := by decide +kernel
/-- R411: a store waits in the queue; the drain performs it, lowest byte first. -/
theorem test_st : (match exec (.stScalarBase m0 0 2 { scope := 0, ord := false, hint := 0, size := 4, offset := 0 }) (part { t2 with mask := 1 }) with
    | .next s => match exec (.storeQueueDrain 1) s with
      | .next s' => Memory.readBytes s'.mem 0x21000 5
      | _ => []
    | _ => []) = [0xF0, 0xFF, 0xFF, 0xFF, 0x04] := by decide +kernel
/-- R322: ATOM ADD leaves the sum and returns the old value. -/
theorem test_atom : (match exec (.atomScalarBase m0 1 0 3 (la 0 true)) (part { t2 with mask := 1 }) with
    | .next s => (Memory.readNat s.mem 0x21000 4, (s.team? 1).map Team.inflight)
    | _ => (0, none)) = (0x03020123, some [{ atomic := true, pc := 0x1000, writes := [(.v 0 1, 0x03020100)] }]) := by decide +kernel
/-- R127: a misaligned address traps with its address. -/
theorem test_misaligned : (after1 (.ldScalarBase m0 1 0 { scope := 0, ord := false, hint := 0, size := 4, offset := 2 }) (part T)).map
    (fun t => (t.frame.cause, t.frame.vaddr, t.frame.lmask)) = some (0x0A, 0x2002, fullMask 1) := by decide +kernel
/-- R151: 5 − 7 + 4 leaves 2 and inverts the phase. -/
theorem test_count_down : countDown (5 + 4 * 2 ^ 64) 7 = (2 + 4 * 2 ^ 64 + 2 ^ 127, true) := by decide +kernel
/-- R370: KILL ends the team. -/
theorem test_kill : (after1 (.kill m0) (part T)).map Team.cause = some 3 := by decide +kernel
/-- R357, R42: the last path's EXIT ends the team with cause EXIT. -/
theorem test_exit : (after1 (.exit m0) (part T)).map Team.cause = some 1 := by decide +kernel
/-- R379: the guard of MODE. -/
theorem test_mode_guard : (after1 (.modeGuard m0 1 5) (part T)).map Team.mode = some 0x15 := by decide +kernel
/-- R393, R363: a promise is made empty, then fulfilled with state 1 and its value. -/
theorem test_prom : (match exec (.prom m0 0) (part T) with
    | .next s => (Memory.readNat s.mem 0x21000 8, (s.team? 1).map fun t => (Estate.find t.estate kindPromise 0x2000).isSome)
    | _ => (1, none)) = (0, some true) := by decide +kernel
/-- R410: SRD of index 0 is the home lane. -/
theorem test_srd : (after1 (.srd m0 1 { idx := 0 }) (part T)).map (fun t => (t.thread 7).readV 1) = some 7 := by decide +kernel

/-! ### Steps from reset -/

/-- The word is fetched at the team's pc and runs: ADD.s32 v1 := v0 + 5, a literal form. -/
theorem test_step : (match step (State.reset.withFetchWord 64 (0b0011100000_000001_000000_000000_0_0_00 + 5 * 2 ^ 32)) with
    | .next s => (s.team? 1).map fun t => ((t.thread 9).readV 1, t.pc)
    | _ => none) = some (14, 0x1008) := by decide +kernel
/-- Reset alone has no team to issue, and an event of the schedule runs. -/
theorem test_step_event : (match step { State.reset with inputs := [.event (.throttleStep [0, 0, 0, 0])] } with
    | .next s => s.inputs == []
    | _ => false) = true := by decide +kernel

end Sys2Proof.Tests
end

section
/-! PROOF. p0 (R50): it reads as true and discards what is written to it, and an instruction of class 1 or 3 that names it as its
destination completes and leaves every thread's predicates as they were. -/

namespace Sys2Proof.Machine

open Sys2Proof Safety

variable {s : State} {t t' : Team} {i : Instr} {mode : Word} {m : Mods} {d a b : Reg} {r : Nat}

/-! ### Predicates of a thread, of a team -/

@[simp] theorem Thread.readP_zero (th : Thread) : th.readP 0 = true := by simp [Thread.readP]

@[simp] theorem Thread.writeP_zero (th : Thread) (x : Bool) : th.writeP 0 x = th := by simp [Thread.writeP]

@[simp] theorem Thread.writeDst_p_zero (th : Thread) (x : Double) : th.writeDst (.p 0) x = th := th.writeP_zero _

/-- Last use (R57) frees vector registers; predicates stay. -/
@[simp] theorem Thread.freeAll_p (th : Thread) (l : List Nat) : (th.freeAll l).p = th.p := by
  unfold Thread.freeAll
  induction l generalizing th with
  | nil => rfl
  | cons r l ih => rw [List.foldl_cons, ih]; rfl

/-- p0 exists in every context, a handler's included (R49, R213). -/
theorem Team.hasP_zero (t : Team) : t.hasP 0 = true := by
  unfold Team.hasP
  cases t.aside.isSome <;> rfl

/-- Threads that a function maps one by one without touching predicates keep them, home lane by home lane. -/
theorem Team.thread_map_p {g : Thread → Thread} (hg : ∀ th, (g th).p = th.p) (ht : t'.threads = t.threads.map g) (h : Nat) :
    (t'.thread h).p = (t.thread h).p := by
  rw [Team.thread, Team.thread, ht, List.getElem?_map]
  cases t.threads[h]? with
  | none => rfl
  | some th => exact hg th

/-! ### A form whose destination is p0 -/

theorem laneAfter_p {f : LaneForm} (hd : f.dst = .p 0) (t : Team) (th : Thread) : (f.after t th).p = th.p := by
  unfold LaneForm.after
  rw [hd]
  cases isLive t th with
  | true => simp
  | false => cases isHelper t th <;> simp

theorem rowAfter_p {f : RowForm} (hd : f.dst = .p 0) (t : Team) (th : Thread) : (f.after t th).p = th.p := by
  unfold RowForm.after
  rw [hd]
  cases isLive t th with
  | true => simp
  | false => cases f.helps && isHelper t th <;> simp

/-- A lane form's result, at a form whose destination is p0: the next instruction in line, no cause, and the same predicates. -/
theorem laneResult_predicates {f : LaneForm} (hr : f.Result t t' i) (hd : f.dst = .p 0) :
    t'.pc = nextPc t i ∧ t'.cause = t.cause ∧ ∀ h, (t'.thread h).p = (t.thread h).p := by
  obtain ⟨n, e⟩ := hr
  exact ⟨by rw [e]; rfl, by rw [e]; rfl, Team.thread_map_p (laneAfter_p hd t) (by rw [e])⟩

/-- The same of a row form's result. -/
theorem rowResult_predicates {f : RowForm} (hr : f.Result t t' i) (hd : f.dst = .p 0) :
    t'.pc = nextPc t i ∧ t'.cause = t.cause ∧ ∀ h, (t'.thread h).p = (t.thread h).p := by
  obtain ⟨n, e⟩ := hr
  exact ⟨by rw [e]; rfl, by rw [e]; rfl, Team.thread_map_p (rowAfter_p hd t) (by rw [e])⟩

/-! ### The instructions of class 3 that write a predicate: CMP (R341) -/

theorem typed_eq_some {ok : Nat → Bool} {f g : LaneForm} : typed mode ok g = some f ↔ ok (modeType mode) = true ∧ g = f := by
  simp [typed]

/-- CMP alone of the typed instructions has a predicate for its destination. -/
theorem typedForm_dst_p {f : LaneForm} (hf : typedForm mode i = some f) (hd : f.dst = .p r) :
    (∃ m d a b l, i = .cmpVector m d a b l) ∨ ∃ m d a b l, i = .cmpScalar m d a b l := by
  cases i with
  | cmpVector m d a b l => exact .inl ⟨m, d, a, b, l, rfl⟩
  | cmpScalar m d a b l => exact .inr ⟨m, d, a, b, l, rfl⟩
  | _ =>
    -- any other instruction has no form here, or one that writes a vector register
    simp only [typedForm, typed_eq_some, reduceCtorEq] at hf
    <;> (obtain ⟨-, rfl⟩ := hf; exact Dst.noConfusion hd)

/-- A comparison draws nothing and clears no flag. -/
theorem laneCmp_pure (k : Nat) (mode : Word) (x y : Double) : (laneCmp k mode x y).cv = none ∧ (laneCmp k mode x y).clear = 0 := by
  unfold laneCmp
  extract_lets ty e r0 r1 r
  split
  · exact ⟨rfl, rfl⟩
  · split <;> exact ⟨rfl, rfl⟩

/-- A comparison is of the form of its lane function. -/
theorem cmp_isForm {c : Ctx} (hm : c.mode = mode) {src : Src} (hb : ∀ r n, src ≠ .vs r n) (l : LCmp) :
    (cmpAlu m c d a src l).IsForm (cmpForm mode m d a src l) := by
  subst hm
  exact ⟨rfl, rfl, rfl, rfl, rfl, rfl, rfl, rfl, rfl, rfl, rfl, fun r n => ⟨by simp [cmpAlu], hb r n, by simp [cmpAlu]⟩, _, fun _ _ => rfl,
    fun _ _ _ => laneCmp_pure _ _ _ _, fun _ _ _ _ _ _ => rfl⟩

/-- A comparison completes with its form's results. -/
theorem execAlu_cmp (hc : Calm s t) (hs : Seated t) {mk : Ctx → Team → Nat → Alu} {src : Src} {l : LCmp}
    (hmk : mk (Ctx.plain i t) t s.tick = cmpAlu m (Ctx.plain i t) d a src l) (hsrc : ∀ r n, src ≠ .vs r n)
    (hok : (cmpForm t.mode m d a src l).ok t = true) (hun : (cmpForm t.mode m d a src l).untrapped t) :
    ∃ t', execAlu i s mk = .next (s.setTeam t') ∧ (cmpForm t.mode m d a src l).Result t t' i :=
  execAlu_form hc hs hmk (cmp_isForm (Ctx.plain_mode i t) hsrc l) ⟨rfl, rfl, rfl, rfl⟩ hok hun

/-- A typed instruction whose destination is a predicate completes with its form's results. -/
theorem exec_typed_predicate {f : LaneForm} (hc : Calm s t) (hs : Seated t) (hf : typedForm t.mode i = some f) (hd : f.dst = .p r)
    (hok : f.ok t = true) (hun : f.untrapped t) : ∃ t', exec i s = .next (s.setTeam t') ∧ f.Result t t' i := by
  obtain ⟨m, d, a, b, l, rfl⟩ | ⟨m, d, a, b, l, rfl⟩ := typedForm_dst_p hf hd
  · cases hf
    rw [exec_cmpVector, execCmpVector]
    exact execAlu_cmp hc hs rfl (by simp [vec]) hok hun
  · cases hf
    rw [exec_cmpScalar, execCmpScalar]
    exact execAlu_cmp hc hs rfl (by simp [sca]) hok hun

/-! ### The instructions of class 1 that write a predicate: PMOV, PLOG and VOTE (R389, R390, R418) -/

theorem crossForm_dst_p {f : RowForm} (hf : crossForm mode i = some f) (hd : f.dst = .p r) :
    (∃ m d a, i = .pmovVToP m d a) ∨ (∃ m d a b l, i = .plog m d a b l) ∨ ∃ m d a b, i = .vote m d a b := by
  cases i with
  | pmovVToP m d a => exact .inl ⟨m, d, a, rfl⟩
  | plog m d a b l => exact .inr (.inl ⟨m, d, a, b, l, rfl⟩)
  | vote m d a b => exact .inr (.inr ⟨m, d, a, b, rfl⟩)
  | qdif m d a b =>
    simp only [crossForm, Option.ite_none_right_eq_some, Option.some.injEq] at hf
    obtain ⟨-, rfl⟩ := hf
    exact Dst.noConfusion hd
  | _ =>
    -- any other instruction has no form here, or one that writes a vector register or nothing
    simp only [crossForm, Option.some.injEq, reduceCtorEq] at hf
    <;> (subst hf; exact Dst.noConfusion hd)

/-- An instruction whose lane computes from its position and the operands it reads there is local to its row. -/
theorem Alu.local_of_position {al : Alu} {g : Nat → Double → Double → LaneOut} (h : ∀ pin p, al.f pin p = g p (pin.rd 0 p) (pin.rd 1 p))
    (hk : al.keeps = fun _ _ => false) : al.Local := by
  intro pin pin' _ _ _ _ _ _ hr _ p hp
  rw [h, h, hr 0 p hp, hr 1 p hp, hk]
  exact ⟨rfl, rfl⟩

/-- An instruction whose lane computes from what its row's live lanes read of operand a is local to its row. -/
theorem Alu.local_of_row {al : Alu} {e : Double → Bool} {g : List Bool → LaneOut}
    (h : ∀ pin p, al.f pin p = g ((rowLanes pin.live pin.row).map fun q => e (pin.rd 0 q))) (hk : al.keeps = fun _ _ => false) :
    al.Local := by
  intro pin pin' _ hrow hlive _ _ _ hr _ p _
  have he : ((rowLanes pin.live pin.row).map fun q => e (pin.rd 0 q)) = (rowLanes pin.live pin.row).map fun q => e (pin'.rd 0 q) :=
    List.map_congr_left fun q hq => by rw [hr 0 q (mem_rowLanes.mp hq).1]
  rw [h, h, he, hrow, hlive, hk]
  exact ⟨rfl, rfl⟩

/-- The result at a position, of the operands that its thread reads. -/
theorem passOut_of_position (hc : Calm s t) (hs : Seated t) {al : Alu} {g : Nat → Double → Double → LaneOut}
    (h : ∀ pin p, al.f pin p = g p (pin.rd 0 p) (pin.rd 1 p)) (ha : al.x.a.ok t = true) (hb : al.x.b.ok t = true)
    (hvs : ∀ r n, al.x.a ≠ .vs r n ∧ al.x.b ≠ .vs r n) (tick : Nat) (live helpers : Mask) {th : Thread} (hm : th ∈ t.threads) :
    passOut al (Ctx.plain i t) t tick live helpers th.pos = g th.pos (rdAt t al.x.a th.pos) (rdAt t al.x.b th.pos) := by
  have hp := hs.pos_lt hm
  have h0 := read_at hs hc.windows tick i (x := al.x) 0 ha (fun r n e => absurd e (hvs r n).1) hp
  have h1 := read_at hs hc.windows tick i (x := al.x) 1 hb (fun r n e => absurd e (hvs r n).2) hp
  unfold passOut
  rw [h]
  exact congrArg₂ (g th.pos) h0 h1

/-- The live lanes of a position's row, as a pass lists them. -/
theorem rowLanes_live (hc : Calm s t) (hs : Seated t) (tick : Nat) (i : Instr) {p : Nat} (hp : p < 32 * t.ngrp) :
    rowLanes ((Ctx.plain i t).live t tick) (p / 32) = liveRow t p := by
  unfold rowLanes liveRow
  apply List.filter_congr
  intro q hq
  simp only [List.mem_map, List.mem_range] at hq
  obtain ⟨j, hj, rfl⟩ := hq
  exact live_at hs hc.windows tick i (row_within hp (by omega))

/-- The result at a position, of what the live threads of its row read. -/
theorem passOut_of_row (hc : Calm s t) (hs : Seated t) {al : Alu} {e : Double → Bool} {g : List Bool → LaneOut}
    (h : ∀ pin p, al.f pin p = g ((rowLanes pin.live pin.row).map fun q => e (pin.rd 0 q))) (ha : al.x.a.ok t = true)
    (hvs : ∀ r n, al.x.a ≠ .vs r n) (tick : Nat) (helpers : Mask) {th : Thread} (hm : th ∈ t.threads) :
    passOut al (Ctx.plain i t) t tick ((Ctx.plain i t).live t tick) helpers th.pos =
      g ((liveRow t th.pos).map fun q => e (rdAt t al.x.a q)) := by
  have hp := hs.pos_lt hm
  unfold passOut
  rw [h]
  simp only [pinAt, rowLanes_onlyRow]
  rw [← rowLanes_live hc hs tick i hp]
  refine congrArg g (List.map_congr_left fun q hq => ?_)
  have hq' : q < 32 * t.ngrp := row_within hp (mem_rowLanes.mp hq).1
  exact congrArg e (read_at hs hc.windows tick i (x := al.x) 0 ha (fun r n e => absurd e (hvs r n)) hq')

/-- How an instruction of class 1 is of a row form: the same operands, destination and last use, nothing kept or drawn, and no check at
issue of its own. -/
structure Alu.IsRowForm (al : Alu) (f : RowForm) : Prop where
  a : al.x.a = f.a
  b : al.x.b = f.b
  d : al.x.d = .none
  dst : al.dst = f.dst
  frees : freesOf al.m al.x = f.frees
  pois : al.pois = f.pois
  writes : al.writes = f.writes
  helps : al.helps = f.helps
  keeps : al.keeps = fun _ _ => false
  formKeeps : f.keeps = fun _ _ => false
  draws : al.logReads = none
  single : ∀ r n, al.x.a ≠ .vs r n ∧ al.x.b ≠ .vs r n
  checks : al.check.priv = false ∧ al.check.illegal = false ∧ al.check.unsupported = none ∧ al.check.extra = none

theorem execAlu_rowForm (hc : Calm s t) (hs : Seated t) {mk : Ctx → Team → Nat → Alu} {al : Alu}
    (hmk : mk (Ctx.plain i t) t s.tick = al) {f : RowForm} (hf : al.IsRowForm f) (hl : al.Local)
    (hval : ∀ th ∈ t.threads, passOut al (Ctx.plain i t) t s.tick ((Ctx.plain i t).live t s.tick) (aluHelpers al i t s.tick) th.pos =
      f.val t th.pos)
    (hok : f.ok t = true) (hun : f.untrapped t) : ∃ t', execAlu i s mk = .next (s.setTeam t') ∧ f.Result t t' i := by
  simp only [RowForm.ok, Bool.and_eq_true] at hok
  obtain ⟨⟨ha, hb⟩, hd⟩ := hok
  refine execAlu_row hc hs hmk hf.dst hf.frees hf.pois hf.writes hf.helps hl hf.checks ?_ (hf.dst ▸ hd) ?_ ?_ hval hun
  · rw [Srcs.ok, hf.a, hf.b, hf.d, ha, hb]; rfl
  · simp [hf.draws]
  · intro th _
    rw [passKeeps, hf.keeps, hf.formKeeps]

/-- Completion of an instruction whose lane computes from its position and the operands it reads there. -/
theorem execAlu_position (hc : Calm s t) (hs : Seated t) {mk : Ctx → Team → Nat → Alu} {al : Alu}
    (hmk : mk (Ctx.plain i t) t s.tick = al) {f : RowForm} (hf : al.IsRowForm f) (g : Nat → Double → Double → LaneOut)
    (hlane : ∀ pin p, al.f pin p = g p (pin.rd 0 p) (pin.rd 1 p)) (hval : ∀ t p, f.val t p = g p (rdAt t f.a p) (rdAt t f.b p))
    (hok : f.ok t = true) (hun : f.untrapped t) : ∃ t', execAlu i s mk = .next (s.setTeam t') ∧ f.Result t t' i := by
  refine execAlu_rowForm hc hs hmk hf (Alu.local_of_position hlane hf.keeps) (fun th hm => ?_) hok hun
  simp only [RowForm.ok, Bool.and_eq_true] at hok
  obtain ⟨⟨ha, hb⟩, -⟩ := hok
  rw [passOut_of_position hc hs hlane (hf.a ▸ ha) (hf.b ▸ hb) hf.single _ _ _ hm, hval, hf.a, hf.b]

/-- Completion of an instruction whose lane computes from what its row's live lanes read of operand a. -/
theorem execAlu_liveRow (hc : Calm s t) (hs : Seated t) {mk : Ctx → Team → Nat → Alu} {al : Alu}
    (hmk : mk (Ctx.plain i t) t s.tick = al) {f : RowForm} (hf : al.IsRowForm f) (e : Double → Bool) (g : List Bool → LaneOut)
    (hlane : ∀ pin p, al.f pin p = g ((rowLanes pin.live pin.row).map fun q => e (pin.rd 0 q)))
    (hval : ∀ t p, f.val t p = g ((liveRow t p).map fun q => e (rdAt t f.a q)))
    (hok : f.ok t = true) (hun : f.untrapped t) : ∃ t', execAlu i s mk = .next (s.setTeam t') ∧ f.Result t t' i := by
  refine execAlu_rowForm hc hs hmk hf (Alu.local_of_row hlane hf.keeps) (fun th hm => ?_) hok hun
  simp only [RowForm.ok, Bool.and_eq_true] at hok
  obtain ⟨⟨ha, -⟩, -⟩ := hok
  rw [passOut_of_row hc hs hlane (hf.a ▸ ha) (fun r n => (hf.single r n).1) _ _ hm, hval, hf.a]

/-- A predicate has no last use (R57). -/
theorem freesOf_predReg (m : Mods) (a : Reg) {b : Src} (hb : b.vregs = []) : freesOf m { a := predReg a, b := b, d := .none } = [] := by
  have ha : (predReg a).vregs = [] := rfl
  simp [freesOf, ha, hb]

theorem exec_pmovVToP_row {f : RowForm} (hc : Calm s t) (hs : Seated t) (hf : crossForm t.mode (.pmovVToP m d a) = some f)
    (hok : f.ok t = true) (hun : f.untrapped t) :
    ∃ t', exec (.pmovVToP m d a) s = .next (s.setTeam t') ∧ f.Result t t' (.pmovVToP m d a) := by
  cases hf
  rw [exec_pmovVToP, execPmovVToP]
  exact execAlu_position hc hs rfl
    ⟨rfl, rfl, rfl, rfl, rfl, rfl, rfl, rfl, rfl, rfl, rfl, by simp, ⟨rfl, rfl, rfl, rfl⟩⟩
    (fun p x _ => .bool (x.getLsbD (p % 32))) (fun _ _ => rfl) (fun _ _ => rfl) hok hun

theorem exec_plog_row {l : LPlog} {f : RowForm} (hc : Calm s t) (hs : Seated t) (hf : crossForm t.mode (.plog m d a b l) = some f)
    (hok : f.ok t = true) (hun : f.untrapped t) :
    ∃ t', exec (.plog m d a b l) s = .next (s.setTeam t') ∧ f.Result t t' (.plog m d a b l) := by
  cases hf
  rw [exec_plog, execPlog]
  exact execAlu_position hc hs rfl
    ⟨rfl, rfl, rfl, rfl, freesOf_predReg m a rfl, rfl, rfl, rfl, rfl, rfl, rfl, by simp [predReg], ⟨rfl, rfl, rfl, rfl⟩⟩
    (fun _ x y => .bool (l.table.getLsbD (2 * (if x != 0 then 1 else 0) + (if y != 0 then 1 else 0)))) (fun _ _ => rfl) (fun _ _ => rfl)
    hok hun

theorem exec_vote_row {f : RowForm} (hc : Calm s t) (hs : Seated t) (hf : crossForm t.mode (.vote m d a b) = some f)
    (hok : f.ok t = true) (hun : f.untrapped t) :
    ∃ t', exec (.vote m d a b) s = .next (s.setTeam t') ∧ f.Result t t' (.vote m d a b) := by
  simp only [crossForm, Option.ite_none_right_eq_some, Option.some.injEq] at hf
  obtain ⟨hkind, rfl⟩ := hf
  rw [exec_vote, execVote]
  exact execAlu_liveRow hc hs rfl
    ⟨rfl, rfl, rfl, rfl, freesOf_predReg m a rfl, rfl, rfl, rfl, rfl, rfl, rfl, by simp [predReg], ⟨rfl, by simp [Check.operand, hkind], rfl, rfl⟩⟩
    (· != 0) (fun vs => .bool (voteOf b.toNat vs)) (fun _ _ => rfl) (fun _ _ => rfl) hok hun

/-- A class 1 instruction whose destination is a predicate completes with its form's results. -/
theorem exec_cross_predicate {f : RowForm} (hc : Calm s t) (hs : Seated t) (hf : crossForm t.mode i = some f) (hd : f.dst = .p r)
    (hok : f.ok t = true) (hun : f.untrapped t) : ∃ t', exec i s = .next (s.setTeam t') ∧ f.Result t t' i := by
  obtain ⟨m, d, a, rfl⟩ | ⟨m, d, a, b, l, rfl⟩ | ⟨m, d, a, b, rfl⟩ := crossForm_dst_p hf hd
  · exact exec_pmovVToP_row hc hs hf hok hun
  · exact exec_plog_row hc hs hf hok hun
  · exact exec_vote_row hc hs hf hok hun

/-! ### The obligation -/

/-- Settles O4: of the typed instructions CMP, and of class 1 PMOV, PLOG and VOTE, are the ones that write a predicate; each completes
with its form's results, which at p0 leave every thread's predicates as they were. -/
theorem hardwiredPredicate : Obligations.HardwiredPredicate := by
  unfold Obligations.HardwiredPredicate
  refine ⟨fun th x => ⟨th.readP_zero, th.writeP_zero x⟩, ?_, ?_⟩
  · intro s t i f hc hs hf hdst ha hb hd hun
    have hok : f.ok t = true := by simp [LaneForm.ok, ha, hb, hd, hdst, Dst.ok, t.hasP_zero]
    obtain ⟨t', he, hr⟩ := exec_typed_predicate hc hs hf hdst hok hun
    exact ⟨t', he, laneResult_predicates hr hdst⟩
  · intro s t i f hc hs hf hdst ha hb hun
    have hok : f.ok t = true := by simp [RowForm.ok, ha, hb, hdst, Dst.ok, t.hasP_zero]
    obtain ⟨t', he, hr⟩ := exec_cross_predicate hc hs hf hdst hok hun
    exact ⟨t', he, rowResult_predicates hr hdst⟩

end Sys2Proof.Machine
end

section
/-! PROOF. A queued store to a spill stack (R128, R129): performing it writes the bytes to the spill region of the team whose stack it is, so the
team that drains a store of its own is left with more than a shorter queue. -/

namespace Sys2Proof.Machine

open Sys2Proof Safety

variable {s : State} {t : Team} {e : StoreEntry} {rest : List StoreEntry}

/-- The team with bytes stored in its spill region, from an offset (R128). -/
def Team.spillBytes (t : Team) (off : Nat) (bs : List Byte) : Team := { t with spill := Memory.writeBytes t.spill off bs }

/-- Two updates of the team of one number are one. -/
theorem State.modTeam_modTeam (s : State) (n : Nat) {f g : Team → Team} (hf : ∀ t, (f t).uid = t.uid) :
    (s.modTeam n f).modTeam n g = s.modTeam n fun t => g (f t) := by
  simp only [State.modTeam, List.map_map]
  congr 1
  refine List.map_congr_left fun u _ => ?_
  by_cases hu : u.uid = n <;> simp [hu, hf]

theorem State.team?_modTeam_self {n : Nat} {f : Team → Team} (h : s.team? n = some t) (hf : ∀ u, (f u).uid = u.uid) :
    (s.modTeam n f).team? n = some (f t) := by
  rw [State.team?_modTeam s f hf, h, Option.map_some, if_pos rfl]

theorem State.putImageBytes_spill (s : State) (u off : Nat) (bs : List Byte) :
    s.putImageBytes (.spill u) off bs = s.modTeam u fun t => t.spillBytes off bs := by
  induction bs generalizing s off with
  | nil => simp [State.putImageBytes, State.modTeam, Team.spillBytes, Memory.writeBytes]
  | cons b bs ih => rw [State.putImageBytes, ih]; exact State.modTeam_modTeam s u fun _ => rfl

/-- Where nothing is uncorrectable, bytes written to a spill stack change its team alone. -/
theorem State.writeHome_spill (hp : s.poison = []) (hs : s.soft = []) (u off : Nat) (bs : List Byte) (whole : Bool) :
    s.writeHome (.image (.spill u) off) bs whole = s.modTeam u fun t => t.spillBytes off bs := by
  simp [State.writeHome, hp, hs, State.putImageBytes_spill]

theorem State.settleBounds_teams (s : State) (uid : Nat) : (s.settleBounds uid).teams = s.teams := by
  unfold State.settleBounds
  split <;> rfl

theorem State.settleBounds_watches (s : State) (uid : Nat) : (s.settleBounds uid).watches = s.watches := by
  unfold State.settleBounds
  split <;> rfl

theorem State.checkWatch_unwatched (h : s.watches = []) (b : HitBy) (tg : Target) (addr size : Nat) (k : AccKind) :
    s.checkWatch b tg addr size k = s := by
  simp [State.checkWatch, h]

/-- Of the teams a performed store changes what its write at its home does; the L1 line, the bounds and the watchpoints that follow are
none of theirs. -/
theorem State.performStore_teams (uid : Nat) (h : (s.writeHome e.target e.bytes false).watches = []) :
    (s.performStore uid e).teams = (s.writeHome e.target e.bytes false).teams := by
  unfold State.performStore
  extract_lets tg s1 s2 s3
  have h2 : s2.teams = s1.teams ∧ s2.watches = s1.watches := by
    unfold s2
    split <;> exact ⟨rfl, rfl⟩
  have h3 : s3.teams = s2.teams ∧ s3.watches = s2.watches := by
    unfold s3
    split
    · exact ⟨s2.settleBounds_teams uid, s2.settleBounds_watches uid⟩
    · exact ⟨rfl, rfl⟩
  rw [State.checkWatch_unwatched (h3.2.trans (h2.2.trans h)), h3.1, h2.1]

/-- A store to a spill stack that is performed puts its bytes in the spill region of the stack's team. -/
theorem State.performStore_spill (uid : Nat) (hw : s.watches = []) (hp : s.poison = []) (hs : s.soft = []) (hspace : e.space = .image)
    (ht : s.team? (e.key / 2 ^ 32) = some t) :
    (s.performStore uid e).team? (e.key / 2 ^ 32) = some (t.spillBytes (e.key % 2 ^ 32) e.bytes) := by
  have hwrite : s.writeHome e.target e.bytes false = s.modTeam (e.key / 2 ^ 32) fun u => u.spillBytes (e.key % 2 ^ 32) e.bytes := by
    rw [StoreEntry.target, hspace]
    exact State.writeHome_spill hp hs _ _ _ _
  have hteams := State.performStore_teams (s := s) (e := e) uid (by rw [hwrite]; exact hw)
  rw [hwrite] at hteams
  rw [State.team?, hteams]
  exact State.team?_modTeam_self ht fun _ => rfl

/-- STORE_QUEUE_DRAIN of a store that the team has made to its own spill stack (R129, R135). -/
theorem exec_storeQueueDrain_spill (ha : Alive s t) (hq : t.storeQ = e :: rest) (hw : s.watches = []) (hp : s.poison = []) (hs : s.soft = [])
    (hspace : e.space = .image) (hkey : e.key / 2 ^ 32 = t.uid) :
    ∃ s', exec (.storeQueueDrain t.uid) s = .next s' ∧
      s'.team? t.uid = some ({ t with storeQ := rest }.spillBytes (e.key % 2 ^ 32) e.bytes) := by
  obtain ⟨hhere, hlives, hthawed, -⟩ := ha
  refine ⟨(s.modTeam t.uid fun u => { u with storeQ := rest }).performStore t.uid e, ?_, ?_⟩
  · simp [execStoreQueueDrain, State.onTeam, State.drainOne, hhere, hlives, hthawed, hq]
  · have hshorter : (s.modTeam t.uid fun u => { u with storeQ := rest }).team? t.uid = some { t with storeQ := rest } :=
      State.team?_modTeam_self hhere fun _ => rfl
    rw [← hkey] at hshorter ⊢
    exact State.performStore_spill _ hw hp hs hspace hshorter

/-! ### The obligation -/

/-- The byte 1, stored by team 1 at the base of its own spill stack. -/
def spillStore : StoreEntry :=
  { space := .image, addr := 0x800000, key := 2 ^ 32, bytes := [1], pc := 0x1000, row := 0, pos := 0, lane := 0, core := 0, word := 0, lit := 0,
    after := 1, publishes := false }

/-- A team that has spilled and not yet drained; its spill region holds nothing so far. -/
def spillingTeam : Team := { firstTeam 1 1 2 0 with storeQ := [spillStore] }

theorem spillingTeam_alive : Alive { State.reset with teams := [spillingTeam] } spillingTeam :=
  ⟨rfl, rfl, rfl, fun _ h _ => List.mem_singleton.mp h⟩

/-- Refutes O39: its first clause says for every queued store, and not only for those to device memory, scratch and the commons, that the
draining team changes in its queue alone; the store of a team to its own spill stack changes its spill region too. -/
theorem not_storesAndReplies : ¬ Obligations.StoresAndReplies := by
  unfold Obligations.StoresAndReplies
  rintro ⟨hdrain, -⟩
  obtain ⟨s1, hexec1, hclaimed, -⟩ := hdrain _ _ _ _ spillingTeam_alive rfl rfl
  obtain ⟨s2, hexec2, hactual⟩ := exec_storeQueueDrain_spill spillingTeam_alive rfl rfl rfl rfl rfl rfl
  rw [hexec1] at hexec2
  injection hexec2 with hs
  rw [← hs, hclaimed] at hactual
  injection hactual with hteam
  have hspill : ([] : Memory) = Memory.writeBytes [] 0 [1] := congrArg Team.spill hteam
  exact absurd hspill (by decide)

end Sys2Proof.Machine
end

section
/-! PROOF. SLOT_AGE_CLOSE and the Relay (R253): the event closes the open slot of a Relay that is there, and gives a grid none. -/

namespace Sys2Proof.Machine

open Sys2Proof

variable {s : State}

/-- Which grids of the part have a Relay. -/
def State.relays (s : State) : List Bool := s.grids.map fun g => g.relay.isSome

/-- An update of the grids of one number that keeps of each whether it has a Relay. -/
theorem State.relays_modGrid (s : State) (gid : Nat) {f : Grid → Grid} (hf : ∀ g, (f g).relay.isSome = g.relay.isSome) :
    (s.modGrid gid f).relays = s.relays := by
  simp only [State.relays, State.modGrid_grids, List.map_map]
  refine List.map_congr_left fun g _ => ?_
  by_cases hg : g.gid = gid <;> simp [hg, hf]

/-- SLOT_AGE_CLOSE gives no grid a Relay and takes none away. -/
theorem exec_slotAgeClose_relays {s' : State} (gid node : Nat) (h : exec (.slotAgeClose gid node) s = .next s') : s'.relays = s.relays := by
  rw [exec_slotAgeClose, execSlotAgeClose] at h
  injection h with h
  rw [← h]
  refine s.relays_modGrid gid fun g => ?_
  split
  · rfl
  · split
    · exact Option.isSome_map
    · rfl

/-! ### The obligation -/

/-- A Relay whose open slot holds one proposal. -/
def waitingRelay : Relay :=
  { pentry := 0x1100, chst := 0x2100, reca := 0x2200, steps := 4, level := 0, mutDesc := 0, since := 0, closed := [], running := [],
    waiting := [{ chain := 6, step := 1, source := [], kind := 0, badSplice := false, settled := false }] }

/-- Two grids of number 1, of which the first has a Relay and the second has none. -/
def twinGrids : State := { State.reset with grids := [{ firstGrid 1 with relay := some waitingRelay }, firstGrid 1] }

/-- Refutes O42: its clause on the built-in node sets the Relay of every grid that bears the number, and does not ask that only one does;
the event closes the open slot of the first of two such grids and gives the second, which has no Relay, none. -/
theorem not_memoryService : ¬ Obligations.MemoryService := by
  unfold Obligations.MemoryService
  rintro ⟨-, -, -, hgrids⟩
  obtain ⟨-, hage, -⟩ := hgrids twinGrids 1 { firstGrid 1 with relay := some waitingRelay } rfl
  have hkeeps := exec_slotAgeClose_relays 1 _ (hage waitingRelay rfl (List.cons_ne_nil _ _))
  exact absurd (show [true, true] = [true, false] from hkeeps) (by decide)

end Sys2Proof.Machine
end

section
/-! PROOF. Admission (R69, R187, R190, R194, R253, R269): what a step of an admission adds to the part, and with what registers a team
enters. -/

namespace Sys2Proof.Machine

open Sys2Proof Safety

variable {s s1 s2 : State} {g : Grid} {b : Block} {core : Nat}

/-! ### What an admission adds -/

/-- From s to s' these blocks and teams are new, no memory has changed, and every grid's nodes are as they were. -/
structure Adds (s s' : State) (bs : List Block) (ts : List Team) : Prop where
  mem : s'.mem = s.mem
  blocks : s'.blocks = s.blocks ++ bs
  teams : s'.teams = s.teams ++ ts
  nodes : ∀ k, (s'.grid? k).map Grid.nodes = (s.grid? k).map Grid.nodes

theorem Adds.refl (s : State) : Adds s s [] [] := ⟨rfl, by simp, by simp, fun _ => rfl⟩

theorem Adds.trans {bs bs' : List Block} {ts ts' : List Team} (h : Adds s s1 bs ts) (h' : Adds s1 s2 bs' ts') :
    Adds s s2 (bs ++ bs') (ts ++ ts') :=
  ⟨h'.mem.trans h.mem, by rw [h'.blocks, h.blocks, List.append_assoc], by rw [h'.teams, h.teams, List.append_assoc],
    fun k => (h'.nodes k).trans (h.nodes k)⟩

/-- A grid that was there still is, with its nodes. -/
theorem Adds.grid {bs : List Block} {ts : List Team} {gid : Nat} (h : Adds s s1 bs ts) (hg : s.grid? gid = some g) :
    ∃ g1, s1.grid? gid = some g1 ∧ g1.nodes = g.nodes := by
  have hn := h.nodes gid
  rw [hg, Option.map_some, Option.map_eq_some_iff] at hn
  exact hn

/-- And after an update of the grids of its number. -/
theorem Adds.grid_modGrid {bs : List Block} {ts : List Team} {gid : Nat} {f : Grid → Grid} (h : Adds s s1 bs ts) (hg : s.grid? gid = some g)
    (hid : ∀ g, (f g).gid = g.gid) : ∃ g1, (s1.modGrid gid f).grid? gid = some (f g1) ∧ g1.nodes = g.nodes := by
  obtain ⟨g1, hg1, hnodes⟩ := h.grid hg
  exact ⟨g1, by rw [State.grid?_modGrid s1 f hid, hg1, Option.map_some, if_pos rfl], hnodes⟩

theorem Adds.of_modGrid {gid : Nat} {f : Grid → Grid} (hid : ∀ g, (f g).gid = g.gid) (hn : ∀ g, (f g).nodes = g.nodes) :
    Adds s (s.modGrid gid f) [] [] :=
  ⟨rfl, by simp, by simp, fun k => by
    rw [State.grid?_modGrid s f hid, Option.map_map]
    congr 1
    funext g
    by_cases hk : k = gid <;> simp [hk, hn]⟩

theorem Adds.foldl {α : Type} {f : State → α → State} (hf : ∀ s x, Adds s (f s x) [] []) (l : List α) (s : State) :
    Adds s (l.foldl f s) [] [] := by
  induction l generalizing s with
  | nil => exact .refl s
  | cons x l ih => exact (hf s x).trans (ih _)

/-! ### Steps that add nothing -/

theorem State.writeBreak_adds (s : State) (gid core : Nat) (a : Double) (bc : BitVec 2) : Adds s (s.writeBreak gid core a bc) [] [] := by
  unfold State.writeBreak
  extract_lets c bp
  split
  · exact .refl s
  · split <;> exact ⟨rfl, by simp, by simp, fun _ => rfl⟩

theorem State.writeWatch_adds (s : State) (gid core : Nat) (v : BitVec 128) : Adds s (s.writeWatch gid core v) [] [] := by
  unfold State.writeWatch
  split <;> exact ⟨rfl, by simp, by simp, fun _ => rfl⟩

theorem State.writeHeld_adds (s : State) (g : Grid) (core : Nat) : Adds s (s.writeHeld g core) [] [] := by
  have hbreaks := Adds.foldl (fun s (x : HeldBreak) => s.writeBreak_adds g.gid core x.addr x.bcast)
    (g.heldBreaks.filter fun x => x.core.isNone || x.core == some core) s
  have hwatches := fun s => Adds.foldl (fun s (x : Option Nat × BitVec 128) => s.writeWatch_adds g.gid (x.1.getD core) x.2) g.heldWatches s
  exact (hbreaks.trans (hwatches _)).trans (Adds.of_modGrid (fun _ => rfl) fun _ => rfl)

theorem State.takeTag_adds (s : State) (gid : Nat) : Adds s (s.takeTag gid).2 [] [] := by
  unfold State.takeTag
  split
  · exact .refl s
  · exact .of_modGrid (fun _ => rfl) fun _ => rfl

theorem State.acquire_adds (s : State) (core scope : Nat) : Adds s (s.acquire core scope) [] [] := by
  unfold State.acquire State.discardL1 State.dropL1Soft
  split
  · split <;> exact ⟨rfl, by simp, by simp, fun _ => rfl⟩
  · exact .refl s

theorem State.passUnit_adds (s : State) (core old new : Nat) : Adds s (s.passUnit core old new) [] [] := by
  unfold State.passUnit
  split
  · exact ⟨rfl, by simp, by simp, fun _ => rfl⟩
  · exact .refl s

/-! ### A block and a team enter -/

theorem State.addBlock_adds (s : State) (g : Grid) (index core : Nat) (a : Ask) (p : Placement) (f : Block → Block) :
    Adds s (s.addBlock g index core a p f).2 [(s.addBlock g index core a p f).1] [] :=
  ⟨rfl, rfl, by simp [State.addBlock], fun _ => rfl⟩

theorem Adds.addTeam (s : State) (t : Team) : Adds s { s with teams := s.teams ++ [t], nextUid := s.nextUid + 1 } [] [t] :=
  ⟨rfl, (List.append_nil _).symm, rfl, fun _ => rfl⟩

/-- One team enters, as f makes it of a team at entry. -/
theorem State.enter_adds (s : State) (g : Grid) (b : Block) (e : Entry) (f : Team → Team) : Adds s (s.enter g b e f) []
    [f (g.entryTeam b s.nextUid (quadFor (s.slotTeams b.core)) (slotFor (s.slotTeams b.core)) e)] :=
  (Adds.addTeam s _).trans (State.acquire_adds _ b.core 5)

/-! ### Register files at entry -/

theorem vget_replicate {α : Type} (n k : Nat) (x : α) : vget (Vector.replicate n x) k x = x := by
  simp only [vget, Vector.getElem?_replicate]
  split <;> rfl

/-- A register that none of the writes is to. -/
theorem vget_foldl_vput_ne {α : Type} {n k : Nat} (l : List (Nat × α)) (v : Vector α n) (d : α) (hk : k ∉ l.map Prod.fst) :
    vget (l.foldl (fun v x => vput v x.1 x.2) v) k d = vget v k d := by
  induction l generalizing v with
  | nil => rfl
  | cons y l ih =>
    rw [List.map_cons, List.mem_cons, not_or] at hk
    rw [List.foldl_cons, ih _ hk.2, vget_vput_ne v _ d (Ne.symm hk.1)]

/-- Registers written one after the other, no one twice. -/
theorem vget_foldl_vput {α : Type} {n k : Nat} (l : List (Nat × α)) (v : Vector α n) (d x : α) (hl : (l.map Prod.fst).Nodup) (hk : k < n)
    (hx : (k, x) ∈ l) : vget (l.foldl (fun v x => vput v x.1 x.2) v) k d = x := by
  induction l generalizing v with
  | nil => simp at hx
  | cons y l ih =>
    rw [List.map_cons, List.nodup_cons] at hl
    rw [List.foldl_cons]
    rcases List.mem_cons.mp hx with rfl | hx
    · rw [vget_foldl_vput_ne l _ d hl.1, vget_vput_self v k x d hk]
    · exact ih _ hl.2 hx

/-! ### The registers of a team at entry (R69) -/

section

variable (g : Grid) (b : Block) (uid quad slot : Nat) (e : Entry)

/-- The scalar registers that R69 sets, by number. -/
def Grid.entryScalars : List (Nat × Word) :=
  [(0, g.param.setWidth 32), (1, g.param.extractLsb' 32 32), (2, BitVec.ofNat 32 b.index), (3, BitVec.ofNat 32 e.tix), (4, BitVec.ofNat 32 g.count)]

theorem Grid.entryTeam_readS {k : Nat} {x : Word} (hk : k < 64) (h : (k, x) ∈ g.entryScalars b e) :
    (g.entryTeam b uid quad slot e).readS k = x :=
  vget_foldl_vput (g.entryScalars b e) _ 0 x (by simp [Grid.entryScalars]) hk h

theorem Grid.entryTeam_readS_above {k : Nat} (h : 5 ≤ k) : (g.entryTeam b uid quad slot e).readS k = 0 := by
  have hne : k ∉ (g.entryScalars b e).map Prod.fst := by simp [Grid.entryScalars]; omega
  exact (vget_foldl_vput_ne _ _ 0 hne).trans (vget_replicate 64 k 0)

theorem Grid.entryTeam_thread {h : Nat} (hh : h < 32 * e.ngrp) : (g.entryTeam b uid quad slot e).thread h =
    { Thread.entry h with
      v := vput (Thread.entry h).v 0 (BitVec.ofNat 32 (e.tix * 32 * e.ngrp + h)), cv := entryChoice g (e.stream h) (e.logs[h]?.getD 0) } := by
  simp [Team.thread, Grid.entryTeam, hh]

end

theorem word_halves (x : Double) : x.extractLsb' 32 32 ++ x.setWidth 32 = x := by
  refine BitVec.eq_of_getLsbD_eq fun i hi => ?_
  rw [BitVec.getLsbD_append, BitVec.getLsbD_setWidth, BitVec.getLsbD_extractLsb']
  split
  · simp [*]
  · rw [show 32 + (i - 32) = i by omega]
    simp [show i - 32 < 32 by omega]

/-! ### Which teams enter -/

/-- A team at entry, number k of its block, in its grid's groups at its grid's entry (R69). -/
theorem Grid.entryTeam_enters (g : Grid) (b : Block) (uid quad slot : Nat) (e : Entry) (hgrp : e.ngrp = g.ngrp) (hpc : e.pc = g.entry) :
    Enters g b e.tix (g.entryTeam b uid quad slot e) where
  place := ⟨rfl, rfl, rfl, rfl⟩
  still := ⟨rfl, rfl, rfl, rfl, rfl, rfl, rfl⟩
  path := ⟨hpc, by rw [← hgrp]; rfl⟩
  params := by
    have hread := fun k x (hk : k < 64) (h : (k, x) ∈ g.entryScalars b e) => g.entryTeam_readS b uid quad slot e hk h
    refine ⟨?_, hread 2 _ (by omega) (by simp [Grid.entryScalars]), hread 3 _ (by omega) (by simp [Grid.entryScalars]),
      hread 4 _ (by omega) (by simp [Grid.entryScalars])⟩
    rw [Team.readSP, hread 0 (g.param.setWidth 32) (by omega) (by simp [Grid.entryScalars]),
      hread 1 (g.param.extractLsb' 32 32) (by omega) (by simp [Grid.entryScalars]), word_halves]
  zeros := fun _ => Grid.entryTeam_readS_above g b uid quad slot e
  lanes := by
    refine ⟨by simp [Grid.entryTeam, hgrp], fun h hh => ?_⟩
    rw [← hgrp] at hh ⊢
    rw [Grid.entryTeam_thread g b uid quad slot e hh]
    refine ⟨rfl, rfl, ?_, fun r hr => ?_⟩
    · simp [Thread.readV, Thread.entry]
    · simp [Thread.readV, Thread.entry, vget_vput_ne _ _ _ (Nat.ne_of_lt hr), vget_replicate]

/-- What team ti of a block of the grid brings to its entry. -/
def Grid.gridEntry (g : Grid) (b : Block) (p : Placement) (ti : Nat) (tag : Word) : Entry :=
  { kind := .grid, tix := ti, tag := tag, ngrp := g.ngrp, pc := g.entry, imga := p.imgas[ti]?.getD 0, spill := p.spills[ti]?.getD 0,
    logs := (p.logs.drop (ti * (32 * g.ngrp))).take (32 * g.ngrp),
    stream := fun h => g.cvbase + BitVec.ofNat 64 (g.threadIndex b.index ti h) }

theorem State.enterGridTeam_eq (s : State) (g : Grid) (b : Block) (p : Placement) (ti : Nat) : s.enterGridTeam g b p ti =
    if b.shadowOf.isSome then s.enter g b (g.gridEntry b p ti 0) id
    else (s.takeTag g.gid).2.enter g b (g.gridEntry b p ti (s.takeTag g.gid).1) id := by
  unfold State.enterGridTeam
  by_cases hs : b.shadowOf.isSome = true
  · simp only [hs, if_true]
    rfl
  · simp only [hs]
    rfl

/-- One team of a block of the grid enters; a shadow's has tag 0. -/
theorem State.enterGridTeam_adds (s : State) (g : Grid) (b : Block) (p : Placement) (ti : Nat) :
    ∃ t, Adds s (s.enterGridTeam g b p ti) [] [t] ∧ Enters g b ti t ∧ (b.shadowOf.isSome = true → t.tag = 0) := by
  have henters := fun uid quad slot tag => g.entryTeam_enters b uid quad slot (g.gridEntry b p ti tag) rfl rfl
  rw [State.enterGridTeam_eq]
  split
  · exact ⟨_, State.enter_adds s g b _ id, henters _ _ _ _, fun _ => rfl⟩
  · exact ⟨_, (s.takeTag_adds g.gid).trans (State.enter_adds _ g b _ id), henters _ _ _ _, fun hs => absurd hs ‹_›⟩

/-- The teams of a block of the grid enter. -/
theorem State.enterTeams_adds (s : State) (g : Grid) (b : Block) (p : Placement) :
    ∃ ts : List Team, Adds s (s.enterTeams g b p) [] ts ∧ ts.length = g.teams ∧
      ∀ k t, ts[k]? = some t → Enters g b k t ∧ (b.shadowOf.isSome = true → t.tag = 0) := by
  unfold State.enterTeams
  induction g.teams with
  | zero => exact ⟨[], .refl s, rfl, by simp⟩
  | succ n ih =>
    obtain ⟨ts, hadds, hlen, hts⟩ := ih
    rw [List.range_succ, List.foldl_append]
    obtain ⟨t, hadd, ht⟩ := State.enterGridTeam_adds ((List.range n).foldl (fun s ti => s.enterGridTeam g b p ti) s) g b p n
    refine ⟨ts ++ [t], hadds.trans hadd, by simp [hlen], fun k u hu => ?_⟩
    rw [List.getElem?_append] at hu
    split at hu
    · exact hts k u hu
    · have hk : k - ts.length < 1 := (List.getElem?_eq_some_iff.mp hu).1
      obtain rfl : k = n := by omega
      simp only [hlen, Nat.sub_self, List.getElem?_cons_zero, Option.some.injEq] at hu
      exact hu ▸ ht

/-! ### Blocks enter (R187, R178) -/

/-- A fresh block and its teams enter. -/
theorem State.admitBlock_adds (s : State) (g : Grid) (core : Nat) (p : Placement) :
    ∃ s1 b ts, s.admitBlock g core p = s1.modGrid g.gid (fun g' => { g' with admitted := g.admitted + 1 }) ∧ Adds s s1 [b] ts ∧
      (∃ uid, b = { g.entryBlock uid g.admitted core g.askBlock p with sampled := g.ordered && sampledBlock g.seed g.admitted }) ∧
      ts.length = g.teams ∧ ∀ k t, ts[k]? = some t → Enters g b k t := by
  obtain ⟨ts, hteams, hlen, hts⟩ := State.enterTeams_adds ((s.writeHeld g core).addBlock g g.admitted core g.askBlock p fun b =>
    { b with sampled := g.ordered && sampledBlock g.seed g.admitted }).2 g _ p
  exact ⟨_, _, ts, rfl, ((s.writeHeld_adds g core).trans (State.addBlock_adds _ g g.admitted core g.askBlock p _)).trans hteams,
    ⟨_, rfl⟩, hlen, fun k t hk => (hts k t hk).1⟩

/-- The shadow of a block and its teams enter. -/
theorem State.admitShadow_adds (s : State) (g : Grid) (o : Block) (core : Nat) (p : Placement) :
    ∃ b ts, Adds s (s.admitShadow g o core p) [b] ts ∧
      (∃ uid, b = { g.entryBlock uid o.index core g.askBlock p with shadowOf := some o.uid }) ∧
      ts.length = g.teams ∧ ∀ k t, ts[k]? = some t → Enters g b k t ∧ t.tag = 0 := by
  obtain ⟨ts, hteams, hlen, hts⟩ := State.enterTeams_adds ((s.writeHeld g core).addBlock g o.index core g.askBlock p fun b =>
    { b with shadowOf := some o.uid }).2 g _ p
  exact ⟨_, ts, ((s.writeHeld_adds g core).trans (State.addBlock_adds _ g o.index core g.askBlock p _)).trans hteams, ⟨_, rfl⟩, hlen,
    fun k t hk => ⟨(hts k t hk).1, (hts k t hk).2 rfl⟩⟩

/-! ### Blocks of one team enter (R194, R253, R269) -/

/-- The scalar registers of a batch of a node, by number (R194). -/
def Node.entryScalars (n : Node) (x : Batch) (index : Nat) : List (Nat × Word) :=
  let slotA := BitVec.ofNat 64 (n.recordAt x.slot 0)
  [(0, slotA.setWidth 32), (1, slotA.extractLsb' 32 32), (2, BitVec.ofNat 32 index), (3, 0), (4, BitVec.ofNat 32 x.count)]

/-- The scalar registers of a batch of the Relay, by number (R253). -/
def proposalScalars (count : Nat) : List (Nat × Word) := [(2, 0xC0000000#32), (3, 0), (4, BitVec.ofNat 32 count)]

/-- The scalar registers of an estate handler, by number (R269). -/
def HandlerDue.entryScalars (h : HandlerDue) (dead : Team) : List (Nat × Word) :=
  [(2, 0xA0000000#32), (3, if h.heirless then 1 else 0), (4, dead.tag), (5, BitVec.ofNat 32 h.slot), (6, dead.imga.setWidth 32),
    (7, dead.imga.extractLsb' 32 32)]

/-- A node's batch enters. -/
theorem State.admitNode_adds (s : State) (g : Grid) (n : Node) (x : Batch) (core : Nat) (p : Placement) :
    ∃ s1 b uid quad slot e, s.admitNode g n x core p = s1.modGrid g.gid (fun g =>
        { g with nodes := modifyAt g.nodes x.node fun n => { n with slots := n.slots.set x.slot (.running x.count) } }) ∧
      Adds s s1 [b] [((g.entryTeam b uid quad slot e).enterLanes x.count).setScalars (n.entryScalars x b.index)] ∧
      b.index = 0x80000000 + x.node ∧ b.core = core ∧ e.ngrp = g.ngrp ∧ e.pc = n.entry :=
  ⟨_, _, _, _, _, _, rfl, (((s.writeHeld_adds g core).trans (State.addBlock_adds _ g (0x80000000 + x.node) core g.askTeam p id)).trans
    (State.takeTag_adds _ g.gid)).trans (State.enter_adds _ g _ _ _), rfl, rfl, rfl, rfl⟩

/-- A batch of the Relay enters. -/
theorem State.admitProposals_adds (s : State) (g : Grid) (r : Relay) (x : Batch) (core : Nat) (p : Placement) {q : ProposalBatch}
    (hq : r.closed[x.slot]? = some q) :
    ∃ s1 f b uid quad slot e, s.admitProposals g r x core p = s1.modGrid g.gid f ∧ Adds s s1 [b]
        [(((g.entryTeam b uid quad slot e).enterLanes q.proposals.length).enterProposals q.proposals).setScalars
          (proposalScalars q.proposals.length)] ∧
      b.index = 0xC0000000 ∧ b.core = core ∧ e.ngrp = g.ngrp ∧ e.pc = r.pentry := by
  have hqs : ((r.closed[x.slot]?).map ProposalBatch.proposals).getD [] = q.proposals := by rw [hq]; rfl
  unfold State.admitProposals
  rw [hqs]
  exact ⟨_, _, _, _, _, _, _, rfl, (((s.writeHeld_adds g core).trans (State.addBlock_adds _ g 0xC0000000 core g.askTeam p id)).trans
    (State.takeTag_adds _ g.gid)).trans (State.enter_adds _ g _ _ _), rfl, rfl, rfl, rfl⟩

/-- An estate handler enters. -/
theorem State.admitHandler_adds (s : State) (g : Grid) (h : HandlerDue) (dead : Team) (core : Nat) (p : Placement) :
    ∃ s1 f b uid quad slot e, s.admitHandler g h dead core p = s1.modGrid g.gid f ∧
      Adds s s1 [b] [(g.entryTeam b uid quad slot e).enterHandler h dead] ∧ b.core = core ∧ e.ngrp = 1 ∧ e.pc = g.esth ∧ e.tag = h.tag :=
  ⟨_, _, _, _, _, _, _, rfl, (((s.writeHeld_adds g core).trans (State.addBlock_adds _ g 0xA0000000 core g.askTeam p id)).trans
    (State.passUnit_adds _ core h.number _)).trans (State.enter_adds _ g _ _ _), rfl, rfl, rfl, rfl⟩

/-! ### What its entry makes of such a team -/

variable (t : Team)

theorem Team.setScalars_readS {l : List (Nat × Word)} {k : Nat} {x : Word} (hl : (l.map Prod.fst).Nodup) (hk : k < 64) (hx : (k, x) ∈ l) :
    (t.setScalars l).readS k = x :=
  vget_foldl_vput l t.s 0 x hl hk hx

theorem Team.enterHandler_readS (h : HandlerDue) (dead : Team) {k : Nat} {x : Word} (hk : k < 64) (hx : (k, x) ∈ h.entryScalars dead) :
    (t.enterHandler h dead).readS k = x :=
  Team.setScalars_readS (t.enterLanes 1) (by simp) hk hx

theorem Team.setScalars_keeps (l : List (Nat × Word)) :
    (t.setScalars l).blk = t.blk ∧ (t.setScalars l).core = t.core ∧ (t.setScalars l).pc = t.pc := ⟨rfl, rfl, rfl⟩

@[simp] theorem Team.setScalars_thread (l : List (Nat × Word)) (k : Nat) : (t.setScalars l).thread k = t.thread k := by
  unfold Team.thread
  rfl

@[simp] theorem Team.enterHandler_thread (h : HandlerDue) (dead : Team) (k : Nat) : (t.enterHandler h dead).thread k = (t.enterLanes 1).thread k := by
  unfold Team.thread
  rfl

theorem Team.enterHandler_frame (h : HandlerDue) (dead : Team) (hheir : h.heirless = true) : (t.enterHandler h dead).frame = heirlessFrame dead h :=
  if_pos hheir

theorem Team.enterLanes_thread {count h : Nat} (hh : h < t.threads.length) :
    (t.enterLanes count).thread h = if h < count then t.thread h else { t.thread h with life := .exitedAtEntry } := by
  simp only [Team.enterLanes, Team.thread, List.getElem?_map, List.getElem?_zipIdx, List.getElem?_eq_getElem hh, Option.map_some, Option.getD_some,
    Nat.zero_add]

/-- The threads that carry proposals. -/
def Team.proposalThreads (t : Team) (qs : List Proposal) : List Thread :=
  t.threads.zipIdx.map fun (th, h) =>
    match qs[h]? with
    | some q => { th with v := vput (vput th.v 0 (BitVec.ofNat 32 q.chain)) 1 (BitVec.ofNat 32 q.step), cv := q.choice th.cv }
    | none => th

/-- Packing slots moves no team and no thread. -/
theorem Team.packSlots_keeps (t : Team) (l : List Nat) :
    let u := l.foldl (fun t g => (t.packSlot g).packSlot (32 + g)) t
    u.threads = t.threads ∧ u.blk = t.blk ∧ u.core = t.core ∧ u.pc = t.pc := by
  induction l generalizing t with
  | nil => exact ⟨rfl, rfl, rfl, rfl⟩
  | cons g l ih => exact ih ((t.packSlot g).packSlot (32 + g))

theorem Team.enterProposals_keeps (t : Team) (qs : List Proposal) :
    let u := t.enterProposals qs
    u.threads = t.proposalThreads qs ∧ u.blk = t.blk ∧ u.core = t.core ∧ u.pc = t.pc :=
  Team.packSlots_keeps { t with threads := t.proposalThreads qs } (List.range t.ngrp)

theorem Team.enterProposals_thread {qs : List Proposal} {q : Proposal} {h : Nat} (hh : h < t.threads.length) (hq : qs[h]? = some q) :
    (t.enterProposals qs).thread h = { t.thread h with
      v := vput (vput (t.thread h).v 0 (BitVec.ofNat 32 q.chain)) 1 (BitVec.ofNat 32 q.step), cv := q.choice (t.thread h).cv } := by
  rw [Team.thread, (t.enterProposals_keeps qs).1]
  simp only [Team.thread, Team.proposalThreads, List.getElem?_map, List.getElem?_zipIdx, List.getElem?_eq_getElem hh, Option.map_some,
    Option.getD_some, Nat.zero_add, hq]

section

variable (g : Grid) (b : Block) (uid quad slot : Nat) (e : Entry)

theorem Grid.entryTeam_threads_length : (g.entryTeam b uid quad slot e).threads.length = 32 * e.ngrp := by simp [Grid.entryTeam]

/-- The lanes at or above the count have exited as the team enters; those below are live. -/
theorem Grid.entryTeam_enterLanes_life {count h : Nat} (hh : h < 32 * e.ngrp) :
    (((g.entryTeam b uid quad slot e).enterLanes count).thread h).life = .live ↔ h < count := by
  rw [Team.enterLanes_thread _ (by rwa [Grid.entryTeam_threads_length])]
  split <;> simp [Grid.entryTeam_thread g b uid quad slot e hh, Thread.entry, *]

/-- A lane that enters with a proposal is live, with the chain in v0 and the step in v1 (R253). -/
theorem Grid.entryTeam_proposal {qs : List Proposal} {q : Proposal} {h : Nat} (hh : h < 32 * e.ngrp) (hq : qs[h]? = some q) :
    let th := (((g.entryTeam b uid quad slot e).enterLanes qs.length).enterProposals qs).thread h
    th.life = .live ∧ th.readV 0 = BitVec.ofNat 32 q.chain ∧ th.readV 1 = BitVec.ofNat 32 q.step := by
  have hlt : h < qs.length := (List.getElem?_eq_some_iff.mp hq).1
  rw [Team.enterProposals_thread _ (by simpa [Team.enterLanes, Grid.entryTeam_threads_length] using hh) hq,
    Team.enterLanes_thread _ (by rwa [Grid.entryTeam_threads_length]), if_pos hlt, Grid.entryTeam_thread g b uid quad slot e hh]
  simp [Thread.entry, Thread.readV, vget_vput_ne]

end

/-! ### The obligation -/

section

variable {gid : Nat} {p : Placement}

theorem execBlockAdmission_fresh (hg : s.grid? gid = some g) (hplace : s.placeOk g core g.teams g.ngrp p = true)
    (hoffer : s.offered g core 2 = true) (hfits : s.freshFits g core = true) :
    execBlockAdmission gid g.admitted core p s = .next (s.admitBlock g core p) := by
  simp [execBlockAdmission, hg, hplace, hoffer, hfits]

theorem execBlockAdmission_shadow {ix : Nat} {o : Block} (hg : s.grid? gid = some g) (hplace : s.placeOk g core g.teams g.ngrp p = true)
    (hoffer : s.offered g core 2 = true) (hix : ix ≠ g.admitted) (hdue : s.shadowDue g ix = some o) (hcore : core ≠ o.core)
    (hadmits : s.admits g core g.askBlock = true) : execBlockAdmission gid ix core p s = .next (s.admitShadow g o core p) := by
  simp [execBlockAdmission, hg, hplace, hoffer, hix, hdue, State.shadowFits, hcore, hadmits]

/-- The batch whose turn it is may enter. -/
structure BatchEnters (s : State) (gid : Nat) (g : Grid) (x : Batch) (core : Nat) (p : Placement) : Prop where
  grid : s.grid? gid = some g
  place : s.placeOk g core 1 g.ngrp p = true
  offer : s.offered g core 1 = true
  admits : s.admits g core g.askTeam = true
  first : g.firstBatch = some x
  turn : s.batchTurn g x core = true
  before : s.handlersBefore g core = false

theorem BatchEnters.node {x : Batch} {n : Node} (h : BatchEnters s gid g x core p) (hn : g.nodes[x.node]? = some n) :
    execNodeBatchAdmission gid core p s = .next (s.admitNode g n x core p) := by
  simp [execNodeBatchAdmission, h.grid, h.place, h.offer, h.admits, h.first, h.turn, h.before, hn]

theorem BatchEnters.relay {x : Batch} {r : Relay} (h : BatchEnters s gid g x core p) (hn : g.nodes[x.node]? = none) (hr : g.relay = some r) :
    execNodeBatchAdmission gid core p s = .next (s.admitProposals g r x core p) := by
  simp [execNodeBatchAdmission, h.grid, h.place, h.offer, h.admits, h.first, h.turn, h.before, hn, hr]

theorem execEstateHandlerAdmission_due {h : HandlerDue} {dead : Team} (hg : s.grid? gid = some g) (hplace : s.placeOk g core 1 1 p = true)
    (hoffer : s.offered g core 1 = true) (hadmits : s.admits g core g.askTeam = true) (hbefore : s.handlersBefore g core = false)
    (hbatches : s.batchesBefore g core = false) (hdue : g.handlersDue.find? (fun h => h.mayGo core) = some h)
    (hdead : s.team? h.dead = some dead) : execEstateHandlerAdmission gid core p s = .next (s.admitHandler g h dead core p) := by
  simp [execEstateHandlerAdmission, hg, hplace, hoffer, hadmits, hbefore, hbatches, hdue, hdead]

end

/-- A node's batch that enters has its record's address in s0, and its block's index, 0 and its count in s2 to s4 (R194). -/
theorem Grid.entryTeam_node (g : Grid) (b : Block) (uid quad slot : Nat) (e : Entry) (n : Node) (x : Batch) :
    let t := ((g.entryTeam b uid quad slot e).enterLanes x.count).setScalars (n.entryScalars x b.index)
    t.readSP 0 = BitVec.ofNat 64 (n.recordAt x.slot 0) ∧ t.readS 2 = BitVec.ofNat 32 b.index ∧ t.readS 3 = 0 ∧
      t.readS 4 = BitVec.ofNat 32 x.count := by
  intro t
  have hread : ∀ k y, k < 64 → (k, y) ∈ n.entryScalars x b.index → t.readS k = y := fun k y =>
    Team.setScalars_readS _ (by simp [Node.entryScalars])
  refine ⟨?_, hread 2 _ (by omega) (by simp [Node.entryScalars]), hread 3 _ (by omega) (by simp [Node.entryScalars]),
    hread 4 _ (by omega) (by simp [Node.entryScalars])⟩
  rw [Team.readSP, hread 0 _ (by omega) (.head _), hread 1 _ (by omega) (.tail _ (.head _)), word_halves]

/-- An estate handler that enters has the dead team's tag, the slot and the dead team's image in s4 to s7 (R269). -/
theorem Team.enterHandler_params (t : Team) (h : HandlerDue) (dead : Team) :
    (t.enterHandler h dead).readS 4 = dead.tag ∧ (t.enterHandler h dead).readS 5 = BitVec.ofNat 32 h.slot ∧
      (t.enterHandler h dead).readSP 6 = dead.imga := by
  have hread := fun k y (hk : k < 64) => t.enterHandler_readS h dead (k := k) (x := y) hk
  refine ⟨hread 4 _ (by omega) (by simp [HandlerDue.entryScalars]), hread 5 _ (by omega) (by simp [HandlerDue.entryScalars]), ?_⟩
  rw [Team.readSP, hread 6 (dead.imga.setWidth 32) (by omega) (by simp [HandlerDue.entryScalars]),
    hread 7 (dead.imga.extractLsb' 32 32) (by omega) (by simp [HandlerDue.entryScalars]), word_halves]

/-- Settles O44: each admission adds one block and its teams (Adds), each team as its entry makes it of a team at entry. -/
theorem admission : Obligations.Admission := by
  unfold Obligations.Admission
  intro s gid core g p hg
  have hgid : g.gid = gid := State.grid?_gid hg
  refine ⟨?_, ?_, ?_, ?_⟩
  · intro hplace hoffer hfits
    obtain ⟨s1, b, ts, heq, hadds, ⟨uid, rfl⟩, hlen, hts⟩ := s.admitBlock_adds g core p
    rw [hgid] at heq
    obtain ⟨g1, hg1, -⟩ := hadds.grid_modGrid (f := fun g' => { g' with admitted := g.admitted + 1 }) hg fun _ => rfl
    exact ⟨_, _, ts, _, (execBlockAdmission_fresh hg hplace hoffer hfits).trans (congrArg _ heq), hadds.mem, hadds.blocks, hadds.teams, hgid, rfl,
      rfl, rfl, rfl, rfl, rfl, rfl, hlen, hts, hg1, rfl⟩
  · intro ix o hplace hoffer hix hdue hcore hadmits
    obtain ⟨b, ts, hadds, ⟨uid, rfl⟩, hlen, hts⟩ := s.admitShadow_adds g o core p
    exact ⟨_, _, ts, execBlockAdmission_shadow hg hplace hoffer hix hdue hcore hadmits, hadds.mem, hadds.blocks,
      hadds.teams, rfl, rfl, rfl, hlen, hts⟩
  · intro x hplace hoffer hadmits hfirst hturn hbefore
    have henters : BatchEnters s gid g x core p := ⟨hg, hplace, hoffer, hadmits, hfirst, hturn, hbefore⟩
    refine ⟨fun n hn => ?_, fun r q hn hr hq => ?_⟩
    · obtain ⟨s1, b, uid, quad, slot, e, heq, hadds, hindex, hcore, hgrp, hpc⟩ := s.admitNode_adds g n x core p
      rw [hgid] at heq
      obtain ⟨g1, hg1, hnodes⟩ := hadds.grid_modGrid (f := fun g => { g with
        nodes := modifyAt g.nodes x.node fun n => { n with slots := n.slots.set x.slot (.running x.count) } }) hg fun _ => rfl
      obtain ⟨hrecord, hblock, hteam, hcount⟩ := g.entryTeam_node b uid quad slot e n x
      refine ⟨_, b, _, _, (henters.node hn).trans (congrArg _ heq), hadds.mem, hadds.blocks, hadds.teams, hindex, hcore, rfl, hcore, hpc, rfl,
        hrecord, hblock, hteam, hcount, fun h hh => ?_, hg1, by rw [← hnodes]⟩
      rw [Team.setScalars_thread, g.entryTeam_enterLanes_life b uid quad slot e (by rwa [hgrp])]
    · obtain ⟨s1, f, b, uid, quad, slot, e, heq, hadds, hindex, hcore, hgrp, hpc⟩ := s.admitProposals_adds g r x core p hq
      obtain ⟨-, hblk, hon, hat⟩ := ((g.entryTeam b uid quad slot e).enterLanes q.proposals.length).enterProposals_keeps q.proposals
      obtain ⟨hblk', hon', hat'⟩ := Team.setScalars_keeps
        (((g.entryTeam b uid quad slot e).enterLanes q.proposals.length).enterProposals q.proposals) (proposalScalars q.proposals.length)
      refine ⟨_, b, _, (henters.relay hn hr).trans (congrArg _ heq), hadds.mem, hadds.blocks, hadds.teams, hindex, hcore, hblk'.trans hblk,
        hon'.trans (hon.trans hcore), hat'.trans (hat.trans hpc),
        Team.setScalars_readS _ (by simp [proposalScalars]) (by omega) (by simp [proposalScalars]), fun h pr hpr hh => ?_⟩
      rw [Team.setScalars_thread]
      exact g.entryTeam_proposal b uid quad slot e (by rwa [hgrp]) hpr
  · intro h dead hplace hoffer hadmits hbefore hbatches hdue hdead
    obtain ⟨s1, f, b, uid, quad, slot, e, heq, hadds, hcore, hgrp, hpc, htag⟩ := s.admitHandler_adds g h dead core p
    obtain ⟨hname, hslot, himage⟩ := (g.entryTeam b uid quad slot e).enterHandler_params h dead
    exact ⟨_, b, _, (execEstateHandlerAdmission_due hg hplace hoffer hadmits hbefore hbatches hdue hdead).trans (congrArg _ heq), hadds.mem,
      hadds.blocks, hadds.teams, rfl, hcore, hpc, htag, rfl, hname, hslot, himage, Team.enterHandler_frame _ h dead,
      fun k hk => by rw [Team.enterHandler_thread, g.entryTeam_enterLanes_life b uid quad slot e (by rwa [hgrp])]; exact Nat.lt_one_iff⟩

end Sys2Proof.Machine
end

section
/-! PROOF. Bytes at their homes (R125 to R132): what a read finds at a place of device memory, of a block's scratch or of the commons after
bytes were written at such places. -/

namespace Sys2Proof.Machine

open Sys2Proof Safety

variable {s s1 s2 : State}

/-! ### Places and the bytes laid over them -/

/-- The place of the next byte. -/
def Target.next : Target → Target
  | .phys pa => .phys (pa + 1)
  | .scratch b off => .scratch b (off + 1)
  | .commons c off => .commons c (off + 1)
  | .image r off => .image r (off + 1)

/-- The part has the place, outside images: device memory, the scratch of a block that is there, the commons of one of its cores. -/
def State.has (s : State) : Target → Prop
  | .phys _ => True
  | .scratch b _ => (s.block? b).isSome = true
  | .commons c _ => c < 576
  | .image _ _ => False

/-- The byte that the home of a place holds. -/
def State.byteAt (s : State) (tg : Target) : Byte := (s.homeBytes tg 1).headD 0

theorem State.homeBytes_one (s : State) (tg : Target) : s.homeBytes tg 1 = [s.byteAt tg] := by
  cases tg with
  | scratch b off => simp only [State.byteAt, State.homeBytes]; cases s.block? b <;> rfl
  | _ => rfl

theorem State.byteAt_phys (s : State) (a : Nat) : s.byteAt (.phys a) = Memory.read s.mem a := rfl

theorem State.byteAt_scratch (s : State) (k off : Nat) :
    s.byteAt (.scratch k off) = ((s.block? k).map fun b => Memory.read b.scratch off).getD 0 := by
  simp only [State.byteAt, State.homeBytes]
  cases s.block? k <;> rfl

theorem State.byteAt_commons (s : State) (c off : Nat) : s.byteAt (.commons c off) = Memory.read (s.coreAt c).commons off := rfl

/-- Bytes with their places, from one place on. -/
def cells (tg : Target) : List Byte → List (Target × Byte)
  | [] => []
  | b :: bs => (tg, b) :: cells tg.next bs

/-- What a place holds that held v, once bytes have been laid down in order. -/
def layOver (v : Byte) (l : List (Target × Byte)) (x : Target) : Byte := l.foldl (fun v c => if c.1 = x then c.2 else v) v

theorem layOver_append (v : Byte) (l l' : List (Target × Byte)) (x : Target) : layOver v (l ++ l') x = layOver (layOver v l x) l' x :=
  List.foldl_append

theorem layOver_outside (v : Byte) {l : List (Target × Byte)} {x : Target} (h : x ∉ l.map Prod.fst) : layOver v l x = v := by
  induction l generalizing v with
  | nil => rfl
  | cons c l ih =>
    rw [List.map_cons, List.mem_cons, not_or] at h
    exact (ih _ h.2).trans (if_neg (Ne.symm h.1))

/-- Of bytes that go to different places each stands where it was put. -/
theorem layOver_inside (v : Byte) {l : List (Target × Byte)} {x : Target} {b : Byte} (hl : (l.map Prod.fst).Nodup) (hx : (x, b) ∈ l) :
    layOver v l x = b := by
  induction l generalizing v with
  | nil => simp at hx
  | cons c l ih =>
    rw [List.map_cons, List.nodup_cons] at hl
    rcases List.mem_cons.mp hx with rfl | hx
    · exact (layOver_outside _ hl.1).trans (if_pos rfl)
    · exact ih _ hl.2 hx

/-- The places of one memory: an address of it each, one after the other. -/
structure Numbered (mk : Nat → Target) : Prop where
  inj : ∀ a b, mk a = mk b → a = b
  next : ∀ a, (mk a).next = mk (a + 1)

theorem Numbered.phys : Numbered .phys := ⟨fun _ _ h => Target.phys.inj h, fun _ => rfl⟩
theorem Numbered.scratch (k : Nat) : Numbered (.scratch k) := ⟨fun _ _ h => (Target.scratch.inj h).2, fun _ => rfl⟩
theorem Numbered.commons (c : Nat) : Numbered (.commons c) := ⟨fun _ _ h => (Target.commons.inj h).2, fun _ => rfl⟩

variable {mk : Nat → Target}

/-- Bytes stored in a memory are laid over what its places held. -/
theorem Numbered.read_writeBytes (hmk : Numbered mk) {m : Memory} (hm : Memory.wf m = true) (a x : Nat) (bs : List Byte) :
    Memory.read (Memory.writeBytes m a bs) x = layOver (Memory.read m x) (cells (mk a) bs) (mk x) := by
  induction bs generalizing m a with
  | nil => rfl
  | cons b bs ih =>
    rw [Memory.writeBytes, ih (Memory.wf_write m a b hm), cells, hmk.next]
    unfold layOver
    rw [List.foldl_cons]
    congr 1
    by_cases hx : a = x
    · rw [if_pos (by rw [hx]), ← hx, Memory.read_write_same m a b hm]
    · rw [if_neg fun h => hx (hmk.inj _ _ h), Memory.read_write_other m b (Ne.symm hx)]

/-- The places that consecutive bytes of a memory go to. -/
theorem Numbered.mem_cells (hmk : Numbered mk) {a : Nat} {bs : List Byte} {x : Target} :
    x ∈ (cells (mk a) bs).map Prod.fst ↔ ∃ k, k < bs.length ∧ x = mk (a + k) := by
  induction bs generalizing a with
  | nil => simp [cells]
  | cons b bs ih =>
    rw [cells, List.map_cons, List.mem_cons, hmk.next, ih]
    constructor
    · rintro (rfl | ⟨k, hk, rfl⟩)
      · exact ⟨0, Nat.zero_lt_succ _, rfl⟩
      · exact ⟨k + 1, Nat.succ_lt_succ hk, congrArg mk (by omega)⟩
    · rintro ⟨k, hk, rfl⟩
      cases k with
      | zero => exact .inl rfl
      | succ k => exact .inr ⟨k, Nat.lt_of_succ_lt_succ hk, congrArg mk (by omega)⟩

/-! ### What laying bytes down leaves -/

/-- A part without watchpoints or uncorrectable words, whose memories are in canonical form. -/
structure Sound (s : State) : Prop where
  watches : s.watches = []
  soft : s.soft = []
  poison : s.poison = []
  wf : memoriesWf s = true

/-- From s to s' these bytes are laid down, in order: every other place holds what it held, and grids, processes and blocks are there
as they were. -/
structure Lays (s s' : State) (l : List (Target × Byte)) : Prop where
  grids : s'.grids = s.grids
  procs : s'.procs = s.procs
  sound : Sound s → Sound s'
  blocks : ∀ k, (s'.block? k).isSome = (s.block? k).isSome
  bytes : Sound s → ∀ x, s.has x → s'.byteAt x = layOver (s.byteAt x) l x

theorem Lays.has {l : List (Target × Byte)} (h : Lays s s1 l) {x : Target} (hx : s.has x) : s1.has x := by
  cases x with
  | scratch b off => exact (h.blocks b).trans hx
  | _ => exact hx

theorem Lays.refl (s : State) : Lays s s [] := ⟨rfl, rfl, id, fun _ => rfl, fun _ _ _ => rfl⟩

theorem Lays.trans {l l' : List (Target × Byte)} (h : Lays s s1 l) (h' : Lays s1 s2 l') : Lays s s2 (l ++ l') where
  grids := h'.grids.trans h.grids
  procs := h'.procs.trans h.procs
  sound := fun hs => h'.sound (h.sound hs)
  blocks := fun k => (h'.blocks k).trans (h.blocks k)
  bytes := fun hs x hx => by rw [h'.bytes (h.sound hs) x (h.has hx), h.bytes hs x hx, layOver_append]

theorem Lays.modTeam (s : State) (n : Nat) {f : Team → Team} (hf : ∀ t, teamWf t = true → teamWf (f t) = true) : Lays s (s.modTeam n f) [] :=
  ⟨rfl, rfl, fun hs => ⟨hs.watches, hs.soft, hs.poison, memoriesWf_modTeam hs.wf hf⟩, fun _ => rfl, fun _ x hx => by
    cases x with
    | image r off => exact hx.elim
    | _ => rfl⟩

/-- An update of blocks that leaves their scratch alone. -/
theorem Lays.modBlock (s : State) (n : Nat) {f : Block → Block} (hid : ∀ b, (f b).uid = b.uid) (hscr : ∀ b, (f b).scratch = b.scratch)
    (hf : ∀ b, blockWf b = true → blockWf (f b) = true) : Lays s (s.modBlock n f) [] where
  grids := rfl
  procs := rfl
  sound := fun hs => ⟨hs.watches, hs.soft, hs.poison, memoriesWf_modBlock hs.wf hf⟩
  blocks := fun k => by rw [State.block?_modBlock s f hid, Option.isSome_map]
  bytes := fun _ x hx => by
    cases x with
    | image r off => exact hx.elim
    | scratch k off =>
      rw [State.byteAt_scratch, State.byteAt_scratch, State.block?_modBlock s f hid, Option.map_map]
      change Option.getD (Option.map _ _) 0 = Option.getD (Option.map _ _) 0
      congr 2
      funext b
      by_cases hk : k = n <;> simp [hk, hscr]
    | _ => rfl

/-- An update of a core that leaves its commons alone. -/
theorem Lays.modCore (s : State) (n : Nat) {f : CoreState → CoreState} (hcom : ∀ c, (f c).commons = c.commons)
    (hf : ∀ c, coreWf c = true → coreWf (f c) = true) : Lays s (s.modCore n f) [] where
  grids := rfl
  procs := rfl
  sound := fun hs => ⟨hs.watches, hs.soft, hs.poison, memoriesWf_modCore hs.wf hf⟩
  blocks := fun _ => rfl
  bytes := fun _ x hx => by
    cases x with
    | image r off => exact hx.elim
    | commons c off =>
      rw [State.byteAt_commons, State.coreAt_modCore]
      split
      · rename_i h
        rw [hcom, ← h.1]
        rfl
      · rfl
    | _ => rfl

/-! ### Bytes written at their home -/

theorem State.scrubWords_sound (h : s.soft = []) (site : Nat → SoftErrorSite) (off n : Nat) : s.scrubWords site off n = s := by
  simp [State.scrubWords, h]

theorem State.writeHome_phys (hs : s.soft = []) (hp : s.poison = []) (a : Nat) (bs : List Byte) (w : Bool) :
    s.writeHome (.phys a) bs w = { s with mem := Memory.writeBytes s.mem a bs } := by
  simp [State.writeHome, State.scrubWords_sound hs, State.badSector, hp]

/-- The block with bytes written to its scratch. -/
def Block.store (b : Block) (a : Nat) (bs : List Byte) : Block :=
  { b with scratch := Memory.writeBytes b.scratch a bs, sdirty := markLines b.sdirty a bs.length }

theorem Block.store_uid (b : Block) (a : Nat) (bs : List Byte) : (b.store a bs).uid = b.uid := rfl

theorem State.writeHome_scratch (hs : s.soft = []) (k a : Nat) (bs : List Byte) (w : Bool) :
    s.writeHome (.scratch k a) bs w = s.modBlock k fun x => x.store a bs := by
  rw [State.writeHome, State.scrubWords_sound hs]
  rfl

theorem State.writeHome_commons (hs : s.soft = []) (c a : Nat) (bs : List Byte) (w : Bool) : s.writeHome (.commons c a) bs w =
    s.modCore c fun x => { x with commons := Memory.writeBytes x.commons a bs } := by
  rw [State.writeHome, State.scrubWords_sound hs]

theorem blockWf_scratch {b : Block} (h : blockWf b = true) : Memory.wf b.scratch = true := by
  simp only [blockWf, Bool.and_eq_true] at h
  exact h.1.1.1

theorem coreWf_commons {c : CoreState} (h : coreWf c = true) : Memory.wf c.commons = true := by
  simp only [coreWf, Bool.and_eq_true] at h
  exact h.1

theorem Sound.mem (hs : Sound s) : Memory.wf s.mem = true := ((memoriesWf_iff s).mp hs.wf).1

theorem Sound.block {b : Block} {k : Nat} (hs : Sound s) (h : s.block? k = some b) : Memory.wf b.scratch = true :=
  blockWf_scratch (((memoriesWf_iff s).mp hs.wf).2.1 b (List.mem_of_find?_eq_some h))

theorem Sound.commons {c : Nat} (hs : Sound s) (h : c < 576) : Memory.wf (s.coreAt c).commons = true :=
  coreWf_commons (((memoriesWf_iff s).mp hs.wf).2.2.1 c h)

/-- A place of another memory than the one that bytes are written to. -/
theorem Numbered.layOver_other (hmk : Numbered mk) (v : Byte) (a : Nat) (bs : List Byte) {x : Target} (hx : ∀ n, x ≠ mk n) :
    layOver v (cells (mk a) bs) x = v :=
  layOver_outside v fun h => by
    obtain ⟨k, -, rfl⟩ := hmk.mem_cells.mp h
    exact hx _ rfl

theorem Lays.writeMem (hs : Sound s) (a : Nat) (bs : List Byte) :
    Lays s { s with mem := Memory.writeBytes s.mem a bs } (cells (.phys a) bs) where
  grids := rfl
  procs := rfl
  sound := fun hs => ⟨hs.watches, hs.soft, hs.poison, memoriesWf_withMem hs.wf (Memory.wf_writeBytes _ a bs hs.mem)⟩
  blocks := fun _ => rfl
  bytes := fun _ x hx => by
    cases x with
    | phys n => exact Numbered.phys.read_writeBytes hs.mem a n bs
    | image r off => exact hx.elim
    | _ => exact (Numbered.phys.layOver_other _ a bs fun n h => by cases h).symm

theorem Lays.writeScratch (hs : Sound s) (k a : Nat) (bs : List Byte) :
    Lays s (s.modBlock k fun x => x.store a bs) (cells (.scratch k a) bs) where
  grids := rfl
  procs := rfl
  sound := fun hs => ⟨hs.watches, hs.soft, hs.poison, memoriesWf_modBlock hs.wf fun b hb => by
    have hscr := Memory.wf_writeBytes b.scratch a bs (blockWf_scratch hb)
    simp only [blockWf, Bool.and_eq_true] at hb ⊢
    exact ⟨⟨⟨hscr, hb.1.1.2⟩, hb.1.2⟩, hb.2⟩⟩
  blocks := fun n => by
    rw [State.block?_modBlock _ _ fun x => x.store_uid a bs, Option.isSome_map]
  bytes := fun _ x hx => by
    cases x with
    | scratch n off =>
      rw [State.byteAt_scratch, State.byteAt_scratch, State.block?_modBlock _ _ fun x => x.store_uid a bs]
      obtain ⟨b, hb⟩ := Option.isSome_iff_exists.mp (show (s.block? n).isSome = true from hx)
      rw [hb]
      by_cases hn : n = k
      · subst hn
        simpa [Block.store] using (Numbered.scratch n).read_writeBytes (hs.block hb) a off bs
      · simpa [hn] using ((Numbered.scratch k).layOver_other _ a bs fun m h => hn (Target.scratch.inj h).1).symm
    | image r off => exact hx.elim
    | _ => exact ((Numbered.scratch k).layOver_other _ a bs fun n h => by cases h).symm

theorem Lays.writeCommons (hs : Sound s) {c : Nat} (hc : c < 576) (a : Nat) (bs : List Byte) :
    Lays s (s.modCore c fun x => { x with commons := Memory.writeBytes x.commons a bs }) (cells (.commons c a) bs) where
  grids := rfl
  procs := rfl
  sound := fun hs => ⟨hs.watches, hs.soft, hs.poison, memoriesWf_modCore hs.wf fun x hx => by
    have hcom := Memory.wf_writeBytes x.commons a bs (coreWf_commons hx)
    simp only [coreWf, Bool.and_eq_true] at hx ⊢
    exact ⟨hcom, hx.2⟩⟩
  blocks := fun _ => rfl
  bytes := fun _ x hx => by
    cases x with
    | commons n off =>
      rw [State.byteAt_commons, State.byteAt_commons, State.coreAt_modCore]
      by_cases hn : n = c
      · subst hn
        rw [if_pos ⟨rfl, hc⟩]
        exact (Numbered.commons n).read_writeBytes (hs.commons hc) a off bs
      · rw [if_neg fun h => hn h.1]
        exact ((Numbered.commons c).layOver_other _ a bs fun m h => hn (Target.commons.inj h).1).symm
    | image r off => exact hx.elim
    | _ => exact ((Numbered.commons c).layOver_other _ a bs fun n h => by cases h).symm

/-- Bytes written from a place on are laid down there. -/
theorem State.writeHome_lays (hs : Sound s) {tg : Target} (htg : s.has tg) (bs : List Byte) (w : Bool) :
    Lays s (s.writeHome tg bs w) (cells tg bs) := by
  cases tg with
  | phys a => rw [State.writeHome_phys hs.soft hs.poison]; exact .writeMem hs a bs
  | scratch k a => rw [State.writeHome_scratch hs.soft]; exact .writeScratch hs k a bs
  | commons c a => rw [State.writeHome_commons hs.soft]; exact .writeCommons hs htg a bs
  | image r off => exact htg.elim

end Sys2Proof.Machine
end

section
/-! PROOF. The Courier (R148 to R152): where the bytes of a chunk go, what moving them leaves, how a request's bytes are counted down, and how
it ends. -/

namespace Sys2Proof.Machine

open Sys2Proof Safety

variable {s s1 s2 : State} {b : Block} {q : CopyReq} {p : Process}

/-! ### Where the bytes of a chunk lie -/

/-- A place that a copy for block blk writes to: its scratch, the commons, device memory. -/
def Target.landable (blk : Nat) : Target → Prop
  | .phys _ => True
  | .scratch k _ => k = blk
  | .commons c off => c < 576 ∧ off < 2 ^ 19
  | .image _ _ => False

theorem State.commonsAt_range {d addr size c off : Nat} (h : s.commonsAt d addr size = some (c, off)) : off < 2 ^ 19 := by
  simp only [State.commonsAt] at h
  split at h
  · cases h
  · split at h
    · simp only [Option.some.injEq, Prod.mk.injEq] at h
      rw [← h.2]
      simp only [bitsOf]
      omega
    · cases h

/-- A byte of a copy is at the address that R150 gives it, and at a place where bytes of a copy may land if it is writable. -/
theorem State.copyPlace_at {side : CopySide} {base : Double} {stride : Word} {need : Need} {r k : Nat} {tg : Target} {y : Double}
    (h : s.copyPlace b p q side base stride need r k = .at tg y) :
    y = copyAddr base stride r k ∧ (Writable tg → tg.landable b.uid) := by
  unfold State.copyPlace at h
  extract_lets a at h
  cases side with
  | scratch =>
    injection h with htg hy
    exact ⟨hy.symm, fun _ => htg ▸ rfl⟩
  | peer => cases h
  | commons =>
    dsimp only at h
    split at h
    · rename_i c off hc
      injection h with htg hy
      exact ⟨hy.symm, fun hw => by subst htg; exact ⟨hw, State.commonsAt_range hc⟩⟩
    · cases h
  | device =>
    dsimp only at h
    split at h
    · split at h
      · injection h with htg hy
        exact ⟨hy.symm, fun hw => by subst htg; exact hw.elim⟩
      · cases h
    · split at h
      · injection h with htg hy
        exact ⟨hy.symm, fun _ => htg ▸ trivial⟩
      · cases h

theorem Target.landable_has {tg : Target} (h : tg.landable b.uid) (hb : s.block? b.uid = some b) : s.has tg := by
  cases tg with
  | phys a => trivial
  | scratch k off => exact (congrArg Option.isSome ((congrArg s.block? h).trans hb)).trans rfl
  | commons c off => exact h.1
  | image r off => exact h

/-! ### Pieces -/

/-- The bytes of a piece with their places. -/
def CopyPiece.cells (p : CopyPiece) : List (Target × Byte) := Machine.cells p.tg p.bytes

/-- Of two places where a copy may land the second follows the first when it does in the same space, by its key. -/
theorem Target.next_of_key {blk : Nat} {tg tg' : Target} (h : tg.landable blk) (h' : tg'.landable blk) (hspace : tg.space = tg'.space)
    (hkey : tg.key + 1 = tg'.key) : tg.next = tg' := by
  cases tg <;> cases tg' <;> simp only [Target.space, Target.landable, Target.key, reduceCtorEq] at hspace h h' hkey
  · rw [Target.next, hkey]
  · rw [Target.next, Target.scratch.injEq]
    omega
  · rw [Target.next, Target.commons.injEq]
    omega

theorem joinPieces_tg {l : List (Target × Double × Byte)} {p : CopyPiece} (h : p ∈ joinPieces l) : ∃ x ∈ l, p.tg = x.1 := by
  induction l generalizing p with
  | nil => cases h
  | cons x l ih =>
    obtain ⟨tg, a, v⟩ := x
    simp only [joinPieces] at h
    split at h
    · simp only [List.mem_singleton] at h
      exact ⟨_, List.mem_cons_self .., h ▸ rfl⟩
    · rename_i p0 ps hjoin
      have hrest : ∀ p' ∈ p0 :: ps, ∃ x ∈ (tg, a, v) :: l, p'.tg = x.1 := fun p' hp' => by
        obtain ⟨x, hx, htg⟩ := ih (hjoin ▸ hp')
        exact ⟨x, List.mem_cons_of_mem _ hx, htg⟩
      split at h
      · rcases List.mem_cons.mp h with rfl | h
        · exact ⟨_, List.mem_cons_self .., rfl⟩
        · exact hrest p (List.mem_cons_of_mem _ h)
      · rcases List.mem_cons.mp h with rfl | h
        · exact ⟨_, List.mem_cons_self .., rfl⟩
        · exact hrest p h

/-- The pieces of a chunk hold its bytes at their places, in order. -/
theorem cells_joinPieces {blk : Nat} {l : List (Target × Double × Byte)} (h : ∀ x ∈ l, x.1.landable blk) :
    (joinPieces l).flatMap CopyPiece.cells = l.map fun x => (x.1, x.2.2) := by
  induction l with
  | nil => rfl
  | cons x l ih =>
    obtain ⟨tg, a, v⟩ := x
    have hrest := ih fun x hx => h x (List.mem_cons_of_mem _ hx)
    rw [List.map_cons, ← hrest]
    simp only [joinPieces]
    split
    · rename_i hjoin
      rw [hjoin]
      rfl
    · rename_i p0 ps hjoin
      rw [hjoin]
      split
      · rename_i hmerge
        simp only [Bool.and_eq_true, decide_eq_true_eq] at hmerge
        obtain ⟨x, hx, htg⟩ := joinPieces_tg (hjoin ▸ List.mem_cons_self .. : p0 ∈ joinPieces l)
        have hnext := Target.next_of_key (h _ (List.mem_cons_self ..)) (htg ▸ h x (List.mem_cons_of_mem _ hx)) hmerge.1.1 hmerge.1.2
        simp only [List.flatMap_cons, CopyPiece.cells, Machine.cells, hnext, List.cons_append]
      · rfl

/-! ### What moving bytes leaves of teams and Couriers -/

/-- What a team has counted of its copies: its batches and CBYTES. -/
def Team.copyWork (t : Team) : List BatchItem × List (Nat × List BatchItem) × Double := (t.openBatch, t.batches, t.cbytes)

/-- Every team's batches and CBYTES, and what every Courier has, are as they were. -/
structure SameWork (s s' : State) : Prop where
  teams : ∀ n, (s'.team? n).map Team.copyWork = (s.team? n).map Team.copyWork
  couriers : ∀ k, (s'.coreAt k).courier = (s.coreAt k).courier

theorem SameWork.refl (s : State) : SameWork s s := ⟨fun _ => rfl, fun _ => rfl⟩

theorem SameWork.trans (h : SameWork s s1) (h' : SameWork s1 s2) : SameWork s s2 :=
  ⟨fun n => (h'.teams n).trans (h.teams n), fun k => (h'.couriers k).trans (h.couriers k)⟩

theorem SameWork.modTeam (s : State) (n : Nat) {f : Team → Team} (hid : ∀ t, (f t).uid = t.uid) (hf : ∀ t, (f t).copyWork = t.copyWork) :
    SameWork s (s.modTeam n f) :=
  ⟨fun k => by
    rw [State.team?_modTeam s f hid, Option.map_map]
    congr 1
    funext t
    by_cases hk : k = n <;> simp [hk, hf], fun _ => rfl⟩

theorem SameWork.modCore (s : State) (n : Nat) {f : CoreState → CoreState} (hf : ∀ c, (f c).courier = c.courier) : SameWork s (s.modCore n f) :=
  ⟨fun _ => rfl, fun k => by
    rw [State.coreAt_modCore]
    split
    · rename_i h
      rw [hf, h.1]
    · rfl⟩

theorem State.writeHome_sameWork (hs : Sound s) {tg : Target} (htg : s.has tg) (bs : List Byte) (w : Bool) : SameWork s (s.writeHome tg bs w) := by
  cases tg with
  | phys a => rw [State.writeHome_phys hs.soft hs.poison]; exact ⟨fun _ => rfl, fun _ => rfl⟩
  | scratch k a => rw [State.writeHome_scratch hs.soft]; exact ⟨fun _ => rfl, fun _ => rfl⟩
  | commons c a => rw [State.writeHome_commons hs.soft]; exact .modCore s c fun _ => rfl
  | image r off => exact htg.elim

/-! ### A piece is written -/

theorem State.digestBytes_lays (s : State) (t : Team) (a : Double) (bs : List Byte) : Lays s (s.digestBytes t a bs) [] := by
  unfold State.digestBytes
  split
  · split
    · exact .modBlock s _ (fun _ => rfl) (fun _ => rfl) fun _ h => h
    · exact .refl s
  · exact .refl s

theorem State.digestBytes_sameWork (s : State) (t : Team) (a : Double) (bs : List Byte) : SameWork s (s.digestBytes t a bs) := by
  unfold State.digestBytes
  split
  · split
    · exact ⟨fun _ => rfl, fun _ => rfl⟩
    · exact .refl s
  · exact .refl s

/-- The request's team and its block note the piece for their digests (R180). -/
def State.digestPiece (s : State) (q : CopyReq) (p : CopyPiece) : State :=
  match s.team? q.team with
  | some t =>
    if p.tg.space != .scratch then
      (s.digestBytes t p.addr p.bytes).modTeam q.team fun t => { t with
        peerCopies := t.peerCopies.map fun x => if x.req = q.id then { x with sum := x.sum + hashBytes p.addr p.bytes } else x }
    else s
  | none => s

/-- The core's L1 takes the piece (R135). -/
def State.patchPiece (s : State) (core : Nat) (p : CopyPiece) : State :=
  match s.cachePa p.tg with
  | some pa => s.modCore core fun c => c.patchLine pa p.bytes
  | none => s

/-- A piece of a copy of a block that is no shadow: the digests, L1, and the piece at its home. -/
theorem State.writePiece_eq (hb : b.shadowOf = none) (q : CopyReq) (p : CopyPiece)
    (hw : (((s.digestPiece q p).patchPiece b.core p).writeHome p.tg p.bytes (p.bytes.length == 32)).watches = []) : s.writePiece b q p =
    ((s.digestPiece q p).patchPiece b.core p).writeHome p.tg p.bytes (p.bytes.length == 32) := by
  unfold State.writePiece
  rw [if_neg (by simp [hb])]
  exact State.checkWatch_unwatched hw _ _ _ _ _

theorem State.digestPiece_keeps (s : State) (q : CopyReq) (p : CopyPiece) : Lays s (s.digestPiece q p) [] ∧ SameWork s (s.digestPiece q p) := by
  unfold State.digestPiece
  split
  · split
    · exact ⟨(s.digestBytes_lays _ _ _).trans (.modTeam _ _ fun _ h => h), (s.digestBytes_sameWork _ _ _).trans
        (.modTeam _ _ (fun _ => rfl) fun _ => rfl)⟩
    · exact ⟨.refl s, .refl s⟩
  · exact ⟨.refl s, .refl s⟩

theorem CoreState.patchLine_keeps (c : CoreState) (pa : Nat) (bs : List Byte) :
    (c.patchLine pa bs).commons = c.commons ∧ (c.patchLine pa bs).weights = c.weights ∧ (c.patchLine pa bs).courier = c.courier := by
  unfold CoreState.patchLine
  split <;> exact ⟨rfl, rfl, rfl⟩

theorem State.patchPiece_keeps (s : State) (core : Nat) (p : CopyPiece) :
    Lays s (s.patchPiece core p) [] ∧ SameWork s (s.patchPiece core p) := by
  unfold State.patchPiece
  split
  · rename_i pa _
    have hkeeps := fun c : CoreState => c.patchLine_keeps pa p.bytes
    refine ⟨.modCore s core (fun c => (hkeeps c).1) fun c hc => ?_, .modCore s core fun c => (hkeeps c).2.2⟩
    rwa [coreWf, (hkeeps c).1, (hkeeps c).2.1]
  · exact ⟨.refl s, .refl s⟩

theorem State.writePiece_lays (hs : Sound s) (hb : b.shadowOf = none) (q : CopyReq) {p : CopyPiece} (hp : s.has p.tg) :
    Lays s (s.writePiece b q p) p.cells ∧ SameWork s (s.writePiece b q p) := by
  obtain ⟨hlays1, hwork1⟩ := s.digestPiece_keeps q p
  obtain ⟨hlays2, hwork2⟩ := (s.digestPiece q p).patchPiece_keeps b.core p
  have hlays := hlays1.trans hlays2
  have hwrite := hlays.trans (State.writeHome_lays (hlays.sound hs) (hlays.has hp) p.bytes (p.bytes.length == 32))
  rw [State.writePiece_eq hb q p (hwrite.sound hs).watches]
  exact ⟨hwrite, (hwork1.trans hwork2).trans (State.writeHome_sameWork (hlays.sound hs) (hlays.has hp) _ _)⟩

theorem State.writePieces_lays (hs : Sound s) (hb : b.shadowOf = none) (q : CopyReq) {l : List CopyPiece} (hl : ∀ p ∈ l, s.has p.tg) :
    Lays s (l.foldl (fun s p => s.writePiece b q p) s) (l.flatMap CopyPiece.cells) ∧
      SameWork s (l.foldl (fun s p => s.writePiece b q p) s) := by
  induction l generalizing s with
  | nil => exact ⟨.refl s, .refl s⟩
  | cons p l ih =>
    obtain ⟨hlays, hwork⟩ := State.writePiece_lays hs hb q (hl p (List.mem_cons_self ..))
    obtain ⟨hlays', hwork'⟩ := ih (hlays.sound hs) fun p hp => hlays.has (hl p (List.mem_cons_of_mem _ hp))
    exact ⟨hlays.trans hlays', hwork.trans hwork'⟩

/-! ### Barrier objects (R151) -/

theorem leNat_lt (l : List Byte) : leNat l < 256 ^ l.length := by
  induction l with
  | nil => simp [leNat]
  | cons x l ih =>
    have := x.isLt
    rw [leNat, List.length_cons, Nat.pow_succ]
    omega

theorem leBytes_length (n v : Nat) : (leBytes n v).length = n := by
  induction n generalizing v with
  | zero => rfl
  | succ n ih => rw [leBytes, List.length_cons, ih]

theorem leNat_leBytes (n v : Nat) (h : v < 256 ^ n) : leNat (leBytes n v) = v := by
  induction n generalizing v with
  | zero => simp only [Nat.pow_zero, Nat.lt_one_iff] at h; exact h.symm
  | succ n ih =>
    rw [Nat.pow_succ] at h
    rw [leBytes, leNat, ih (v / 256) (by omega), BitVec.toNat_ofNat]
    omega

theorem Block.obj_lt (b : Block) (off : Nat) : b.obj off < 2 ^ 128 := by
  have h := leNat_lt (Memory.readBytes b.scratch off 16)
  rw [show (Memory.readBytes b.scratch off 16).length = 16 by simp [Memory.readBytes]] at h
  exact h

/-- An object with ERR set. -/
theorem lor_err_lt {x : Nat} (hx : x < 2 ^ 128) : Nat.lor x (2 ^ 126) < 2 ^ 128 :=
  Nat.or_lt_two_pow hx (Nat.pow_lt_pow_right (by omega) (by omega))

/-- The phase bit above 127 others. -/
theorem add_phase_lt {y : Nat} (ph : Bool) (hy : y < 2 ^ 127) : y + (if ph then 2 ^ 127 else 0) < 2 ^ 128 := by
  cases ph <;> simp only [Bool.false_eq_true, if_false, if_true] <;> omega

theorem countDown_lt {x : Nat} (n : Nat) (hx : x < 2 ^ 128) : (countDown x n).1 < 2 ^ 128 := by
  unfold countDown
  extract_lets init c0 k c ph
  split
  · exact lor_err_lt hx
  · exact add_phase_lt ph (by clear_value c; omega)

/-- The block with an object stored in its scratch. -/
def Block.putObj (off x : Nat) (b : Block) : Block := b.store off (leBytes 16 x)

theorem Block.store_scratch (b : Block) (a : Nat) (bs : List Byte) : (b.store a bs).scratch = Memory.writeBytes b.scratch a bs := rfl

theorem Block.putObj_uid (off x : Nat) (b : Block) : (b.putObj off x).uid = b.uid := b.store_uid off (leBytes 16 x)

theorem Block.putObj_scratch (off x : Nat) (b : Block) : (b.putObj off x).scratch = Memory.writeBytes b.scratch off (leBytes 16 x) :=
  b.store_scratch off (leBytes 16 x)

theorem Block.putObj_wf {off x : Nat} (hwf : Memory.wf b.scratch = true) : Memory.wf (b.putObj off x).scratch = true := by
  rw [Block.putObj_scratch]
  exact Memory.wf_writeBytes _ _ _ hwf

/-- An object that is stored is read back, and no other byte of scratch changes. -/
theorem Block.putObj_obj {off x : Nat} (hwf : Memory.wf b.scratch = true) (hx : x < 2 ^ 128) : (b.putObj off x).obj off = x := by
  have h := Memory.readBytes_writeBytes b.scratch off (leBytes 16 x) hwf
  rw [leBytes_length] at h
  rw [Block.obj, Memory.readNat, Block.putObj_scratch, h, leNat_leBytes 16 x hx]

theorem Block.putObj_outside {off : Nat} (x : Nat) {o : Nat} (ho : within o off 16 = false) :
    Memory.read (b.putObj off x).scratch o = Memory.read b.scratch o := by
  rw [Block.putObj_scratch]
  refine Memory.read_writeBytes_outside _ _ _ ?_
  simp only [within, Bool.and_eq_false_iff, decide_eq_false_iff_not] at ho
  rw [leBytes_length]
  omega

/-- Two updates of the block of one number are one. -/
theorem State.modBlock_modBlock (s : State) (n : Nat) {f g : Block → Block} (hf : ∀ b, (f b).uid = b.uid) :
    (s.modBlock n f).modBlock n g = s.modBlock n fun b => g (f b) := by
  simp only [State.modBlock, List.map_map]
  congr 1
  refine List.map_congr_left fun b _ => ?_
  by_cases hb : b.uid = n <;> simp [hb, hf]

theorem State.block?_modBlock_self {n : Nat} {f : Block → Block} (h : s.block? n = some b) (hf : ∀ b, (f b).uid = b.uid) :
    (s.modBlock n f).block? n = some (f b) := by
  rw [State.block?_modBlock s f hf, h, Option.map_some, if_pos rfl]

theorem State.putObj_eq (hs : s.soft = []) (k off x : Nat) : s.putObj k off x = s.modBlock k (Block.putObj off x) :=
  State.writeHome_scratch hs k off _ true

theorem State.countDownAt_eq (hw : s.watches = []) (hs : s.soft = []) (by_ : HitBy) {k : Nat} (hb : s.block? k = some b) (off n : Nat) :
    (s.countDownAt by_ k off n).1 = s.modBlock k (Block.putObj off (countDown (b.obj off) n).1) := by
  have hput : (s.modBlock k (Block.putObj off (countDown (b.obj off) n).1)).watches = [] := hw
  simp only [State.countDownAt, hb, State.putObj_eq hs, State.checkWatch_unwatched hput]

/-- A request's bytes are counted down at its barrier object, without an error. -/
theorem State.countCopy_clean (hw : s.watches = []) (hs : s.soft = []) (hb : s.block? q.blk = some b) (n : Nat) :
    s.countCopy q n 0 = s.modBlock q.blk (Block.putObj q.bar (countDown (b.obj q.bar) n).1) := by
  rw [State.countCopy, if_pos rfl, State.countDownAt_eq hw hs _ hb]

/-- The same with an error, which ERR shows (R152). -/
theorem State.countCopy_error (hw : s.watches = []) (hs : s.soft = []) (hb : s.block? q.blk = some b) (hwf : Memory.wf b.scratch = true) (n : Nat)
    {st : Byte} (hst : st ≠ 0) : s.countCopy q n st = s.modBlock q.blk fun x => (x.putObj q.bar (countDown (b.obj q.bar) n).1).putObj q.bar
      (Nat.lor (countDown (b.obj q.bar) n).1 (2 ^ 126)) := by
  have hfound := State.block?_modBlock_self hb (Block.putObj_uid q.bar (countDown (b.obj q.bar) n).1)
  have hread : (b.putObj q.bar (countDown (b.obj q.bar) n).1).obj q.bar = _ := Block.putObj_obj hwf (countDown_lt n (b.obj_lt _))
  rw [State.countCopy, if_neg hst, State.countDownAt_eq hw hs _ hb, State.setErr, hfound]
  dsimp only
  rw [hread, State.putObj_eq (by exact hs), State.modBlock_modBlock _ _ (Block.putObj_uid _ _)]

/-! ### A request ends -/

/-- What the end of a request makes of its team: its item is complete, with a status. -/
def Team.endItem (req : Nat) (st : Byte) (t : Team) : Team :=
  { t with openBatch := setItem req st t.openBatch, batches := t.batches.map (fun b => (b.1, setItem req st b.2)),
           peerCopies := t.peerCopies.map fun x => if x.req = req then { x with status := some st } else x }

theorem State.completeCopy_eq (s : State) (core : Nat) (q : CopyReq) (st : Byte) : s.completeCopy core q st =
    (s.modCore core fun c => { c with courier := c.courier.filter fun x => x.id != q.id }).modTeam q.team (Team.endItem q.id st) := rfl

/-- A request that is abandoned stops with its status (R152). -/
theorem State.abandonCopy_stops {core : Nat} (hc : Copying s core q b p) (hw : s.watches = []) (hs : s.soft = []) (hwf : Memory.wf b.scratch = true)
    {st : Byte} (hst : st ≠ 0) : CopyStops s (s.abandonCopy core q st) core q b st := by
  obtain ⟨x, hx⟩ : ∃ x, x = (countDown (b.obj q.bar) (q.total - q.counted)).1 := ⟨_, rfl⟩
  have hlt : x < 2 ^ 128 := hx ▸ countDown_lt _ (b.obj_lt _)
  rw [State.abandonCopy, State.countCopy_error hw hs hc.block hwf _ hst, State.completeCopy_eq, ← hx]
  refine ⟨rfl, rfl, ?_, ⟨(b.putObj q.bar x).putObj q.bar (Nat.lor x (2 ^ 126)), ?_, ?_, fun o ho => ?_⟩, fun t ht => ?_⟩
  · rw [State.modTeam_coreAt, State.coreAt_modCore, if_pos ⟨rfl, hc.range⟩]
    rfl
  · rw [State.modTeam_block?, State.modCore_block?]
    exact State.block?_modBlock_self hc.block fun _ => (Block.putObj_uid _ _ _).trans (Block.putObj_uid _ _ _)
  · rw [← hx]
    exact Block.putObj_obj (Block.putObj_wf hwf) (lor_err_lt hlt)
  · rw [Block.putObj_outside _ ho, Block.putObj_outside _ ho]
  · exact ⟨t.endItem q.id st, State.team?_modTeam_self ht fun _ => rfl, rfl⟩

end Sys2Proof.Machine
end

section
/-! PROOF. A chunk of a copy (R150 to R152), the end of a pause, a peer that does not answer, and a die cycle of the token pool (R195, R199). -/

namespace Sys2Proof.Machine

open Sys2Proof Safety

variable {s s1 s2 : State} {core n : Nat} {b : Block} {q : CopyReq} {p : Process} {c : CopyChunk} {t : Team} {dx sx : Nat → Target}
  {ad : Nat → Double} {val : Nat → Byte}

/-! ### What a chunk leaves -/

/-- The team has counted n more bytes of its copies. -/
def Team.countBytes (n : Nat) (t : Team) : Team := { t with cbytes := t.cbytes + BitVec.ofNat 64 n }

/-- The part once n bytes val i stand at dx i and are counted: of the request's block only the barrier object changes besides; its team
and its Courier are then left as ft and fl make them. -/
structure ChunkMoves (s s' : State) (core : Nat) (q : CopyReq) (b : Block) (t : Team) (n : Nat) (dx : Nat → Target) (val : Nat → Byte)
    (fl : List CopyReq → List CopyReq) (ft : Team → Team) : Prop where
  grids : s'.grids = s.grids
  procs : s'.procs = s.procs
  bytes : ∀ i, i < n → s'.homeBytes (dx i) 1 = [val i]
  mem : ∀ a, (∀ i, i < n → dx i ≠ .phys a) → Memory.read s'.mem a = Memory.read s.mem a
  block : ∃ b', s'.block? q.blk = some b' ∧ b'.obj q.bar = (countDown (b.obj q.bar) n).1 ∧
    ∀ o, (∀ i, i < n → dx i ≠ .scratch b.uid o) → within o q.bar 16 = false → Memory.read b'.scratch o = Memory.read b.scratch o
  team : ∃ u : Team, s'.team? q.team = some (ft (u.countBytes n)) ∧ u.openBatch = t.openBatch ∧ u.batches = t.batches ∧ u.cbytes = t.cbytes
  courier : (s'.coreAt core).courier = fl (s.coreAt core).courier

/-- The places of a chunk's bytes are apart from one another and from the barrier object. -/
structure Apart (b : Block) (q : CopyReq) (n : Nat) (dx : Nat → Target) : Prop where
  distinct : ∀ i, i < n → ∀ k, k < i → dx k ≠ dx i
  bar : ∀ i, i < n → ∀ o, dx i = .scratch b.uid o → within o q.bar 16 = false

/-- A chunk's bytes with their places. -/
def chunkCells (n : Nat) (dx : Nat → Target) (val : Nat → Byte) : List (Target × Byte) := (List.range n).map fun i => (dx i, val i)

theorem chunkCells_fst (n : Nat) (dx : Nat → Target) (val : Nat → Byte) : (chunkCells n dx val).map Prod.fst = (List.range n).map dx := by
  rw [chunkCells, List.map_map]
  rfl

theorem Apart.nodup (h : Apart b q n dx) : ((chunkCells n dx val).map Prod.fst).Nodup := by
  rw [chunkCells_fst]
  refine List.Nodup.map_on (fun i hi k hk heq => ?_) List.nodup_range
  rw [List.mem_range] at hi hk
  rcases Nat.lt_trichotomy i k with hlt | rfl | hlt
  · exact absurd heq (h.distinct k hk i hlt)
  · rfl
  · exact absurd heq.symm (h.distinct i hi k hlt)

theorem not_mem_chunkCells {x : Target} (h : ∀ i, i < n → dx i ≠ x) : x ∉ (chunkCells n dx val).map Prod.fst := by
  rw [chunkCells_fst]
  intro hx
  obtain ⟨i, hi, rfl⟩ := List.mem_map.mp hx
  exact h i (List.mem_range.mp hi) rfl

/-- The object's bytes are none of the places that lie apart from it. -/
theorem not_mem_objCells {k off x : Nat} {tg : Target} (h : ∀ o, tg = .scratch k o → within o off 16 = false) :
    tg ∉ (cells (.scratch k off) (leBytes 16 x)).map Prod.fst := by
  intro hx
  obtain ⟨i, hi, rfl⟩ := (Numbered.scratch k).mem_cells.mp hx
  rw [leBytes_length] at hi
  have := h _ rfl
  simp only [within, Bool.and_eq_false_iff, decide_eq_false_iff_not] at this
  omega

theorem Block.obj_congr {b' : Block} {off : Nat} (h : ∀ k, k < 16 → Memory.read b'.scratch (off + k) = Memory.read b.scratch (off + k)) :
    b'.obj off = b.obj off := by
  unfold Block.obj Memory.readNat Memory.readBytes
  congr 1
  exact List.map_congr_left fun k hk => h k (List.mem_range.mp hk)

/-- Laying bytes down that are apart from an object leaves the object. -/
theorem Lays.obj (hlays : Lays s s1 (chunkCells n dx val)) (hs : Sound s) (hap : Apart b q n dx) (hb : s.block? q.blk = some b) {b1 : Block}
    (hb1 : s1.block? q.blk = some b1) : b1.obj q.bar = b.obj q.bar := by
  refine Block.obj_congr fun k hk => ?_
  have hbytes := hlays.bytes hs (.scratch q.blk (q.bar + k)) (show (s.block? q.blk).isSome = true by rw [hb]; rfl)
  rw [State.byteAt_scratch, State.byteAt_scratch, hb, hb1, layOver_outside _ (not_mem_chunkCells fun i hi heq => ?_)] at hbytes
  · exact hbytes
  · have := hap.bar i hi (q.bar + k) (State.block?_uid hb ▸ heq)
    simp only [within, Bool.and_eq_false_iff, decide_eq_false_iff_not] at this
    omega

theorem Lays.putObj (hs : Sound s) (k off x : Nat) : Lays s (s.modBlock k (Block.putObj off x)) (cells (.scratch k off) (leBytes 16 x)) :=
  .writeScratch hs k off _

/-- What is left once the bytes are laid down, the barrier object is counted down, and the Courier and the team have taken note. -/
theorem ChunkMoves.of_lays (hs : Sound s) (hlays : Lays s s1 (chunkCells n dx val)) (hwork : SameWork s s1) (hap : Apart b q n dx)
    (hhas : ∀ i, i < n → s.has (dx i)) (hb : s.block? q.blk = some b) (ht : s.team? q.team = some t) (hcore : core < 576)
    {fl : List CopyReq → List CopyReq} {ft : Team → Team} (hid : ∀ t, (ft t).uid = t.uid)
    (hwf : ∀ t, teamWf t = true → teamWf (ft t) = true) :
    ChunkMoves s ((((s1.modTeam q.team (Team.countBytes n)).countCopy q n 0).modCore core fun k => { k with courier := fl k.courier }).modTeam
      q.team ft) core q b t n dx val fl ft := by
  have huid : b.uid = q.blk := State.block?_uid hb
  obtain ⟨b1, hb1⟩ := Option.isSome_iff_exists.mp ((hlays.blocks q.blk).trans (by rw [hb]; rfl))
  obtain ⟨u, hu, hcopy⟩ := Option.map_eq_some_iff.mp ((hwork.teams q.team).trans (congrArg _ ht))
  simp only [Team.copyWork, Prod.mk.injEq] at hcopy
  have hcounted := hlays.trans (.modTeam s1 q.team (f := Team.countBytes n) fun _ h => h)
  have hs2 := hcounted.sound hs
  obtain ⟨x, hx⟩ : ∃ x, x = (countDown (b.obj q.bar) n).1 := ⟨_, rfl⟩
  rw [State.countCopy_clean hs2.watches hs2.soft (s := s1.modTeam q.team (Team.countBytes n)) hb1, hlays.obj hs hap hb hb1, ← hx]
  have hall := ((hcounted.trans (.putObj hs2 q.blk q.bar x)).trans
    (.modCore _ core (f := fun k => { k with courier := fl k.courier }) (fun _ => rfl) fun _ h => h)).trans (.modTeam _ q.team hwf)
  simp only [List.append_nil] at hall
  have hbyte : ∀ y, s.has y → (∀ o, y = .scratch q.blk o → within o q.bar 16 = false) →
      State.byteAt _ y = layOver (s.byteAt y) (chunkCells n dx val) y := fun y hy hap => by
    rw [hall.bytes hs y hy, layOver_append, layOver_outside _ (not_mem_objCells hap)]
  refine ⟨hall.grids, hall.procs, fun i hi => ?_, fun a ha => ?_, ⟨b1.putObj q.bar x, ?_, ?_, fun o ho hout => ?_⟩, ⟨u, ?_, hcopy⟩, ?_⟩
  · have hin : (dx i, val i) ∈ chunkCells n dx val := List.mem_map.mpr ⟨i, List.mem_range.mpr hi, rfl⟩
    rw [State.homeBytes_one, hbyte (dx i) (hhas i hi) (huid ▸ hap.bar i hi), layOver_inside _ hap.nodup hin]
  · exact (hbyte (.phys a) trivial (fun o h => by cases h)).trans (layOver_outside _ (not_mem_chunkCells ha))
  · rw [State.modTeam_block?, State.modCore_block?]
    exact State.block?_modBlock_self hb1 (Block.putObj_uid _ _)
  · rw [← hx]
    exact Block.putObj_obj (hlays.sound hs |>.block hb1) (hx ▸ countDown_lt _ (b.obj_lt _))
  · rw [huid] at ho
    have hread := hlays.bytes hs (.scratch q.blk o) (show (s.block? q.blk).isSome = true by rw [hb]; rfl)
    rw [State.byteAt_scratch, State.byteAt_scratch, hb, hb1, layOver_outside _ (not_mem_chunkCells ho)] at hread
    exact (Block.putObj_outside _ hout).trans hread
  · have hcount : (s1.modTeam q.team (Team.countBytes n)).team? q.team = some (u.countBytes n) := State.team?_modTeam_self hu fun _ => rfl
    exact State.team?_modTeam_self hcount hid
  · rw [State.modTeam_coreAt, State.coreAt_modCore, if_pos ⟨rfl, hcore⟩]
    exact congrArg fl (hwork.couriers core)

/-! ### The chunk is moved -/

/-- The request with the chunk moved and counted. -/
def CopyReq.advance (q : CopyReq) (c : CopyChunk) : CopyReq :=
  { q with counted := q.counted + c.len, moved := (c.row, c.off, c.len) :: q.moved }

/-- The pieces of a chunk's bytes are written. -/
def State.layChunk (s : State) (b : Block) (q : CopyReq) (n : Nat) (dx : Nat → Target) (ad : Nat → Double) (val : Nat → Byte) : State :=
  (joinPieces ((List.range n).map fun i => (dx i, ad i, val i))).foldl (fun s p => s.writePiece b q p) s

theorem State.layChunk_lays (hs : Sound s) (hshadow : b.shadowOf = none) (hb : s.block? b.uid = some b)
    (hland : ∀ i, i < n → (dx i).landable b.uid) :
    Lays s (s.layChunk b q n dx ad val) (chunkCells n dx val) ∧ SameWork s (s.layChunk b q n dx ad val) := by
  have hplaces : ∀ x ∈ (List.range n).map (fun i => (dx i, ad i, val i)), x.1.landable b.uid := fun x hx => by
    obtain ⟨i, hi, rfl⟩ := List.mem_map.mp hx
    exact hland i (List.mem_range.mp hi)
  have hcells : (joinPieces ((List.range n).map fun i => (dx i, ad i, val i))).flatMap CopyPiece.cells = chunkCells n dx val := by
    rw [cells_joinPieces hplaces, List.map_map]
    rfl
  rw [← hcells]
  refine State.writePieces_lays hs hshadow q fun p hp => ?_
  obtain ⟨x, hx, htg⟩ := joinPieces_tg hp
  exact htg ▸ Target.landable_has (hplaces x hx) hb

theorem State.moveChunk_eq : s.moveChunk b q c ((List.range c.len).map val) false ((List.range c.len).map fun i => (dx i, ad i)) =
    let s1 := ((s.layChunk b q c.len dx ad val).modTeam q.team (Team.countBytes c.len)).countCopy q c.len 0
    if q.total ≤ q.counted + c.len then s1.completeCopy b.core (q.advance c) q.status
    else s1.modCore b.core fun k => { k with courier := k.courier.map fun x => if x.id = q.id then q.advance c else x } := by
  have hzip : (((List.range c.len).map fun i => (dx i, ad i)).zip ((List.range c.len).map val)).map (fun x => (x.1.1, x.1.2, x.2)) =
      (List.range c.len).map fun i => (dx i, ad i, val i) := by
    rw [List.zip_map', List.map_map]
    rfl
  have hstatus : (if q.status = 0 then (0 : Byte) else q.status) = q.status := by
    split <;> simp [*]
  unfold State.moveChunk
  rw [hzip]
  simp only [Bool.false_eq_true, if_false, hstatus]
  rfl

/-! ### The places of a chunk are reached -/

theorem State.uncorrectable_sound (hs : Sound s) (core : Nat) (tg : Target) : s.uncorrectable core tg = false := by
  cases tg <;> simp [State.uncorrectable, State.badPhys, State.badSector, hs.soft, hs.poison]

/-- Of places that are not uncorrectable the bytes are those of their homes. -/
theorem State.copySource_sound (hs : Sound s) (hshadow : b.shadowOf = none) (l : List (Target × Double)) :
    s.copySource b l = (l.map fun x => s.byteAt x.1, []) := by
  simp [State.copySource, State.uncorrectable_sound hs, hshadow, State.byteAt]

theorem firstBad_at (l : List Nat) (f : Nat → Target) (g : Nat → Double) : firstBad (l.map fun i => .at (f i) (g i)) = none := by
  simp [firstBad]

theorem placesAt_at (l : List Nat) (f : Nat → Target) (g : Nat → Double) :
    placesAt (l.map fun i => .at (f i) (g i)) = l.map fun i => (f i, g i) := by
  simp [placesAt, List.filterMap_map]

/-- Every byte of a chunk is reached on a side, at the place that sx gives. -/
def State.Reaches (s : State) (b : Block) (p : Process) (q : CopyReq) (c : CopyChunk) (side : CopySide) (base : Double) (stride : Word) (need : Need)
    (sx : Nat → Target) : Prop :=
  ∀ i, i < c.len → ∃ y, s.copyPlace b p q side base stride need c.row (c.off + i) = .at (sx i) y

theorem State.Reaches.map_eq {side : CopySide} {base : Double} {stride : Word} {need : Need}
    (h : s.Reaches b p q c side base stride need sx) :
    (List.range c.len).map (fun i => s.copyPlace b p q side base stride need c.row (c.off + i)) =
      (List.range c.len).map fun i => .at (sx i) (copyAddr base stride c.row (c.off + i)) := by
  refine List.map_congr_left fun i hi => ?_
  obtain ⟨y, hy⟩ := h i (List.mem_range.mp hi)
  rw [hy, (State.copyPlace_at hy).1]

/-- The byte that a chunk brings: from a peer, or from its source. -/
def State.chunkByte (s : State) (q : CopyReq) (c : CopyChunk) (sx : Nat → Target) (i : Nat) : Byte :=
  if q.kind = 5 then c.data.getD i 0 else s.byteAt (sx i)

theorem State.chunkByte_home (h5 : q.kind ≠ 5) : s.chunkByte q c sx = fun i => s.byteAt (sx i) := funext fun _ => if_neg h5

/-- The bytes that come from a peer. -/
theorem State.chunkByte_peer (h5 : q.kind = 5) (hlen : c.data.length = c.len) : (List.range c.len).map (s.chunkByte q c sx) = c.data := by
  refine List.ext_getElem (by simp [hlen]) fun i hi hi' => ?_
  simp [State.chunkByte, h5, List.getD_eq_getElem?_getD, List.getElem?_eq_getElem hi']

/-- Without watchpoints no read of a copy is a hit. -/
theorem State.checkWatches_unwatched (hw : s.watches = []) (q : CopyReq) (l : List CopyPiece) :
    l.foldl (fun s x => s.checkWatch q.hitBy x.tg x.addr.toNat x.bytes.length .load) s = s := by
  induction l with
  | nil => rfl
  | cons x l ih => rw [List.foldl_cons, State.checkWatch_unwatched hw, ih]

theorem sides_of_kind {kind : BitVec 3} (h : kind.toNat ≤ 3 ∨ kind = 5) :
    destSide kind.toNat ≠ .peer ∧ kind ≠ 4 ∧ (kind ≠ 5 → sourceSide kind.toNat ≠ .peer) := by
  revert h
  revert kind
  decide

/-- A chunk whose places are reached, from a place of the part. -/
theorem execCourierCountDown_reached (hc : Copying s core q b p) (hs : Sound s) (hpaused : q.paused = none) (hfits : q.fits c = true)
    (hfrozen : s.gridFrozen q.gid = false) (hshadow : b.shadowOf = none) (hkind : q.kind.toNat ≤ 3 ∨ q.kind = 5 ∧ c.data.length = c.len)
    (hsrc : q.kind ≠ 5 → s.Reaches b p q c (sourceSide q.kind.toNat) q.src q.sstride .load sx)
    (hdst : s.Reaches b p q c (destSide q.kind.toNat) q.dst q.dstride .store dx) :
    execCourierCountDown core q.id c s = .next (s.moveChunk b q c ((List.range c.len).map (s.chunkByte q c sx)) false
      ((List.range c.len).map fun i => (dx i, copyAddr q.dst q.dstride c.row (c.off + i)))) := by
  obtain ⟨hdest, h4, hsource⟩ := sides_of_kind (hkind.imp id And.left)
  unfold execCourierCountDown
  simp only [hc.held, hc.block, hc.proc, hshadow, hpaused, hfits, hfrozen, Option.isSome_none, Bool.false_and, Bool.not_true, Bool.or_self,
    Bool.false_eq_true, if_false, if_neg hdest, hdst.map_eq, firstBad_at, placesAt_at]
  have h4' : ¬ q.kind.toNat = 4 := fun h => h4 (BitVec.eq_of_toNat_eq h)
  by_cases h5 : q.kind = 5
  · have hbytes : (List.range c.len).map (s.chunkByte q c sx) = c.data := State.chunkByte_peer h5 (hkind.resolve_left (by rw [h5]; decide)).2
    simp only [show q.kind.toNat = 5 by rw [h5]; rfl, if_true, hbytes]
    rfl
  · have h5' : ¬ q.kind.toNat = 5 := fun h => h5 (BitVec.eq_of_toNat_eq h)
    simp only [if_neg (hsource h5), (hsrc h5).map_eq, firstBad_at, placesAt_at, h4', h5', if_false, State.copySource_sound hs hshadow,
      List.foldl_nil, State.checkWatches_unwatched hs.watches, List.map_map, State.chunkByte_home h5]
    rfl

theorem State.modTeam_id (s : State) (k : Nat) : s.modTeam k id = s := by simp [State.modTeam]

/-! ### A pause, and a peer that does not answer (R152) -/

/-- The entry of the fault queue for which a request is paused. -/
def State.pauseEntry (s : State) (core : Nat) (q : CopyReq) (ix : BitVec 12) : Option FaultEntry :=
  (s.dieAt (dieOf core)).faults.find? fun x => x.index == ix && x.team == q.team && 4 ≤ x.access.toNat

theorem execCopyFaultResume_resolved (hc : Copying s core q b p) {ix : BitVec 12} {f : FaultEntry} (hpaused : q.paused = some ix)
    (hf : s.pauseEntry core q ix = some f) (hst : f.status = 1) : execCopyFaultResume core q.id s = .next
      ((s.freeFault (dieOf core) ix).modCore core fun k =>
        { k with courier := k.courier.map fun x => if x.id = q.id then { x with paused := none } else x }) := by
  unfold State.pauseEntry at hf
  simp only [execCopyFaultResume, hc.held, hpaused, ge_iff_le, hf, hst, if_true]

theorem execCopyFaultResume_denied (hc : Copying s core q b p) {ix : BitVec 12} {f : FaultEntry} (hpaused : q.paused = some ix)
    (hf : s.pauseEntry core q ix = some f) (hst : f.status = 2) :
    execCopyFaultResume core q.id s = .next ((s.freeFault (dieOf core) ix).abandonCopy core q copyDenied) := by
  unfold State.pauseEntry at hf
  simp only [execCopyFaultResume, hc.held, hpaused, ge_iff_le, hf, hst, if_true]
  rfl

theorem execPeerRetryLimit_peer (hc : Copying s core q b p) (hkind : q.kind = 4 ∨ q.kind = 5) :
    execPeerRetryLimit core q.id s = .next (s.abandonCopy core q copyPeer) := by
  rcases hkind with hkind | hkind <;> simp [execPeerRetryLimit, hc.held, hkind]

/-- Freeing a fault entry touches neither the request nor its block. -/
theorem copying_freeFault (hc : Copying s core q b p) (die : Nat) (ix : BitVec 12) : Copying (s.freeFault die ix) core q b p :=
  ⟨hc.range, hc.held, hc.block, hc.home, hc.proc⟩

/-! ### The token pool (R195, R199) -/

theorem State.dieAt_modDie (s : State) {d : Nat} (hd : d < 4) (f : DieState → DieState) : (s.modDie d f).dieAt d = f (s.dieAt d) := by
  simp only [State.dieAt, State.modDie]
  exact vget_vput_self s.dies d _ _ hd

/-- A level that is capped, pays d and stops at a floor. -/
theorem capped_debited (a d lo hi : Int) :
    (if (if a > hi then hi else a) - d < lo then lo else (if a > hi then hi else a) - d) = max (min a hi - d) lo := by
  have hcap : (if a > hi then hi else a) = min a hi := by split <;> omega
  rw [hcap]
  split <;> omega

/-- A die cycle of a die's pool. -/
theorem execPoolRefill_cycle {die : Nat} (bytes : Nat) (hdie : die < 4) :
    let R := s.refill
    let F := ((s.floorsOn die).map Prod.snd).sum
    let taken := ((s.floorsOn die).map fun x => floorRefill x.2 F R).sum
    let moved := (s.dieAt die).traffic + bytes
    ∃ s', execPoolRefill die bytes s = .next s' ∧ s'.mem = s.mem ∧ s'.teams = (s.ageWaits die).teams ∧ s'.blocks = (s.ageWaits die).blocks ∧
      (s'.dieAt die).traffic = moved % 256 ∧
      (s'.dieAt die).pool = max (min ((s.dieAt die).pool + R - taken) (64 * R) - 384 * ((moved / 256 : Nat) : Int)) (-(64 * R)) := by
  intro R F taken moved
  have hF : (s.floorsOn die).foldl (fun n x => n + x.2) 0 = F := by rw [← List.foldl_map, ← List.sum_eq_foldl]
  have htaken : ((s.floorsOn die).map fun x => (x, floorRefill x.2 F R)).foldl (fun n x => n + x.2) 0 = taken := by
    rw [← List.foldl_map, ← List.sum_eq_foldl, List.map_map]
    rfl
  have hexec : execPoolRefill die bytes s = .next (State.modDie _ die _) := congrArg Host.Outcome.next (if_neg (Nat.not_le.mpr hdie))
  simp only [hF] at hexec
  refine ⟨_, hexec, rfl, rfl, rfl, ?_, ?_⟩
  · rw [State.dieAt_modDie _ hdie]
    rfl
  · rw [State.dieAt_modDie _ hdie]
    exact (capped_debited _ _ _ _).trans (by rw [htaken]; rfl)

/-! ### The obligation -/

/-- A chunk that the part's places bring: with the last one the request ends. -/
theorem exec_courierCountDown_moves (hc : Copying s core q b p) (hs : Sound s) (hpaused : q.paused = none) (hfits : q.fits c = true)
    (hfrozen : s.gridFrozen q.gid = false) (hshadow : b.shadowOf = none) (ht : s.team? q.team = some t)
    (hkind : q.kind.toNat ≤ 3 ∨ q.kind = 5 ∧ c.data.length = c.len)
    (hsrc : q.kind ≠ 5 → s.Reaches b p q c (sourceSide q.kind.toNat) q.src q.sstride .load sx)
    (hdst : s.Reaches b p q c (destSide q.kind.toNat) q.dst q.dstride .store dx) (hwrite : ∀ i, i < c.len → Writable (dx i))
    (hap : Apart b q c.len dx) :
    ∃ s' fl ft, exec (.courierCountDown core q.id c) s = .next s' ∧ ChunkMoves s s' core q b t c.len dx (s.chunkByte q c sx) fl ft ∧
      (∀ u, (ft u).cbytes = u.cbytes) ∧
      (q.total ≤ q.counted + c.len → (fl = fun l => l.filter fun x => x.id != q.id) ∧ ft = Team.endItem q.id q.status) ∧
      (q.counted + c.len < q.total → (fl = fun l => l.map fun x => if x.id = q.id then q.advance c else x) ∧ ft = id) := by
  have huid : b.uid = q.blk := State.block?_uid hc.block
  have hblock : s.block? b.uid = some b := huid ▸ hc.block
  have hland : ∀ i, i < c.len → (dx i).landable b.uid := fun i hi => by
    obtain ⟨y, hy⟩ := hdst i hi
    exact (State.copyPlace_at hy).2 (hwrite i hi)
  obtain ⟨hlays, hwork⟩ := State.layChunk_lays (q := q) (ad := fun i => copyAddr q.dst q.dstride c.row (c.off + i)) (val := s.chunkByte q c sx)
    hs hshadow hblock hland
  have hexec := execCourierCountDown_reached hc hs hpaused hfits hfrozen hshadow hkind hsrc hdst
  have hmoves := fun fl ft => ChunkMoves.of_lays (fl := fl) (ft := ft) hs hlays hwork hap
    (fun i hi => Target.landable_has (hland i hi) hblock) hc.block ht hc.range
  rw [State.moveChunk_eq, hc.home] at hexec
  by_cases hlast : q.total ≤ q.counted + c.len
  · rw [if_pos hlast] at hexec
    exact ⟨_, _, Team.endItem q.id q.status, hexec, hmoves (fun l => l.filter fun x => x.id != q.id) _ (fun _ => rfl) fun _ h => h, fun _ => rfl,
      fun _ => ⟨rfl, rfl⟩, fun h => absurd hlast (by omega)⟩
  · rw [if_neg hlast] at hexec
    have h := hmoves (fun l => l.map fun x => if x.id = q.id then q.advance c else x) id (fun _ => rfl) fun _ h => h
    rw [State.modTeam_id] at h
    exact ⟨_, _, id, hexec, h, fun _ => rfl, fun h => absurd h hlast, fun _ => ⟨rfl, rfl⟩⟩

/-- Settles O40: a chunk lays its bytes down (ChunkMoves), a request that stops counts its remaining bytes down, and the pool's cycle. -/
theorem courierAndPool : Obligations.CourierAndPool := by
  unfold Obligations.CourierAndPool
  refine ⟨fun s core q b p c hc hwatches hsoft => ⟨?_, fun ix f hpaused hf => ⟨fun hst => ?_, fun hst hwf => ?_⟩, fun hkind hwf => ?_⟩,
    fun s die bytes hdie => execPoolRefill_cycle bytes hdie⟩
  · intro t sx dx hpaused hfits hfrozen hpoison hshadow _ hwf ht hkind hsrc hdst
    have hap : Apart b q c.len dx := ⟨fun i hi => (hdst i hi).2.2.1, fun i hi => (hdst i hi).2.2.2⟩
    obtain ⟨s', fl, ft, hexec, hmoves, hft, hlast, hmore⟩ := exec_courierCountDown_moves hc ⟨hwatches, hsoft, hpoison, hwf⟩ hpaused
      hfits hfrozen hshadow ht hkind hsrc (fun i hi => (hdst i hi).1) (fun i hi => (hdst i hi).2.1) hap
    obtain ⟨b', hb', hobj, hscr⟩ := hmoves.block
    obtain ⟨u, hu, hopen, hbatches, hcbytes⟩ := hmoves.team
    have hbyte : ∀ i, [s.chunkByte q c sx i] = if q.kind = 5 then [c.data.getD i 0] else s.homeBytes (sx i) 1 := fun i => by
      rw [State.homeBytes_one, State.chunkByte]
      split <;> rfl
    refine ⟨s', b', _, hexec, hmoves.grids, hmoves.procs, hb', hu, fun i hi => (hmoves.bytes i hi).trans (hbyte i), hmoves.mem, hscr, hobj,
      (hft _).trans (congrArg (· + _) hcbytes), fun h => ?_, fun h => ?_⟩
    · obtain ⟨rfl, rfl⟩ := hlast h
      exact ⟨hmoves.courier, congrArg (setItem q.id q.status) hopen,
        congrArg (List.map fun x : Nat × List BatchItem => (x.1, setItem q.id q.status x.2)) hbatches⟩
    · obtain ⟨rfl, rfl⟩ := hmore h
      exact ⟨hopen, hbatches, hmoves.courier⟩
  · exact execCopyFaultResume_resolved hc hpaused hf hst
  · exact ⟨_, execCopyFaultResume_denied hc hpaused hf hst,
      State.abandonCopy_stops (copying_freeFault hc (dieOf core) ix) hwatches hsoft hwf (by decide)⟩
  · exact ⟨_, execPeerRetryLimit_peer hc hkind, State.abandonCopy_stops hc hwatches hsoft hwf (by decide)⟩

end Sys2Proof.Machine
end

section
/-! PROOF. What stopping a team leaves as it was (R163, R212): no team changes its size, its place in its block or its end, every block stands
as it did, and the Couriers keep their copies, whatever stores are performed. -/

namespace Sys2Proof.Machine

open Sys2Proof Safety

variable {s s1 s2 : State} {t t' u : Team} {b b' : Block} {g : Grid}

/-- What every step of a fold keeps, the fold keeps. -/
theorem foldl_keeps {α β γ : Type} (p : α → γ) {f : α → β → α} (l : List β) (a : α) (hf : ∀ a x, p (f a x) = p a := by intros; rfl) :
    p (l.foldl f a) = p a :=
  List.foldlRecOn l f (motive := fun y => p y = p a) rfl fun y hy x _ => (hf y x).trans hy

/-! ### What stays of a block and of a team -/

/-- Where a block is, its save area, and how far its pre-emption or resumption has come. -/
structure BlockStanding where
  uid : Nat
  core : Nat
  bimga : Double
  saveBase : Double
  saveAssigned : Bool
  preempting : Bool
  saving : Bool
  resuming : Bool

def Block.standing (b : Block) : BlockStanding :=
  { uid := b.uid, core := b.core, bimga := b.bimga, saveBase := b.saveBase, saveAssigned := b.saveAssigned, preempting := b.preempting,
    saving := b.saving, resuming := b.resuming }

/-- Which team it is, of what size, and how it ended if it has. -/
structure TeamBearing where
  uid : Nat
  blk : Nat
  tix : Nat
  ngrp : Nat
  cause : Byte

def Team.bearing (t : Team) : TeamBearing := { uid := t.uid, blk := t.blk, tix := t.tix, ngrp := t.ngrp, cause := t.cause }

/-- Its bearing, and what it waits for or has still to finish. -/
def Team.pace (t : Team) : TeamBearing × RunState × Option Nat := (t.bearing, t.run, t.mustFinish)

/-- No pass of the team waits for faults or for room in the fault queue, and it owes no instruction (R212). -/
def Team.Unstalled (t : Team) : Prop := t.run ≠ .queueFull ∧ (∀ l, t.run ≠ .wholePath l) ∧ t.mustFinish = none

/-- No live team of the block is stalled. -/
def State.Unstalled (s : State) (blk : Nat) : Prop := ∀ t ∈ s.teams, t.blk = blk → t.cause = 0 → t.Unstalled

/-- Every block stands as it did. -/
def SameBlocks (s s' : State) : Prop := ∀ k, (s'.block? k).map Block.standing = (s.block? k).map Block.standing

theorem SameBlocks.refl (s : State) : SameBlocks s s := fun _ => rfl

theorem SameBlocks.trans (h : SameBlocks s s1) (h' : SameBlocks s1 s2) : SameBlocks s s2 := fun k => (h' k).trans (h k)

theorem SameBlocks.of_blocks (h : s1.blocks = s.blocks) : SameBlocks s s1 := fun k => by rw [State.block?, State.block?, h]

theorem SameBlocks.modBlock (s : State) (n : Nat) {f : Block → Block} (hf : ∀ b, (f b).standing = b.standing := by intro; rfl) :
    SameBlocks s (s.modBlock n f) :=
  fun k => by
    rw [State.block?_modBlock s f (fun b => congrArg BlockStanding.uid (hf b)), Option.map_map]
    congr 1
    funext b
    by_cases hk : k = n <;> simp [hk, hf]

theorem SameBlocks.foldl {α : Type} {f : State → α → State} (hf : ∀ s x, SameBlocks s (f s x)) (l : List α) (s : State) :
    SameBlocks s (l.foldl f s) :=
  List.foldlRecOn l f (.refl s) fun _ h x _ => h.trans (hf _ x)

/-- The block that bore the number still does. -/
theorem SameBlocks.block {k : Nat} (h : SameBlocks s s1) (hb : s.block? k = some b) : ∃ b1, s1.block? k = some b1 ∧ b1.standing = b.standing := by
  have hk := h k
  rwa [hb, Option.map_some, Option.map_eq_some_iff] at hk

/-- From s to s' no team changes its bearing or stalls, every block stands as it did, and the Couriers have the copies that they had. -/
structure Quiets (s s' : State) : Prop where
  teams : ∀ k, (s'.team? k).map Team.bearing = (s.team? k).map Team.bearing
  unstalled : ∀ k, s.Unstalled k → s'.Unstalled k
  blocks : SameBlocks s s'
  couriers : ∀ k, (s'.coreAt k).courier = (s.coreAt k).courier

theorem Quiets.refl (s : State) : Quiets s s := ⟨fun _ => rfl, fun _ => id, .refl s, fun _ => rfl⟩

theorem Quiets.trans (h : Quiets s s1) (h' : Quiets s1 s2) : Quiets s s2 :=
  ⟨fun k => (h'.teams k).trans (h.teams k), fun k hk => h'.unstalled k (h.unstalled k hk), h.blocks.trans h'.blocks,
    fun k => (h'.couriers k).trans (h.couriers k)⟩

theorem Quiets.of_eq (ht : s1.teams = s.teams := by rfl) (hb : s1.blocks = s.blocks := by rfl) (hc : s1.cores = s.cores := by rfl) :
    Quiets s s1 where
  teams := fun k => by rw [State.team?, State.team?, ht]
  unstalled := fun k hk => by rwa [State.Unstalled, ht]
  blocks := .of_blocks hb
  couriers := fun k => by rw [State.coreAt, State.coreAt, hc]

theorem Quiets.modCore (s : State) (n : Nat) {f : CoreState → CoreState} (hf : ∀ c, (f c).courier = c.courier := by intro; rfl) :
    Quiets s (s.modCore n f) :=
  ⟨fun _ => rfl, fun _ => id, .refl s, (SameWork.modCore s n hf).couriers⟩

theorem Quiets.modBlock (s : State) (n : Nat) {f : Block → Block} (hf : ∀ b, (f b).standing = b.standing := by intro; rfl) :
    Quiets s (s.modBlock n f) :=
  ⟨fun _ => rfl, fun _ => id, .modBlock s n hf, fun _ => rfl⟩

theorem Quiets.foldl {α : Type} {f : State → α → State} (hf : ∀ s x, Quiets s (f s x)) (l : List α) (s : State) : Quiets s (l.foldl f s) :=
  List.foldlRecOn l f (.refl s) fun _ h x _ => h.trans (hf _ x)

theorem Quiets.ite {p : Prop} [Decidable p] (h : Quiets s s1) : Quiets s (if p then s1 else s) := by
  split
  · exact h
  · exact .refl s

/-- A block has copies left if it had. -/
theorem Quiets.hasCopies (h : Quiets s s1) (huid : b'.uid = b.uid) (hcore : b'.core = b.core) : s1.hasCopies b' = s.hasCopies b := by
  rw [State.hasCopies, State.hasCopies, huid, hcore, h.couriers]

/-- The team that bore the number still does. -/
theorem Quiets.team {k : Nat} (h : Quiets s s1) (ht : s.team? k = some t) : ∃ t1, s1.team? k = some t1 ∧ t1.bearing = t.bearing := by
  have hk := h.teams k
  rwa [ht, Option.map_some, Option.map_eq_some_iff] at hk

theorem Team.Unstalled.of_pace (h : t'.pace = t.pace) (ht : t.Unstalled) : t'.Unstalled := by
  obtain ⟨hqueue, hpath, hfinish⟩ := ht
  simp only [Team.pace, Prod.mk.injEq] at h
  obtain ⟨-, hrun, hmust⟩ := h
  rw [← hrun] at hqueue hpath
  exact ⟨hqueue, hpath, hmust.trans hfinish⟩

theorem Team.pace_bearing (h : t'.pace = t.pace) : t'.bearing = t.bearing := congrArg Prod.fst h

/-- Every team that bears the number keeps its bearing and does not stall. -/
theorem Quiets.modTeam (s : State) (n : Nat) {f : Team → Team} (hf : ∀ t, (f t).pace = t.pace := by intro; rfl) : Quiets s (s.modTeam n f) where
  teams := fun k => by
    rw [State.team?_modTeam s f (fun t => congrArg TeamBearing.uid (Team.pace_bearing (hf t))), Option.map_map]
    congr 1
    funext t
    by_cases hk : k = n <;> simp [hk, Team.pace_bearing (hf t)]
  unstalled := fun k hk t ht hblk hcause => by
    obtain ⟨v, hv, rfl⟩ := List.mem_map.mp ht
    have hpace : (if v.uid = n then f v else v).pace = v.pace := by
      split
      · exact hf v
      · rfl
    have hbear := Team.pace_bearing hpace
    exact .of_pace hpace (hk v hv ((congrArg TeamBearing.blk hbear).symm.trans hblk) ((congrArg TeamBearing.cause hbear).symm.trans hcause))
  blocks := .refl s
  couriers := fun _ => rfl

/-- A team that takes the place of one of the same bearing, and is not stalled unless that one is. -/
theorem Quiets.setTeam (ht : s.team? t.uid = some u) (hbear : t.bearing = u.bearing) (hun : u.Unstalled → t.Unstalled) :
    Quiets s (s.setTeam t) where
  teams := fun k => by
    rw [State.team?_setTeam]
    split
    · rename_i hk
      rw [hk, ht]
      exact congrArg some hbear
    · rfl
  unstalled := fun k hk v hv hblk hcause => by
    obtain ⟨w, hw, rfl⟩ := List.mem_map.mp hv
    split at hblk
    · rw [if_pos ‹_›] at hcause ⊢
      exact hun (hk u (List.mem_of_find?_eq_some ht) ((congrArg TeamBearing.blk hbear).symm.trans hblk)
        ((congrArg TeamBearing.cause hbear).symm.trans hcause))
    · rw [if_neg ‹_›] at hcause ⊢
      exact hk w hw hblk hcause
  blocks := .refl s
  couriers := fun _ => rfl

/-! ### Stores that are performed -/

theorem State.scrubWords_quiets (s : State) (site : Nat → SoftErrorSite) (off n : Nat) : Quiets s (s.scrubWords site off n) := by
  unfold State.scrubWords
  split
  · exact .refl s
  · refine .foldl (fun s i => ?_) _ s
    unfold State.scrub
    split <;> exact .of_eq

/-- A place that a queued store, or a word of a lock or promise, can go to. -/
def Target.Storable : Target → Prop
  | .image (.spill _) _ => True
  | .image _ _ => False
  | _ => True

theorem StoreEntry.target_storable (e : StoreEntry) : e.target.Storable := by
  unfold StoreEntry.target
  cases e.space <;> exact trivial

theorem State.putSpill_quiets (s : State) (u off : Nat) (bs : List Byte) : Quiets s (s.putImageBytes (.spill u) off bs) := by
  rw [State.putImageBytes_spill]
  exact .modTeam s u

theorem State.writeHome_quiets (s : State) {tg : Target} (htg : tg.Storable) (bs : List Byte) (w : Bool) : Quiets s (s.writeHome tg bs w) := by
  cases tg with
  | phys pa =>
    refine (s.scrubWords_quiets .l2 pa bs.length).trans ?_
    rw [State.writeHome]
    generalize s.scrubWords .l2 pa bs.length = s1
    dsimp only
    split
    · split <;> exact .of_eq
    · split
      · split <;> exact .of_eq
      · exact .of_eq
  | scratch k off => exact (s.scrubWords_quiets _ _ _).trans (.modBlock _ k)
  | commons c off =>
    refine (s.scrubWords_quiets (.commons c) off bs.length).trans ?_
    rw [State.writeHome]
    exact .modCore _ c
  | image r off =>
    cases r with
    | spill u =>
      rw [State.writeHome]
      split
      · rename_i pa _
        have hscrub := s.scrubWords_quiets .l2 pa bs.length
        dsimp only
        split
        · exact hscrub.trans (State.putSpill_quiets _ _ _ _)
        · split
          · exact hscrub.trans (.trans .of_eq (State.putSpill_quiets _ _ _ _))
          · exact hscrub.trans .of_eq
      · exact s.putSpill_quiets u off bs
    | _ => exact htg.elim

theorem State.sendNotices_quiets (s : State) (gid stopCore home : Nat) (bc : BitVec 2) : Quiets s (s.sendNotices gid stopCore home bc) := by
  unfold State.sendNotices
  exact .foldl (fun s n => .modCore s n) _ s

theorem State.checkWatch_quiets (s : State) (by_ : HitBy) (tg : Target) (addr size : Nat) (k : AccKind) :
    Quiets s (s.checkWatch by_ tg addr size k) := by
  unfold State.checkWatch
  split
  · exact .refl s
  · split
    · exact .refl s
    · refine .foldl (fun s x => ?_) _ s
      dsimp only
      split
      · split
        · exact .trans .of_eq (State.sendNotices_quiets _ _ _ _ _)
        · exact .of_eq
      · exact .refl s

theorem State.settleBounds_quiets (s : State) (uid : Nat) : Quiets s (s.settleBounds uid) := by
  unfold State.settleBounds
  split <;> exact .of_eq

theorem State.performStore_quiets (s : State) (uid : Nat) (e : StoreEntry) : Quiets s (s.performStore uid e) := by
  unfold State.performStore
  extract_lets tg s1 s2 s3
  have h1 : Quiets s s1 := s.writeHome_quiets e.target_storable e.bytes false
  have h2 : Quiets s1 s2 := by
    unfold s2
    split
    · exact .modCore s1 _ fun c => (c.patchLine_keeps _ _).2.2
    · exact .refl s1
  have h3 : Quiets s2 s3 := .ite (s2.settleBounds_quiets uid)
  exact ((h1.trans h2).trans h3).trans (s3.checkWatch_quiets _ _ _ _ _)

theorem State.drainAll_quiets (s : State) (uid : Nat) : Quiets s (s.drainAll uid) := by
  unfold State.drainAll
  split
  · exact .refl s
  · exact .trans (.modTeam s uid) (.foldl (fun s e => s.performStore_quiets uid e) _ _)

/-! ### A team stops (R212) -/

theorem Team.markAux_pace (t : Team) (k : Nat) : (t.markAux k).pace = t.pace := by
  unfold Team.markAux
  split <;> rfl

theorem Team.markV_pace (t : Team) (i k : Nat) : (t.markV i k).pace = t.pace := by
  unfold Team.markV
  split <;> rfl

theorem Team.writeRef_pace (t : Team) (r : RegRef) (x : Word) : (t.writeRef r x).pace = t.pace := by
  cases r with
  | v h i => exact Team.markV_pace _ _ _
  | s i => exact Team.markAux_pace _ _
  | p h i => exact Team.markAux_pace _ _

theorem Team.lateWrite_pace (t : Team) (r : RegRef) (x : Word) : (t.lateWrite r x).pace = t.pace := by
  unfold Team.lateWrite
  cases r
  case v h i =>
    dsimp only
    split
    · split <;> rfl
    · exact t.writeRef_pace _ x
  case s | p =>
    dsimp only
    split
    · rfl
    · exact t.writeRef_pace _ x

theorem Team.reply_pace (t : Team) (atomic : Bool) (r : RegRef) (x : Word) : (t.reply atomic r x).pace = t.pace := by
  unfold Team.reply
  extract_lets t1
  have h1 : t1.pace = t.pace := by
    unfold t1
    split
    · exact t.lateWrite_pace r x
    · exact t.writeRef_pace r x
  split <;> exact h1

theorem Team.deliver_pace (t : Team) : t.deliver.pace = t.pace := by
  unfold Team.deliver
  split
  · rfl
  · refine foldl_keeps Team.pace _ t fun t f => ?_
    refine foldl_keeps Team.pace _ t fun t w => ?_
    split
    · split
      · rfl
      · exact t.reply_pace _ _ _
    · exact t.reply_pace _ _ _

/-- A team that stops keeps its bearing, and runs or waits as before unless its waiting instruction is parked. -/
theorem Team.parkWait_keeps (t : Team) : t.parkWait.bearing = t.bearing ∧ (t.parkWait.run = .ready ∨ t.parkWait.run = t.run) := by
  unfold Team.parkWait
  split
  · exact ⟨rfl, .inl rfl⟩
  · exact ⟨rfl, .inl rfl⟩
  · exact ⟨rfl, .inr rfl⟩

theorem Team.Unstalled.unfinished (h : t.Unstalled) : t.unfinished = none := by
  obtain ⟨hqueue, hpath, hfinish⟩ := h
  unfold Team.unfinished
  extract_lets owed
  split
  · exact absurd ‹_› (hpath _)
  · exact absurd ‹_› hqueue
  · rw [hfinish]
    rfl

theorem State.putWord_quiets (s : State) (core : Nat) {tg : Target} (htg : tg.Storable) (v : Nat) : Quiets s (s.putWord core tg v) := by
  have hwrite := s.writeHome_quiets htg (leBytes 8 v) false
  unfold State.putWord
  cases tg with
  | phys pa => exact hwrite.trans (.modCore _ core fun c => (c.patchLine_keeps _ _).2.2)
  | _ => exact hwrite

theorem State.wordPlace_storable {p : Process} {va : Double} {tg : Target} (h : s.wordPlace p va = .ok tg) : tg.Storable := by
  unfold State.wordPlace at h
  split at h
  · injection h with h
    subst h
    exact trivial
  · cases h

theorem State.leaveLock_quiets (s : State) (t : Team) (va : Double) : Quiets s (s.leaveLock t va) := by
  unfold State.leaveLock
  split
  · rename_i tg h
    obtain ⟨p, -, hp⟩ := Option.map_eq_some_iff.mp h
    split
    · exact .refl s
    · exact (s.putWord_quiets t.core (State.wordPlace_storable hp) _).trans .of_eq
  · exact .refl s

/-- The team's loads have finished; atomic replies stay out. -/
def Team.finishLoads (t : Team) : Team :=
  { { t with inflight := t.inflight.filter fun f => !f.atomic }.deliver with inflight := t.inflight.filter fun f => f.atomic }

theorem Team.finishLoads_pace (t : Team) : t.finishLoads.pace = t.pace :=
  Team.deliver_pace { t with inflight := t.inflight.filter fun f => !f.atomic }

/-- The team as it stops: its loads have finished, and its waiting instruction is parked (R212). -/
def Team.stopped (t : Team) : Team := { t.finishLoads.parkWait with recent := [], mustFinish := t.finishLoads.unfinished }

theorem Team.stopped_bearing (t : Team) : t.stopped.bearing = t.bearing :=
  t.finishLoads.parkWait_keeps.1.trans (Team.pace_bearing t.finishLoads_pace)

theorem Team.Unstalled.stopped (h : t.Unstalled) : t.stopped.Unstalled := by
  have hloads : t.finishLoads.Unstalled := .of_pace t.finishLoads_pace h
  have hfinish := hloads.unfinished
  obtain ⟨hqueue, hpath, -⟩ := hloads
  have hrun : t.stopped.run = .ready ∨ t.stopped.run = t.finishLoads.run := t.finishLoads.parkWait_keeps.2
  refine ⟨?_, fun l => ?_, hfinish⟩
  · rcases hrun with hrun | hrun
    · simp [hrun]
    · rwa [hrun]
  · rcases hrun with hrun | hrun
    · simp [hrun]
    · rw [hrun]
      exact hpath l

theorem State.quiesce_quiets (s : State) (uid : Nat) : Quiets s (s.quiesce uid) := by
  have hdrain := (s.drainAll_quiets uid).trans ((s.drainAll uid).settleBounds_quiets uid)
  unfold State.quiesce
  extract_lets s1
  refine hdrain.trans ?_
  split
  · exact .refl s1
  · rename_i t ht
    have huid := State.team?_uid ht
    have hbear := t.stopped_bearing
    have hset : Quiets s1 (s1.setTeam t.stopped) :=
      .setTeam (by rw [show t.stopped.uid = uid from (congrArg TeamBearing.uid hbear).trans huid]; exact ht) hbear
        Team.Unstalled.stopped
    split
    · exact hset.trans (State.leaveLock_quiets _ t _)
    · exact hset

end Sys2Proof.Machine
end

section
/-! PROOF. A team that ends (R42), and one that goes on after a resumption (R212), leave every block as it stood. -/

namespace Sys2Proof.Machine

open Sys2Proof Safety

variable {s : State} {b : Block}

/-! ### A team ends (R42): its block stands as it did -/

theorem State.scrubWords_blocks (s : State) (site : Nat → SoftErrorSite) (off n : Nat) : (s.scrubWords site off n).blocks = s.blocks := by
  unfold State.scrubWords
  split
  · rfl
  · refine foldl_keeps State.blocks _ s fun s i => ?_
    unfold State.scrub
    split <;> rfl

theorem State.writeHome_phys_blocks (s : State) (pa : Nat) (bs : List Byte) (w : Bool) : (s.writeHome (.phys pa) bs w).blocks = s.blocks := by
  rw [State.writeHome, ← s.scrubWords_blocks .l2 pa bs.length]
  generalize s.scrubWords .l2 pa bs.length = s1
  dsimp only
  split
  · split <;> rfl
  · split
    · split <;> rfl
    · rfl

theorem State.consumed_blocks (s : State) (tg : Target) : (s.consumed tg).blocks = s.blocks := by
  unfold State.consumed
  extract_lets s1 pa
  split <;> rfl

@[simp] theorem State.noteVirt_blocks (s : State) (p : Process) (va n : Nat) : (s.noteVirt p va n).blocks = s.blocks := by
  unfold State.noteVirt
  split
  · rfl
  · exact foldl_keeps State.blocks _ s fun s x => s.consumed_blocks _

@[simp] theorem State.writeVirt_blocks (s : State) (p : Process) (va : Nat) (bs : List Byte) : (s.writeVirt p va bs).blocks = s.blocks := by
  unfold State.writeVirt
  refine foldl_keeps State.blocks _ s fun s x => ?_
  split
  · exact s.writeHome_phys_blocks _ _ _
  · rfl

@[simp] theorem State.writeVirtNat_blocks (s : State) (p : Process) (va n v : Nat) : (s.writeVirtNat p va n v).blocks = s.blocks :=
  s.writeVirt_blocks p va _

@[simp] theorem State.noteChain_blocks (s : State) (p : Process) (base : Nat) : (s.noteChain p base).blocks = s.blocks := s.noteVirt_blocks _ _ _

@[simp] theorem State.writeChain_blocks (s : State) (p : Process) (base gen step : Nat) (cv : ChoiceState) :
    (s.writeChain p base gen step cv).blocks = s.blocks := by
  unfold State.writeChain
  simp

@[simp] theorem State.nextProposal_blocks (s : State) (g : Grid) (c : Nat) (pending : Option (BitVec 256)) :
    (s.nextProposal g c pending).blocks = s.blocks := by
  unfold State.nextProposal
  split
  · extract_lets base step gn m0 bad m log o prop s1 s2 src
    split
    · have h2 : s2.blocks = s.blocks := by
        unfold s2
        split <;> simp [s1]
      simp [src, h2]
    · rfl
  · rfl

theorem State.settle_blocks (s : State) (g : Grid) (p : Proposal) (cv : ChoiceState) (exited : Bool) :
    (s.settle g p cv exited).blocks = s.blocks := by
  unfold State.settle
  split
  · extract_lets base oldRwc old v gn s1 s2 s3
    have h2 : s2.blocks = s.blocks := by
      unfold s2
      split <;> simp [s1]
    simp [s3, h2]
  · rfl

theorem State.settleLanes_blocks (s : State) (t : Team) (homes : List Nat) (exited : Bool) : (s.settleLanes t homes exited).blocks = s.blocks := by
  unfold State.settleLanes
  split
  · refine foldl_keeps State.blocks _ s fun s h => ?_
    split
    · rfl
    · split
      · split
        · rfl
        · exact State.settle_blocks _ _ _ _ _
      · rfl
  · rfl

theorem State.publish_sameBlocks (s : State) (b : Block) (v : Word) : SameBlocks s (s.publish b v) := .modBlock s b.uid

theorem State.die_sameBlocks (s : State) (t : Team) (cause : Byte) : SameBlocks s (s.die t cause) := by
  unfold State.die
  extract_lets s1 s2 s3 s4 s5
  have h5 : SameBlocks s s5 := by
    have h1 : SameBlocks s s1 := ((s.drainAll_quiets t.uid).trans ((s.drainAll t.uid).settleBounds_quiets t.uid)).blocks
    have h3 : SameBlocks s s3 := h1.trans (.of_blocks (s2.settleLanes_blocks _ _ _))
    unfold s5
    split <;> exact h3
  refine h5.trans ?_
  split
  · exact .refl s5
  · rename_i b _
    extract_lets s6 s7 s8
    have h8 : SameBlocks s5 s8 := by
      have h6 : SameBlocks s5 s6 := .modBlock s5 b.uid
      have h7 : SameBlocks s5 s7 := by
        unfold s7
        split <;> exact h6
      unfold s8
      split
      · exact h7.trans (.modBlock s7 b.uid)
      · exact h7
    split
    · exact h8.trans (s8.publish_sameBlocks b _)
    · exact h8

theorem State.endTeam_sameBlocks (s : State) (uid : Nat) (cause : Byte) : SameBlocks s (s.endTeam uid cause) := by
  unfold State.endTeam
  split
  · exact .refl s
  · split
    · exact .refl s
    · extract_lets dumps
      split
      · split
        · exact State.die_sameBlocks _ _ _
        · exact .refl s
      · exact s.die_sameBlocks _ _

/-! ### A block that resumes goes on (R54, R212) -/

theorem State.resumeTeam_sameBlocks (s : State) (t : Team) : SameBlocks s (s.resumeTeam t) := by
  unfold State.resumeTeam
  extract_lets cvcap
  split
  · exact .refl s
  · split
    · exact s.endTeam_sameBlocks _ _
    · split
      · exact s.endTeam_sameBlocks _ _
      · have hjobs : SameBlocks s ((s.modTeam t.uid Team.afterResume).dropStaleJobs t.uid) := by
          unfold State.dropStaleJobs
          split
          · exact .refl s
          · split
            · exact .refl s
            · exact .modBlock s _
        exact hjobs.trans (.of_blocks (by simpa using (State.acquire_adds _ t.core 4).blocks))

/-- A resuming block of which no live team is in its restore handler has resumed. -/
theorem State.finishResume_resumed {k : Nat} (hb : s.block? k = some b) (hres : b.resuming = true) (hdone : s.contextsDone b = true) :
    ∃ b', (s.finishResume k).block? k = some b' ∧ b'.resuming = false := by
  have hfold : s.finishResume k = (s.teamsOf k).foldl (fun s t => s.resumeTeam ((s.team? t.uid).getD t))
      (s.modBlock k fun b => { b with resuming := false, sdirty := [] }) := by
    rw [State.finishResume, hb]
    exact if_neg (by simp [hres, hdone])
  have hres' := State.block?_modBlock_self hb (f := fun b => { b with resuming := false, sdirty := [] }) fun _ => rfl
  have hsame := SameBlocks.foldl (fun s (t : Team) => s.resumeTeam_sameBlocks ((s.team? t.uid).getD t)) (s.teamsOf k)
  obtain ⟨b', hb', hstands⟩ := (hsame _).block hres'
  exact ⟨b', hfold ▸ hb', congrArg BlockStanding.resuming hstands⟩

/-! ### A block whose teams have saved leaves its core (R75, R212) -/

theorem State.finishPreempt_leaves {k : Nat} (hb : s.block? k = some b) (hpre : b.preempting = true) (hsave : b.saving = true)
    (hdone : s.contextsDone b = true) (hcopies : s.hasCopies b = false) :
    ∃ b', (s.finishPreempt k).block? k = some b' ∧ b'.preempting = false ∧ b'.resident = false := by
  have hfold := SameBlocks.foldl (fun s (t : Team) => (s.drainAll_quiets t.uid).blocks.trans (SameBlocks.of_blocks
    (s1 := (s.drainAll t.uid).modTeam t.uid fun t => { t with preempted := true, tokenWait := none }) rfl)) (s.teamsOf k) s
  rw [State.finishPreempt, hb]
  dsimp -zeta only
  rw [if_neg (by simp [hpre, hsave, hdone, hcopies])]
  extract_lets s1 s2
  have hsame : SameBlocks s s2 := by
    unfold s2
    split <;> exact hfold
  obtain ⟨b2, hb2, -⟩ := hsame.block hb
  exact ⟨_, State.block?_modBlock_self hb2 fun _ => rfl, rfl, rfl⟩

end Sys2Proof.Machine
end

section
/-! PROOF. Pre-emption and resumption (R188, R212, R213, R54): with what registers a block's teams enter their save and restore handlers, and that
the block leaves its core and comes back to one. -/

namespace Sys2Proof.Machine

open Sys2Proof Safety

variable {s : State} {t t' u : Team} {b b' : Block} {g : Grid}

/-! ### A team in a context (R213) -/

/-- The scalar registers that R213 sets in a context, by number. -/
def contextParams (b : Block) (g : Grid) (tix : Nat) : List (Nat × Word) :=
  [(0, b.saveBase.setWidth 32), (1, b.saveBase.extractLsb' 32 32), (2, b.bimga.setWidth 32), (3, b.bimga.extractLsb' 32 32),
    (4, BitVec.ofNat 32 tix), (5, BitVec.ofNat 32 g.teams)]

theorem Team.enterContext_readS (t : Team) (b : Block) (g : Grid) (restore : Bool) (entry : Double) {k : Nat} {x : Word} (hk : k < 64)
    (hx : (k, x) ∈ contextParams b g t.tix) : (t.enterContext b g restore entry).readS k = x :=
  vget_foldl_vput (contextParams b g t.tix) _ 0 x (by simp [contextParams]) hk hx

/-- A team that enters a context stands at its handler's entry, with the registers of R213. -/
theorem Team.enterContext_inContext (t : Team) (b : Block) (g : Grid) (restore : Bool) (entry : Double) :
    InContext g b t (t.enterContext b g restore entry) entry (if restore then 3 else 2) where
  path := ⟨rfl, rfl, rfl, rfl, rfl⟩
  sizes := ⟨rfl, rfl⟩
  params := by
    have hread := fun k x (hk : k < 64) => t.enterContext_readS b g restore entry (k := k) (x := x) hk
    refine ⟨?_, ?_, hread 4 _ (by omega) (by simp [contextParams]), hread 5 _ (by omega) (by simp [contextParams])⟩
    · rw [Team.readSP, hread 0 (b.saveBase.setWidth 32) (by omega) (by simp [contextParams]),
        hread 1 (b.saveBase.extractLsb' 32 32) (by omega) (by simp [contextParams]), word_halves]
    · rw [Team.readSP, hread 2 (b.bimga.setWidth 32) (by omega) (by simp [contextParams]),
        hread 3 (b.bimga.extractLsb' 32 32) (by omega) (by simp [contextParams]), word_halves]

/-- Of the block a context shows its save area and its image, and of the team its size and its number in the block. -/
theorem inContext_congr {entry : Double} {active : Byte} (h : InContext g b t t' entry active) (hbase : b'.saveBase = b.saveBase)
    (himg : b'.bimga = b.bimga) (ht : u.bearing = t.bearing) : InContext g b' u t' entry active := by
  have hngrp : u.ngrp = t.ngrp := congrArg TeamBearing.ngrp ht
  have htix : u.tix = t.tix := congrArg TeamBearing.tix ht
  obtain ⟨hpath, hsizes, hparams⟩ := h
  exact ⟨by rwa [hngrp], hsizes, by rwa [hbase, himg, htix]⟩

/-! ### The live teams of a block, one after the other -/

/-- A team that bears the number n after updates of teams: what I says of it still holds, and what every update brings about, Q, once one of
them is of that number. -/
theorem State.team?_foldl_modTeam {α : Type} {key : α → Nat} {act : α → Team → Team} {I Q : Team → Prop} {n : Nat}
    (hid : ∀ x t, (act x t).uid = t.uid) (hact : ∀ x t, I t → I (act x t) ∧ Q (act x t)) (l : List α) (ht : s.team? n = some t) (hI : I t) :
    ∃ t', (l.foldl (fun s x => s.modTeam (key x) (act x)) s).team? n = some t' ∧ I t' ∧ (Q t ∨ n ∈ l.map key → Q t') := by
  induction l generalizing s t with
  | nil => exact ⟨t, ht, hI, by simp⟩
  | cons x l ih =>
    rw [List.foldl_cons]
    by_cases hx : key x = n
    · obtain ⟨hI', hQ'⟩ := hact x t hI
      rw [hx]
      obtain ⟨t', hfind, hkeep, hdone⟩ := ih (State.team?_modTeam_self ht (hid x)) hI'
      exact ⟨t', hfind, hkeep, fun _ => hdone (.inl hQ')⟩
    · have hother : (s.modTeam (key x) (act x)).team? n = some t := by
        rw [State.team?_modTeam s _ (hid x), ht, Option.map_some, if_neg (Ne.symm hx)]
      obtain ⟨t', hfind, hkeep, hdone⟩ := ih hother hI
      refine ⟨t', hfind, hkeep, fun h => hdone ?_⟩
      rwa [List.map_cons, List.mem_cons, or_iff_right (Ne.symm hx)] at h

/-- The live teams of a block. -/
def State.liveTeams (s : State) (k : Nat) : List Team := (s.teamsOf k).filter fun t => t.cause == 0

theorem State.uid_mem_liveTeams {k n : Nat} (ht : s.team? n = some t) (hblk : t.blk = k) (hcause : t.cause = 0) :
    n ∈ (s.liveTeams k).map Team.uid := by
  refine List.mem_map.mpr ⟨t, ?_, State.team?_uid ht⟩
  simp [State.liveTeams, State.teamsOf, List.mem_of_find?_eq_some ht, hblk, hcause]

/-- The live teams of block k enter their handlers. -/
def State.enterContexts (s : State) (b : Block) (g : Grid) (restore : Bool) (entry : Double) (k : Nat) : State :=
  (s.liveTeams k).foldl (fun s t => s.modTeam t.uid fun t => t.enterContext b g restore entry) s

theorem State.enterContexts_eq (s : State) (b : Block) (g : Grid) (restore : Bool) (entry : Double) (k : Nat) :
    (s.teamsOf k).foldl (fun s t => if t.cause = 0 then s.modTeam t.uid fun t => t.enterContext b g restore entry else s) s =
      s.enterContexts b g restore entry k := by
  simp [State.enterContexts, State.liveTeams, List.foldl_filter]

theorem State.enterContexts_blocks (s : State) (b : Block) (g : Grid) (restore : Bool) (entry : Double) (k : Nat) :
    (s.enterContexts b g restore entry k).blocks = s.blocks :=
  foldl_keeps State.blocks _ s

theorem State.enterContexts_mem (s : State) (b : Block) (g : Grid) (restore : Bool) (entry : Double) (k : Nat) :
    (s.enterContexts b g restore entry k).mem = s.mem :=
  foldl_keeps State.mem _ s

theorem State.enterContexts_team {k n : Nat} (restore : Bool) (entry : Double) (ht : s.team? n = some t) (hblk : t.blk = k) (hcause : t.cause = 0) :
    ∃ t', (s.enterContexts b g restore entry k).team? n = some t' ∧ t'.core = t.core ∧
      InContext g b t t' entry (if restore then 3 else 2) := by
  obtain ⟨t', hfind, ⟨-, hcore⟩, hdone⟩ := State.team?_foldl_modTeam (key := Team.uid)
    (act := fun _ v => v.enterContext b g restore entry) (I := fun v => v.bearing = t.bearing ∧ v.core = t.core)
    (Q := fun v => InContext g b t v entry (if restore then 3 else 2)) (fun _ _ => rfl)
    (fun _ v ⟨hbear, hcore⟩ => ⟨⟨hbear, hcore⟩, inContext_congr (v.enterContext_inContext b g restore entry) rfl rfl hbear.symm⟩)
    (s.liveTeams k) ht ⟨rfl, rfl⟩
  exact ⟨t', hfind, hcore, hdone (.inr (State.uid_mem_liveTeams ht hblk hcause))⟩

theorem State.team?_of_single (h : Single s t) : s.team? t.uid = some t := by
  obtain ⟨hmem, -, hsole⟩ := h
  cases hfind : s.teams.find? fun u => u.uid == t.uid with
  | none => exact absurd (List.find?_eq_none.mp hfind t hmem) (by simp)
  | some u => exact hfind.trans (congrArg some (hsole u (List.mem_of_find?_eq_some hfind) (State.team?_uid hfind)))

/-! ### Pre-emption begins (R212, R213) -/

theorem State.Unstalled.allFinished {k : Nat} (h : s.Unstalled k) : s.allFinished k = true := by
  rw [State.allFinished, List.all_eq_true]
  intro t ht
  simp only [State.teamsOf, List.mem_filter, beq_iff_eq] at ht
  obtain ⟨hmem, hblk⟩ := ht
  by_cases hcause : t.cause = 0
  · obtain ⟨-, -, hfinish⟩ := h t hmem hblk hcause
    simp [Team.finishing, hfinish]
  · rw [Team.finishing, beq_false_of_ne hcause]
    rfl

/-- It stands as it did, but that its save handlers have begun. -/
def BlockStanding.asSaving (x : BlockStanding) : BlockStanding := { x with saving := true }

/-- The block as its save handlers begin, its dirty map written (R63). -/
def Block.beginSave (b : Block) : Block := { b.saveDirty with saving := true }

/-- With no copy left and nothing to finish, the dirty map is written and the block's live teams enter their save handlers. -/
theorem State.goOnPreempt_saves {k : Nat} (hb : s.block? k = some b) (hsaving : b.saving = false) (hcopies : s.hasCopies b = false)
    (hun : s.Unstalled k) (hentry : g.saveh ≠ 0) :
    ∃ b', (s.goOnPreempt g k).block? k = some b' ∧ b'.standing = b.standing.asSaving ∧
      ∀ n t, s.team? n = some t → t.cause = 0 → t.blk = k →
        ∃ t', (s.goOnPreempt g k).team? n = some t' ∧ InContext g b' t t' g.saveh 2 := by
  rw [State.goOnPreempt, hb]
  dsimp -zeta only
  rw [if_neg (by simp [hsaving]), if_neg (by simp [hcopies, hun.allFinished])]
  extract_lets s1 s2
  have hquiet : Quiets s s1 := .foldl (fun s (t : Team) => .ite (s.quiesce_quiets t.uid)) _ s
  obtain ⟨b1, hb1, hstands⟩ := hquiet.blocks.block hb
  have hb2 : s2.block? k = some b1.beginSave := State.block?_modBlock_self hb1 fun _ => rfl
  rw [if_neg hentry, State.enterContexts_eq]
  refine ⟨b1.beginSave, ?_, congrArg BlockStanding.asSaving hstands, fun n t ht hcause hblk => ?_⟩
  · rwa [State.block?, State.enterContexts_blocks]
  · obtain ⟨t1, ht1, hbear⟩ := hquiet.team ht
    obtain ⟨t', ht', -, hin⟩ := State.enterContexts_team (s := s2) (b := b) (g := g) false g.saveh ht1
      ((congrArg TeamBearing.blk hbear).trans hblk) ((congrArg TeamBearing.cause hbear).trans hcause)
    exact ⟨t', ht', inContext_congr hin (congrArg BlockStanding.saveBase hstands) (congrArg BlockStanding.bimga hstands) hbear.symm⟩

theorem Block.assignSave_standing (h : b'.standing = b.standing) (saves : List (Nat × Double)) :
    (b'.assignSave saves).standing = (b.assignSave saves).standing := by
  have huid : b'.uid = b.uid := congrArg BlockStanding.uid h
  have hassigned : b'.saveAssigned = b.saveAssigned := congrArg BlockStanding.saveAssigned h
  simp only [Block.standing, BlockStanding.mk.injEq] at h
  obtain ⟨-, hcore, himg, hbase, -, hpre, hsaving, hres⟩ := h
  unfold Block.assignSave
  rw [hassigned, huid]
  split <;> simp [Block.standing, *]

theorem Block.assignSave_keeps (b : Block) (saves : List (Nat × Double)) : (b.assignSave saves).uid = b.uid ∧
    (b.assignSave saves).core = b.core ∧ (b.assignSave saves).saving = b.saving := by
  unfold Block.assignSave
  split <;> exact ⟨rfl, rfl, rfl⟩

theorem Block.assignSave_saveAssigned (b : Block) (saves : List (Nat × Double)) : (b.assignSave saves).saveAssigned = true := by
  unfold Block.assignSave
  split
  · assumption
  · rfl

/-- The save area is the one that the block has, or the one that its first pre-emption gives it (R213). -/
theorem Block.assignSave_area {saves : List (Nat × Double)} (h : s.savesOk g [b] saves = true) :
    if b.saveAssigned then (b.assignSave saves).saveBase = b.saveBase else saves.lookup b.uid = some (b.assignSave saves).saveBase := by
  unfold Block.assignSave
  split
  · rfl
  · cases hlook : saves.lookup b.uid with
    | some a => rfl
    | none => simp [State.savesOk, *] at h

/-- The block as its pre-emption begins. -/
def Block.drivenOut (saves : List (Nat × Double)) (b : Block) : Block := { b.assignSave saves with preempting := true }

theorem Block.drivenOut_standing (h : b'.standing = b.standing) (saves : List (Nat × Double)) :
    (b'.drivenOut saves).standing = (b.drivenOut saves).standing :=
  congrArg (fun x : BlockStanding => { x with preempting := true }) (Block.assignSave_standing h saves)

/-- A block that is driven out is being pre-empted, has its save area, and its live teams stand in their save handlers. -/
theorem State.beginPreempt_saves (saves : List (Nat × Double)) (hb : s.block? b.uid = some b) (hsaving : b.saving = false)
    (hcopies : s.hasCopies b = false) (hun : s.Unstalled b.uid) (hentry : g.saveh ≠ 0) :
    ∃ b', (s.beginPreempt g saves b.uid).block? b.uid = some b' ∧
      b'.standing = (b.drivenOut saves).standing.asSaving ∧
      ∀ t, Single s t → t.blk = b.uid → ∃ t', (s.beginPreempt g saves b.uid).team? t.uid = some t' ∧ InContext g b' t t' g.saveh 2 := by
  unfold State.beginPreempt
  extract_lets s1
  have hquiet : Quiets s s1 := .foldl (fun s (t : Team) => .ite (s.quiesce_quiets t.uid)) _ s
  obtain ⟨b1, hb1, hstands⟩ := hquiet.blocks.block hb
  have hb2 : (s1.modBlock b.uid (Block.drivenOut saves)).block? b.uid = some (b1.drivenOut saves) :=
    State.block?_modBlock_self hb1 fun b => (b.assignSave_keeps saves).1
  obtain ⟨huid, hcore, hsaves⟩ := b1.assignSave_keeps saves
  have hcopies2 : (s1.modBlock b.uid (Block.drivenOut saves)).hasCopies (b1.drivenOut saves) = false :=
    (hquiet.hasCopies (huid.trans (congrArg BlockStanding.uid hstands)) (hcore.trans (congrArg BlockStanding.core hstands))).trans hcopies
  obtain ⟨b', hb', hstands', hteams⟩ := State.goOnPreempt_saves hb2
    (hsaves.trans ((congrArg BlockStanding.saving hstands).trans hsaving)) hcopies2 (hquiet.unstalled _ hun) hentry
  refine ⟨b', hb', hstands'.trans (congrArg BlockStanding.asSaving (Block.drivenOut_standing hstands saves)), fun t ht hblk => ?_⟩
  obtain ⟨t1, ht1, hbear⟩ := hquiet.team (State.team?_of_single ht)
  obtain ⟨-, hcause, -⟩ := ht
  obtain ⟨t', ht', hin⟩ := hteams _ t1 ht1 ((congrArg TeamBearing.cause hbear).trans hcause) ((congrArg TeamBearing.blk hbear).trans hblk)
  exact ⟨t', ht', inContext_congr hin rfl rfl hbear.symm⟩

/-- PREEMPT of a block that must go: pre-emption begins. -/
theorem execPreempt_begins {gid : Nat} {call : PreemptCall} (hg : s.grid? gid = some g) (hb : s.block? b.uid = some b) (hgid : b.gid = gid)
    (hcall : call.block = b.uid) (hnone : ∀ x ∈ s.blocks, x.preempting = false) (hgang : g.gang = false) (hyields : s.yields b = true)
    (hstarved : s.starved g.prio = true) (hlast : s.lastIn g b = true) (hsaves : s.savesOk g [b] call.saves = true) :
    execPreempt gid call s = .next (s.beginPreempt g call.saves b.uid) := by
  have hpre : b.preempting = false := hnone b (List.mem_of_find?_eq_some hb)
  have hany : s.blocks.any Block.preempting = false := by simpa using hnone
  simp [execPreempt, hcall, hg, hb, hgid, hpre, hany, State.together, hgang, hyields, hstarved, hlast, hsaves]

/-- PREEMPT of a block whose teams save: it goes off its core once they have. -/
theorem execPreempt_goesOn {gid : Nat} {call : PreemptCall} (hg : s.grid? gid = some g) (hb : s.block? b.uid = some b) (hgid : b.gid = gid)
    (hcall : call.block = b.uid) (hpre : b.preempting = true) (hsaving : b.saving = true) :
    execPreempt gid call s = .next (s.finishPreempt b.uid) := by
  simp [execPreempt, hcall, hg, hb, hgid, hpre, State.goOnPreempt, hsaving]

/-! ### Resumption begins (R54, R212) -/

theorem Team.evict_bearing (t : Team) (l : RegLine) : (t.evict l).bearing = t.bearing := by
  have hback : (t.writeBack l).bearing = t.bearing := by
    unfold Team.writeBack
    split
    · rfl
    · cases l with
      | vector k =>
        dsimp only
        split <;> rfl
      | aux k => rfl
      | freed k => rfl
  rw [← hback]
  unfold Team.evict Team.setAbsent
  cases l <;> rfl

/-- The team on another core (R54, R261), in quadrant x.1 and slot x.2. -/
def Team.changeCore (core : Nat) (x : Nat × Nat) (t : Team) : Team :=
  (({ (if t.core = core then t else t.leaveCore) with core := core, quad := x.1, slot := x.2 } : Team)).moveUnit core

theorem Team.changeCore_bearing (core : Nat) (x : Nat × Nat) (t : Team) : (t.changeCore core x).bearing = t.bearing := by
  have hleave : t.leaveCore.bearing = t.bearing := foldl_keeps Team.bearing t.lines t Team.evict_bearing
  change (if t.core = core then t else t.leaveCore).bearing = t.bearing
  split
  · rfl
  · exact hleave

theorem placeTeams_uids (held ts : List Team) : (placeTeams held ts).map Prod.fst = ts.map Team.uid := by
  induction ts generalizing held with
  | nil => rfl
  | cons t ts ih => exact congrArg (t.uid :: ·) (ih _)

/-- The live teams of a block change to the core. -/
def State.changeCores (s : State) (k core : Nat) : State :=
  (placeTeams (s.slotTeams core) (s.liveTeams k)).foldl (fun s x => s.modTeam x.1 (Team.changeCore core x.2)) s

/-- The block as it enters again: its image reloaded, its scratch zero. -/
def Block.back (core : Nat) (b : Block) : Block := { b.reload with core := core, resident := true, resuming := true, scratch := [] }

/-- What a block's entering again does to its teams, its blocks and memory. -/
theorem State.reenter_keeps (s : State) (b : Block) (core : Nat) : (s.reenter b core).teams = (s.changeCores b.uid core).teams ∧
    (s.reenter b core).blocks = (s.modBlock b.uid (Block.back core)).blocks ∧ (s.reenter b core).mem = s.mem := by
  have hblocks : (s.changeCores b.uid core).blocks = s.blocks := foldl_keeps State.blocks _ s
  have hmem : (s.changeCores b.uid core).mem = s.mem := foldl_keeps State.mem _ s
  unfold State.reenter
  extract_lets live s1 s2
  have h1 : s1 = s.changeCores b.uid core := rfl
  have h2 : s2.teams = s1.teams ∧ s2.blocks = s1.blocks ∧ s2.mem = s1.mem := by
    unfold s2
    split <;> exact ⟨rfl, rfl, rfl⟩
  rw [h1] at h2
  obtain ⟨hteams2, hblocks2, hmem2⟩ := h2
  refine ⟨hteams2, ?_, hmem2.trans hmem⟩
  rw [State.modBlock_blocks, State.modBlock_blocks, hblocks2, hblocks]
  rfl

theorem State.changeCores_team {k n : Nat} (core : Nat) (ht : s.team? n = some t) (hblk : t.blk = k) (hcause : t.cause = 0) :
    ∃ t', (s.changeCores k core).team? n = some t' ∧ t'.bearing = t.bearing ∧ t'.core = core := by
  obtain ⟨t', hfind, hkeep, hdone⟩ := State.team?_foldl_modTeam (key := Prod.fst)
    (act := fun x => Team.changeCore core x.2) (I := fun v => v.bearing = t.bearing) (Q := fun v => v.core = core)
    (fun x v => congrArg TeamBearing.uid (v.changeCore_bearing core x.2))
    (fun x v hv => ⟨(v.changeCore_bearing core x.2).trans hv, rfl⟩) (placeTeams (s.slotTeams core) (s.liveTeams k)) ht rfl
  refine ⟨t', hfind, hkeep, hdone (.inr ?_)⟩
  rw [placeTeams_uids]
  exact State.uid_mem_liveTeams ht hblk hcause

/-- A block that resumes: it is on its core, with zero scratch, and its live teams stand in their restore handlers there. -/
theorem State.beginResume_restores (core : Nat) (hb : s.block? b.uid = some b) (hentry : g.resth ≠ 0) :
    (s.beginResume g b core).mem = s.mem ∧ (s.beginResume g b core).block? b.uid = some (b.back core) ∧
      ∀ t, Single s t → t.blk = b.uid →
        ∃ t', (s.beginResume g b core).team? t.uid = some t' ∧ t'.core = core ∧ InContext g b t t' g.resth 3 := by
  have hheld := s.writeHeld_adds g core
  have hblocks : (s.writeHeld g core).blocks = s.blocks := by simpa using hheld.blocks
  have hteams : (s.writeHeld g core).teams = s.teams := by simpa using hheld.teams
  obtain ⟨hteams1, hblocks1, hmem1⟩ := (s.writeHeld g core).reenter_keeps b core
  have hb1 : ((s.writeHeld g core).reenter b core).block? b.uid = some (b.back core) := by
    rw [State.block?, hblocks1]
    exact State.block?_modBlock_self (by rwa [State.block?, hblocks]) fun _ => rfl
  have heq : s.beginResume g b core = ((s.writeHeld g core).reenter b core).enterContexts (b.back core) g true g.resth b.uid := by
    unfold State.beginResume
    extract_lets s1
    rw [if_neg hentry, hb1]
    exact State.enterContexts_eq s1 (b.back core) g true g.resth b.uid
  rw [heq]
  refine ⟨(State.enterContexts_mem _ _ _ _ _ _).trans (hmem1.trans hheld.mem), ?_, fun t hsingle hblk => ?_⟩
  · rw [State.block?, State.enterContexts_blocks]
    exact hb1
  · have ht := State.team?_of_single hsingle
    obtain ⟨-, hcause, -⟩ := hsingle
    obtain ⟨t1, ht1, hbear1, hcore1⟩ := State.changeCores_team (s := s.writeHeld g core) core (by rwa [State.team?, hteams]) hblk hcause
    obtain ⟨t', ht', hcore', hin⟩ := State.enterContexts_team (b := b.back core) (g := g) true g.resth
      (show ((s.writeHeld g core).reenter b core).team? t.uid = some t1 by rwa [State.team?, hteams1])
      ((congrArg TeamBearing.blk hbear1).trans hblk) ((congrArg TeamBearing.cause hbear1).trans hcause)
    exact ⟨t', ht', hcore'.trans hcore1, inContext_congr hin rfl rfl hbear1.symm⟩

/-- PREEMPT_RESUME of a block that fits: resumption begins. -/
theorem execPreemptResume_begins {gid core : Nat} (hg : s.grid? gid = some g) (hb : s.block? b.uid = some b) (hgid : b.gid = gid)
    (hres : b.resuming = false) (hgang : g.gang = false) (hfits : s.resumeFits g b core = true) (hoffer : s.offered g core 0 = true) :
    execPreemptResume gid b.uid core s = .next (s.beginResume g b core) := by
  simp [execPreemptResume, hg, hb, hgid, hres, hgang, hfits, hoffer]

/-- PREEMPT_RESUME of a block that resumes: resumption ends once its teams have restored. -/
theorem execPreemptResume_goesOn {gid : Nat} (core : Nat) (hg : s.grid? gid = some g) (hb : s.block? b.uid = some b) (hgid : b.gid = gid)
    (hres : b.resuming = true) : execPreemptResume gid b.uid core s = .next (s.finishResume b.uid) := by
  simp [execPreemptResume, hg, hb, hgid, hres]

/-! ### The obligation -/

/-- Settles O45: a block that must go has its teams in their save handlers (State.beginPreempt_saves) and then leaves its core
(State.finishPreempt_leaves); it comes back with its teams in their restore handlers (State.beginResume_restores) and then has resumed
(State.finishResume_resumed). -/
theorem preemption : Obligations.Preemption := by
  unfold Obligations.Preemption
  intro s gid core g b call hg hb hgid hcall
  refine ⟨?_, ?_, ?_, ?_⟩
  · intro hsaving hnone hgang hyields hstarved hlast hentry hcopies hsaves hun
    obtain ⟨b', hb', hstands, hteams⟩ := State.beginPreempt_saves (g := g) call.saves hb hsaving hcopies hun hentry
    have hassigned : b'.saveAssigned = (b.assignSave call.saves).saveAssigned := congrArg BlockStanding.saveAssigned hstands
    have hbase : b'.saveBase = (b.assignSave call.saves).saveBase := congrArg BlockStanding.saveBase hstands
    refine ⟨_, b', execPreempt_begins hg hb hgid hcall hnone hgang hyields hstarved hlast hsaves, hb',
      congrArg BlockStanding.preempting hstands, congrArg BlockStanding.saving hstands, ?_, ?_, hteams⟩
    · exact hassigned.trans (b.assignSave_saveAssigned call.saves)
    · rw [hbase]
      exact Block.assignSave_area hsaves
  · intro hpre hsaving hdone hcopies
    obtain ⟨b', hb', hleft⟩ := State.finishPreempt_leaves hb hpre hsaving hdone hcopies
    exact ⟨_, b', execPreempt_goesOn hg hb hgid hcall hpre hsaving, hb', hleft⟩
  · intro hres hgang hfits hoffer hentry
    obtain ⟨hmem, hb', hteams⟩ := State.beginResume_restores core hb hentry
    exact ⟨_, b.back core, execPreemptResume_begins hg hb hgid hres hgang hfits hoffer, hmem, hb', rfl, rfl, rfl, rfl, hteams⟩
  · intro hres hdone
    obtain ⟨b', hb', hres'⟩ := State.finishResume_resumed hb hres hdone
    exact ⟨_, b', execPreemptResume_goesOn core hg hb hgid hres, hb', hres'⟩

end Sys2Proof.Machine
end

section
/-! PROOF. Conveyance (R267, R425): the word of a holding that is conveyed or heirless, the two teams' estates, the end of a conveyance, and
one that a fault of its word has stopped. -/

namespace Sys2Proof.Machine

open Sys2Proof

variable {s s1 : State} {g : Grid} {c : Conveyance} {x h : Team} {gid uid k pa v : Nat} {p : Process}

/-! ### Finding teams -/

theorem State.team?_self {n : Nat} (h : s.team? n = some x) : s.team? x.uid = some x := by rwa [State.team?_uid h]

/-- An update of one team leaves every other as it was. -/
theorem State.team?_modTeam_other {n m : Nat} {f : Team → Team} (hm : m ≠ n) (hf : ∀ u, (f u).uid = u.uid) :
    (s.modTeam n f).team? m = s.team? m := by
  rw [State.team?_modTeam s f hf]
  simp [hm]

/-! ### The word of a holding (R265, R266) -/

/-- What the word of an heirless lock (kind 1) or promise becomes (R267). -/
def heirlessWord (kind : BitVec 3) (w : Nat) : Nat := if kind = 1 then poisonedLock w else brokenPromise w

theorem mkLock_lt {owner : Nat} (howner : owner < 2 ^ 32) (poisoned bereaved : Bool) (waiters : Nat) :
    mkLock owner poisoned bereaved waiters < 256 ^ 8 := by
  unfold mkLock
  split <;> split <;> omega

theorem mkPromise_lt (value state : Nat) (bereaved : Bool) : mkPromise value state bereaved < 256 ^ 8 := by
  unfold mkPromise
  split <;> omega

theorem heirlessWord_lt (kind : BitVec 3) (w : Nat) : heirlessWord kind w < 256 ^ 8 := by
  unfold heirlessWord
  split
  · exact mkLock_lt (by decide) _ _ _
  · exact mkPromise_lt _ _ _

/-- From s to s' the word at pa takes the value v; teams, grids, blocks and the rest of device memory stay. -/
structure WritesWord (s s' : State) (pa v : Nat) : Prop where
  teams : s'.teams = s.teams
  grids : s'.grids = s.grids
  blocks : s'.blocks = s.blocks
  word : s'.wordAt (.phys pa) = v
  outside : ∀ a, ¬(pa ≤ a ∧ a < pa + 8) → Memory.read s'.mem a = Memory.read s.mem a

theorem WritesWord.team?_eq {n : Nat} (h : WritesWord s s1 pa v) : s1.team? n = s.team? n := by rw [State.team?, State.team?, h.teams]

theorem State.uncorrectableAt_phys (hp : s.poison = []) (hs : s.soft = []) (core pa size : Nat) :
    s.uncorrectableAt core (.phys pa) size = false := by
  simp [State.uncorrectableAt, State.uncorrectable, State.badPhys, State.badSector, hp, hs]

/-- Where nothing is uncorrectable, a word of device memory takes its change (R425). -/
theorem State.changeWord_writesWord (hp : s.poison = []) (hs : s.soft = []) (hm : Memory.wf s.mem = true) (core pa : Nat) {f : Nat → Nat}
    (hf : ∀ w, f w < 256 ^ 8) : WritesWord s (s.changeWord core (.phys pa) f) pa (f (s.wordAt (.phys pa))) := by
  have hlen := leBytes_length 8 (f (s.wordAt (.phys pa)))
  rw [State.changeWord, State.uncorrectableAt_phys hp hs, if_neg Bool.false_ne_true, State.putWord, State.writeHome_phys hs hp]
  refine ⟨rfl, rfl, rfl, ?_, fun a ha => Memory.read_writeBytes_outside _ _ _ (by omega)⟩
  have hread := Memory.readBytes_writeBytes s.mem pa (leBytes 8 (f (s.wordAt (.phys pa)))) hm
  rw [hlen] at hread
  exact (congrArg leNat hread).trans (leNat_leBytes 8 _ (hf _))

/-! ### One holding -/

/-- The team without the holding of slot k (R262). -/
def Team.releaseSlot (t : Team) (k : Nat) (hkind : BitVec 2) : Team := { t with estate := Estate.release t.estate k hkind }

/-- The team with the conveyed holding, when it has a free slot (R267). -/
def Team.inherit (t : Team) (e : EstateSlot) : Team :=
  { t with estate := ((Estate.enter t.estate e.kind e.addr e.count.toNat true).map Prod.snd).getD t.estate }

theorem Team.releaseSlot_uid (k : Nat) (hkind : BitVec 2) (t : Team) : (t.releaseSlot k hkind).uid = t.uid := rfl

theorem Team.inherit_uid (e : EstateSlot) (t : Team) : (t.inherit e).uid = t.uid := rfl

theorem State.heirKind_of_grids (hgrids : s1.grids = s.grids) (t : Team) : s1.heirKind t = s.heirKind t := by
  rw [State.heirKind, State.heirKind, State.gridOf, State.gridOf, State.grid?, State.grid?, hgrids]

/-- The word of a holding is reached where the dead team's process maps it. -/
theorem State.atWord_phys {e : EstateSlot} (hproc : s.procOf x = some p) (hplace : s.wordPlace p e.addr = .ok (.phys pa))
    (f : Target → State) : s.atWord x e f = .ok (f (.phys pa)) := by
  rw [State.atWord, hproc, Option.map_some, hplace]

/-- Without an estate handler to start, an heirless holding is only counted (R267, R269). -/
theorem State.heirlessHandler_silent {e : EstateSlot} (hsilent : e.quiet = true ∨ g.esth = 0) (slot : Nat) :
    s.heirlessHandler g x slot e = s.count 4 := by
  rcases hsilent with hquiet | hesth
  · simp [State.heirlessHandler, hquiet]
  · simp [State.heirlessHandler, mayHandle, hesth]

/-- The word of a lock or promise that no heir takes is poisoned or broken (R267). -/
theorem State.heirlessEffect_word {e : EstateSlot} (hkind : e.kind = 1 ∨ e.kind = 2) (hproc : s.procOf x = some p)
    (hplace : s.wordPlace p e.addr = .ok (.phys pa)) :
    s.heirlessEffect x e = .ok (s.changeWord x.core (.phys pa) (heirlessWord e.kind)) := by
  rcases hkind with hlock | hpromise
  · rw [show heirlessWord e.kind = poisonedLock by rw [hlock]; rfl]
    simp only [State.heirlessEffect, hlock]
    exact State.atWord_phys hproc hplace _
  · rw [show heirlessWord e.kind = brokenPromise by rw [hpromise]; rfl]
    simp only [State.heirlessEffect, hpromise]
    exact State.atWord_phys hproc hplace _

/-- The word of a promise that an heir takes says that it was conveyed (R266, R267). -/
theorem State.conveyEffect_promise {e : EstateSlot} {heir : Heir} (hkind : e.kind = 2) (hproc : s.procOf x = some p)
    (hplace : s.wordPlace p e.addr = .ok (.phys pa)) :
    s.conveyEffect g x e heir = .ok (s.changeWord x.core (.phys pa) conveyedPromise) := by
  have hword : s.conveyEffect g x e heir = s.atWord x e fun tg => s.changeWord x.core tg conveyedPromise := by
    unfold State.conveyEffect
    rw [hkind]
    rfl
  exact hword.trans (State.atWord_phys hproc hplace _)

/-- The heir that takes the holding of slot k, if one can (R267). -/
def State.taker (s : State) (g : Grid) (x : Team) (k : Nat) : Option Heir :=
  let e := Estate.slot x.estate k
  (s.heirOf g x e).filter fun h => s.acceptable g x e h

/-- A holding that no heir takes has its effect, is counted, and its slot is freed (R267). -/
theorem State.conveySlot_heirless (hnone : s.taker g x k = none) (hsilent : (Estate.slot x.estate k).quiet = true ∨ g.esth = 0)
    (heffect : s.heirlessEffect x (Estate.slot x.estate k) = .ok s1) (hgrids : s1.grids = s.grids) :
    s.conveySlot g x k = .ok ((s1.count 4).modTeam x.uid fun t => t.releaseSlot k (s.heirKind x)) := by
  have hdefault : (s1.count 4).heirKind x = s.heirKind x := State.heirKind_of_grids hgrids x
  unfold State.taker at hnone
  simp only [State.conveySlot, hnone, heffect, State.heirlessHandler_silent hsilent, hdefault]
  rfl

/-- A promise that another team takes has its effect, that team holds it, and its slot is freed (R267). -/
theorem State.conveySlot_promise (hheir : s.taker g x k = some (.team h)) (hkind : (Estate.slot x.estate k).kind = 2)
    (heffect : s.conveyEffect g x (Estate.slot x.estate k) (.team h) = .ok s1) (hgrids : s1.grids = s.grids) :
    s.conveySlot g x k = .ok ((s1.modTeam h.uid fun t => t.inherit (Estate.slot x.estate k)).modTeam x.uid
      fun t => t.releaseSlot k (s.heirKind x)) := by
  have hdefault : (s1.modTeam h.uid fun t => t.inherit (Estate.slot x.estate k)).heirKind x = s.heirKind x :=
    State.heirKind_of_grids hgrids x
  unfold State.taker at hheir
  rw [← hdefault]
  simp only [State.conveySlot, hheir, heffect, hkind]
  rfl

/-! ### The conveyance unit -/

/-- With no holding left, and no wait to discard, the conveyance is over. -/
theorem State.conveyFrom_over (hg : s.grid? gid = some g) (hx : s.team? uid = some x) (hlast : Estate.last x.estate = none)
    (hrun : x.run = .ready) (n : Nat) : State.conveyFrom gid uid (n + 1) s = s.endConvey gid uid := by
  simp [State.conveyFrom, hg, hx, hlast, State.conveyWait, hrun, State.team?_uid hx]

theorem State.conveyFrom_slot (hg : s.grid? gid = some g) (hx : s.team? uid = some x) (hlast : Estate.last x.estate = some k)
    (hslot : s.conveySlot g x k = .ok s1) (n : Nat) : State.conveyFrom gid uid (n + 1) s = State.conveyFrom gid uid n s1 := by
  simp [State.conveyFrom, hg, hx, hlast, hslot]

/-- The grid's oldest conveyance runs, unless a fault stops it or a dump freezes the grid. -/
theorem execConvey_runs (hg : s.grid? gid = some g) (hc : g.conveying.head? = some c) (hfault : c.fault = none)
    (hthawed : s.gridFrozen gid = false) : execConvey gid s = .next (State.conveyFrom gid c.team 33 s) := by
  simp [execConvey, hg, hc, hfault, hthawed]

/-- The team whose conveyance ends waits no longer. -/
theorem State.endConvey_team (hx : s.team? uid = some x) (gid : Nat) : (s.endConvey gid uid).team? uid = some { x with run := .ready } := by
  rw [State.endConvey, State.modGrid_team?]
  exact State.team?_modTeam_self hx fun _ => rfl

/-- The end of a conveyance leaves every other team as it was. -/
theorem State.endConvey_team_other {n : Nat} (hn : n ≠ uid) (gid : Nat) : (s.endConvey gid uid).team? n = s.team? n := by
  rw [State.endConvey, State.modGrid_team?]
  exact State.team?_modTeam_other hn fun _ => rfl

/-- CONVEYANCE_WRITE_RETRY of a conveyance that a fault has stopped: by the status of its entry (R425). -/
theorem execConveyanceWriteRetry_faulted {ix : BitVec 12} {slot : Nat} {f : FaultEntry} (hg : s.grid? gid = some g)
    (hc : g.conveying.head? = some c) (hx : s.team? c.team = some x) (hthawed : s.gridFrozen gid = false) (hfault : c.fault = some (ix, slot))
    (hf : s.faultOf x ix = some f) :
    execConveyanceWriteRetry gid s = .next (
      let s1 := (s.freeFault (dieOf x.core) ix).modConvey gid x.uid fun c => { c with fault := none }
      if f.status = 0 then s
      else if f.status = 1 then State.conveyFrom gid x.uid 33 s1
      else if slot ≥ 32 then s1.denyConvey g x slot else State.conveyFrom gid x.uid 33 (s1.denyConvey g x slot)) := by
  simp [execConveyanceWriteRetry, hg, hc, hx, hthawed, hfault, hf]

/-! ### A team with one holding left -/

/-- The grid's oldest conveyance can run, and its dead team, which waits for nothing, has one holding left. -/
structure ConveysLast (s : State) (gid : Nat) (g : Grid) (c : Conveyance) (x : Team) (k : Nat) : Prop where
  grid : s.grid? gid = some g
  oldest : g.conveying.head? = some c
  team : s.team? c.team = some x
  thawed : s.gridFrozen gid = false
  ready : x.run = .ready
  unstopped : c.fault = none
  last : Estate.last x.estate = some k
  rest : Estate.last (x.releaseSlot k (s.heirKind x)).estate = none

/-- Once its holding has been conveyed, the conveyance is over within the step. -/
theorem ConveysLast.execConvey_ends (hlast : ConveysLast s gid g c x k) (hslot : s.conveySlot g x k = .ok s1) (hgrids : s1.grids = s.grids)
    (hfreed : s1.team? x.uid = some (x.releaseSlot k (s.heirKind x))) : execConvey gid s = .next (s1.endConvey gid x.uid) := by
  have hg1 : s1.grid? gid = some g := by rw [State.grid?, hgrids]; exact hlast.grid
  have huid := State.team?_uid hlast.team
  rw [execConvey_runs hlast.grid hlast.oldest hlast.unstopped hlast.thawed,
    State.conveyFrom_slot hlast.grid hlast.team hlast.last hslot, ← huid, State.conveyFrom_over hg1 hfreed hlast.rest hlast.ready]

/-- CONVEY of a last holding that no heir takes. -/
theorem ConveysLast.execConvey_heirless (hlast : ConveysLast s gid g c x k) (hnone : s.taker g x k = none)
    (hsilent : (Estate.slot x.estate k).quiet = true ∨ g.esth = 0) (heffect : s.heirlessEffect x (Estate.slot x.estate k) = .ok s1)
    (hword : WritesWord s s1 pa v) :
    ∃ s' x', execConvey gid s = .next s' ∧ s'.team? x.uid = some x' ∧ x'.estate = Estate.release x.estate k (s.heirKind x) ∧
      x'.run = .ready ∧ s'.blocks = s.blocks ∧ s'.wordAt (.phys pa) = v ∧
      (∀ a, ¬(pa ≤ a ∧ a < pa + 8) → Memory.read s'.mem a = Memory.read s.mem a) := by
  have hx : (s1.count 4).team? x.uid = some x := hword.team?_eq.trans (State.team?_self hlast.team)
  have hfreed := State.team?_modTeam_self hx (Team.releaseSlot_uid k (s.heirKind x))
  have hslot := State.conveySlot_heirless hnone hsilent heffect hword.grids
  exact ⟨_, _, hlast.execConvey_ends hslot hword.grids hfreed, State.endConvey_team hfreed gid, rfl, rfl, hword.blocks, hword.word,
    hword.outside⟩

/-- CONVEY of a last holding, a promise, that another team takes. -/
theorem ConveysLast.execConvey_promise (hlast : ConveysLast s gid g c x k) (hheir : s.taker g x k = some (.team h))
    (hkind : (Estate.slot x.estate k).kind = 2) (hh : s.team? h.uid = some h) (hne : h.uid ≠ x.uid)
    (heffect : s.conveyEffect g x (Estate.slot x.estate k) (.team h) = .ok s1) (hword : WritesWord s s1 pa v) :
    ∃ s' x' h', execConvey gid s = .next s' ∧ s'.team? x.uid = some x' ∧ x'.estate = Estate.release x.estate k (s.heirKind x) ∧
      s'.team? h.uid = some h' ∧ h'.estate = (h.inherit (Estate.slot x.estate k)).estate ∧ s'.blocks = s.blocks ∧
      s'.wordAt (.phys pa) = v ∧ (∀ a, ¬(pa ≤ a ∧ a < pa + 8) → Memory.read s'.mem a = Memory.read s.mem a) := by
  have hx := (State.team?_modTeam_other (Ne.symm hne) (Team.inherit_uid (Estate.slot x.estate k))).trans
    (hword.team?_eq.trans (State.team?_self hlast.team))
  have hentered := State.team?_modTeam_self (hword.team?_eq.trans hh) (Team.inherit_uid (Estate.slot x.estate k))
  have hfreed := State.team?_modTeam_self hx (Team.releaseSlot_uid k (s.heirKind x))
  have hslot := State.conveySlot_promise hheir hkind heffect hword.grids
  refine ⟨_, _, _, hlast.execConvey_ends hslot hword.grids hfreed, State.endConvey_team hfreed gid, rfl, ?_, rfl, hword.blocks, hword.word,
    hword.outside⟩
  rw [State.endConvey_team_other hne]
  exact (State.team?_modTeam_other hne (Team.releaseSlot_uid k (s.heirKind x))).trans hentered

/-! ### The obligation -/

/-- Settles O46: the last holding goes to its heir (ConveysLast.execConvey_promise) or is heirless (ConveysLast.execConvey_heirless), and
with it the conveyance is over (State.conveyFrom_over); a stopped conveyance goes on by the status of its entry
(execConveyanceWriteRetry_faulted). -/
theorem conveyances : Obligations.Conveyances := by
  unfold Obligations.Conveyances
  intro s gid g c x hg hc hx hthawed hrun hdead hsole
  refine ⟨?_, ?_, ?_⟩
  · intro hfault hlast
    rw [exec_convey, execConvey_runs hg hc hfault hthawed, State.conveyFrom_over hg hx hlast hrun]
  · intro k p pa hfault hlast e rest w hrest hkind hproc hplace hp hs hm
    have hone : ConveysLast s gid g c x k := ⟨hg, hc, hx, hthawed, hrun, hfault, hlast, hrest⟩
    refine ⟨fun hnone hsilent => ?_, fun h hheir hpromise hh hlive => ?_⟩
    · exact hone.execConvey_heirless hnone hsilent (State.heirlessEffect_word hkind hproc hplace)
        (State.changeWord_writesWord hp hs hm x.core pa (heirlessWord_lt e.kind))
    · have hne : h.uid ≠ x.uid := fun huid => hdead (hsole h (List.mem_of_find?_eq_some hh) huid ▸ hlive)
      exact hone.execConvey_promise hheir hpromise hh hne (State.conveyEffect_promise hpromise hproc hplace)
        (State.changeWord_writesWord hp hs hm x.core pa fun _ => mkPromise_lt _ _ _)
  · intro ix slot f hfault hf s1
    have hretry := execConveyanceWriteRetry_faulted hg hc hx hthawed hfault hf
    refine ⟨fun h0 => ?_, fun h1 => ?_, fun h2 hslot => ?_, fun h2 hslot => ?_⟩
    · simp [hretry, h0]
    · simp [hretry, h1, s1]
    · simp [hretry, h2, s1, Nat.not_le.mpr hslot]
    · simp [hretry, h2, s1, hslot, State.denyConvey]

end Sys2Proof.Machine
end

section
/-! PROOF. CTR (R345) of an undisturbed team: a counter goes to its pair of scalar registers. Its indices 0x28 and 0x29 are the Tapster's
(R297). -/

namespace Sys2Proof.Machine

open Sys2Proof Safety

variable {s : State} {t : Team} {m : Mods} {d : Reg} {l : LIdx} {i : Instr}

/-! ### A pair of scalar registers is written -/

/-- What a write of scalar registers leaves of a team, as far as its completion rests on it. -/
theorem Team.writeS_keeps (t : Team) (r : Nat) (x : Word) :
    (t.writeS r x).uid = t.uid ∧ (t.writeS r x).recent = t.recent ∧ (t.writeS r x).running = t.running ∧ (t.writeS r x).run = t.run := by
  unfold Team.writeS Team.markS Team.markAux
  split <;> exact ⟨rfl, rfl, rfl, rfl⟩

theorem Team.writeSP_keeps (t : Team) (r : Nat) (x : Double) :
    (t.writeSP r x).uid = t.uid ∧ (t.writeSP r x).recent = t.recent ∧ (t.writeSP r x).running = t.running ∧ (t.writeSP r x).run = t.run := by
  obtain ⟨huid, hrecent, hrunning, hrun⟩ := t.writeS_keeps r (x.setWidth 32)
  obtain ⟨huid', hrecent', hrunning', hrun'⟩ := (t.writeS r (x.setWidth 32)).writeS_keeps (r + 1) (x.extractLsb' 32 32)
  exact ⟨huid'.trans huid, hrecent'.trans hrecent, hrunning'.trans hrunning, hrun'.trans hrun⟩

theorem Team.putS_windowless (h : t.recent = []) (r : Nat) (x : Word) : t.putS r x = t.writeS r x := by
  obtain ⟨-, hrecent, -, -⟩ := t.writeS_keeps r x
  rw [Team.putS, hrecent, h]

/-- With no window of R91 open there is none to end. -/
theorem Team.putSP_windowless (h : t.recent = []) (r : Nat) (x : Double) : t.putSP r x = t.writeSP r x := by
  obtain ⟨-, hrecent, -, -⟩ := t.writeS_keeps r (x.setWidth 32)
  rw [Team.putSP, Team.putS_windowless h, Team.putS_windowless (hrecent.trans h), Team.writeSP]

/-! ### A block that is neither sampled nor a shadow (R179) -/

theorem State.isShadow_original (h : Quiet s t) : s.isShadow t = false := by
  rw [State.isShadow]
  cases hb : s.blockOf t with
  | none => rfl
  | some b => simp [(h.original b hb).1]

/-- Its teams log no outward results. -/
theorem State.logTeam_original (h : Quiet s t) (ht : s.team? t.uid = some t) (ws : List Word) :
    s.logTeam (Ctx.plain i t) t ws = s := by
  rw [State.logTeam, State.logOut, Ctx.plain_uid, ht]
  cases hb : s.blockOf t with
  | none => simp [hb]
  | some b =>
    obtain ⟨hshadow, hsampled⟩ := h.original b hb
    simp [hb, hshadow, hsampled]

/-! ### CTR -/

theorem State.modBlock_id (s : State) (n : Nat) : s.modBlock n id = s := by
  simp [State.modBlock]

/-- The state in which the team's free choices stand one further, and a change of its block, leave the team undisturbed. -/
theorem calm_ticked_modBlock (h : Calm s t) (n : Nat) (f : Block → Block) : Calm (s.ticked.modBlock n f) t :=
  ⟨h.turn, h.owes, h.awaits, h.windows, h.runs, h.sound, h.unchecked, h.guarded, h.present, h.ready, h.thawed⟩

theorem quiet_setTeam_ticked (h : Quiet s t) : Quiet (s.setTeam t).ticked t :=
  ⟨h.queue, h.unwatched, h.original, h.bounds, h.clean, fun u hu huid => by
    obtain ⟨w, -, rfl⟩ := List.mem_map.mp hu
    split
    · rfl
    · rename_i hne
      rw [if_neg hne] at huid
      exact absurd huid hne⟩

/-- A counter's value goes to the pair, and the block takes its change. -/
theorem State.giveCounter_plain (hc : Calm s t) (hq : Quiet s t) (d : Reg) (v : Double) (f : Block → Block) :
    (s.setTeam t).giveCounter s (Ctx.plain i t) t d v f =
      after 1 ((s.modBlock t.blk f).setTeam (finished (t.writeSP d.toNat v) (nextPc t i) 1)) := by
  have hlog : (s.setTeam t).ticked.logTeam (Ctx.plain i t) t [loWord v, hiWord v] = (s.setTeam t).ticked :=
    State.logTeam_original (quiet_setTeam_ticked hq) (State.team?_calm hc rfl) _
  obtain ⟨huid, hrecent, hrunning, -⟩ := t.writeSP_keeps d.toNat v
  have hput := Team.putSP_windowless hc.windows d.toNat v
  have hfinish := State.finishTeam_plain (i := i) (calm_ticked_modBlock hc t.blk f) (g := fun u => u.putSP d.toNat v)
    (by rw [hput]; exact huid) (by rw [hput]; exact hrecent.trans hc.windows) (by rw [hput, hrunning]; exact hc.runs) (nextPc t i)
  rw [State.giveCounter, State.setTeam_isShadow, State.isShadow_original hq, hlog]
  dsimp only at hfinish ⊢
  rw [hput] at hfinish
  exact hfinish

/-- CTR of a counter that there is, into a pair that there is. -/
theorem exec_ctr_counter (hc : Calm s t) (hq : Quiet s t) (hd : t.hasSP d.toNat = true) {v : Double} (hv : s.counter t l.idx.toNat = some v) :
    exec (.ctr m d l) s = .next (after 1 (s.setTeam (finished (t.writeSP d.toNat v) (nextPc t (.ctr m d l)) 1))) := by
  have hstop : Unstopped t Srcs.none (Check.operand (t.hasSP d.toNat)) := ⟨rfl, by rw [hd]; rfl, rfl, rfl, rfl⟩
  have hcounter : (s.setTeam t).counter t l.idx.toNat = some v := hv
  obtain ⟨huid, -, -, hrun⟩ := t.writeSP_keeps d.toNat v
  rw [exec_ctr, execCtr]
  refine issue_calm_eq hc ?_ fun u hu k => ?_
  · rw [hcounter]
    dsimp only
    rw [checked_plain hc hstop, State.giveCounter_plain hc hq, State.modBlock_id]
  · have hready : u.run = .ready := by
      obtain rfl := Option.some.inj ((State.team?_calm hc (u := finished _ _ 1) huid).symm.trans hu)
      exact hrun.trans hc.ready
    rw [hready]
    exact nofun

/-! ### The obligation -/

/-- Settles O35: the two indices name the die's SET and the Tapster's count of steps, and CTR writes a counter to its pair
(exec_ctr_counter). -/
theorem tapsterCounters : Obligations.TapsterCounters := by
  unfold Obligations.TapsterCounters
  intro s t m d hc _ hq hd
  exact ⟨exec_ctr_counter hc hq hd rfl, exec_ctr_counter hc hq hd rfl⟩

end Sys2Proof.Machine
end

section
/-! PROOF. The Tapster's step (R295, R291): the batch's slots are freed, every parameter is updated, and the new set is published in the
die's cache region. -/

namespace Sys2Proof.Machine

open Sys2Proof Safety

variable {s s1 : State} {t : Tapster} {die k : Nat}

/-! ### Sample slots (R293) -/

theorem lookup_cons_ite {β : Type} (l : List (Nat × β)) (n j : Nat) (z : β) :
    ((n, z) :: l).lookup j = if j = n then some z else l.lookup j := by
  rw [List.lookup_cons]
  by_cases h : j = n
  · simp [h]
  · simp [h, beq_eq_false_iff_ne.mpr h]

/-- In a list of numbered values, those of one number are replaced. -/
theorem lookup_replace {β : Type} (l : List (Nat × β)) (k j : Nat) (x : β) :
    (l.map fun y => if y.1 = k then (k, x) else y).lookup j = if j = k then (l.lookup k).map fun _ => x else l.lookup j := by
  induction l with
  | nil => simp
  | cons y l ih =>
    obtain ⟨n, z⟩ := y
    rw [List.map_cons]
    by_cases hn : n = k
    · subst hn
      rw [if_pos rfl, lookup_cons_ite, ih, lookup_cons_ite, lookup_cons_ite, if_pos rfl]
      split <;> rfl
    · rw [if_neg hn, lookup_cons_ite, ih, lookup_cons_ite, lookup_cons_ite, if_neg (Ne.symm hn)]
      by_cases hj : j = k
      · rw [hj, if_neg (Ne.symm hn), if_pos rfl, if_pos rfl]
      · rw [if_neg hj, if_neg hj]

theorem lookup_eq_none_iff_any {β : Type} (l : List (Nat × β)) (k : Nat) : l.lookup k = none ↔ l.any (fun y => y.1 == k) = false := by
  rw [List.lookup_eq_none_iff, List.any_eq_false]
  exact forall₂_congr fun y _ => by rw [bne_iff_ne, beq_iff_eq, ne_comm]

theorem Tapster.slot_putSlot (t : Tapster) (k j : Nat) (x : SampleSlot) : (t.putSlot k x).slot j = if j = k then x else t.slot j := by
  simp only [Tapster.slot, Tapster.putSlot]
  cases hk : t.slots.lookup k with
  | none =>
    rw [(lookup_eq_none_iff_any _ _).mp hk, if_neg Bool.false_ne_true, List.lookup_append, lookup_cons_ite]
    by_cases hj : j = k
    · simp [hj, hk]
    · simp [hj]
  | some z =>
    have hany : t.slots.any (fun y => y.1 == k) = true := by
      rw [← Bool.not_eq_false, ← lookup_eq_none_iff_any, hk]
      exact Option.some_ne_none z
    rw [if_pos hany, lookup_replace, hk]
    split <;> rfl

/-- A slot when its sample has been consumed. -/
def SampleSlot.freed (x : SampleSlot) : SampleSlot := { x with state := .free, record := [], target := [] }

/-- The Tapster with the slots of a batch free. -/
def Tapster.freeSlots (t : Tapster) (l : List Nat) : Tapster := l.foldl (fun t k => t.putSlot k (t.slot k).freed) t

theorem Tapster.freeSlots_cons (t : Tapster) (n : Nat) (l : List Nat) :
    t.freeSlots (n :: l) = (t.putSlot n (t.slot n).freed).freeSlots l := rfl

theorem Tapster.freeSlots_steps (t : Tapster) (l : List Nat) : (t.freeSlots l).steps = t.steps := foldl_keeps Tapster.steps l t

theorem Tapster.freeSlots_lr (t : Tapster) (l : List Nat) : (t.freeSlots l).lr = t.lr := foldl_keeps Tapster.lr l t

theorem Tapster.slot_freeSlots_other (t : Tapster) {l : List Nat} (h : k ∉ l) : (t.freeSlots l).slot k = t.slot k := by
  induction l generalizing t with
  | nil => rfl
  | cons n l ih =>
    rw [List.mem_cons, not_or] at h
    rw [Tapster.freeSlots_cons, ih _ h.2, Tapster.slot_putSlot, if_neg h.1]

theorem Tapster.slot_freeSlots_free (t : Tapster) {l : List Nat} (h : k ∈ l) : ((t.freeSlots l).slot k).state = .free := by
  induction l generalizing t with
  | nil => simp at h
  | cons n l ih =>
    rw [Tapster.freeSlots_cons]
    by_cases hl : k ∈ l
    · exact ih _ hl
    · obtain rfl := (List.mem_cons.mp h).resolve_right hl
      rw [Tapster.slot_freeSlots_other _ hl, Tapster.slot_putSlot, if_pos rfl]
      rfl

/-! ### The tables of a list's values -/

/-- Number q holds the word of element q. -/
def tableOf {α : Type} (f : α → Word) (l : List α) : Table 32 := l.zipIdx.foldl (fun tb (x, p) => Table.set tb p (f x)) []

section
variable {α : Type} (f : α → Word) (l : List α)

theorem tableOf_concat (x : α) : tableOf f (l ++ [x]) = Table.set (tableOf f l) l.length (f x) := by
  simp [tableOf, List.zipIdx_append]

theorem tableOf_wf : Table.wf (tableOf f l) = true :=
  List.foldlRecOn l.zipIdx _ (motive := fun tb => Table.wf tb = true) rfl fun tb h y _ => Table.wf_set tb y.2 (f y.1) h

theorem get_tableOf {q : Nat} (hq : q < l.length) : Table.get (tableOf f l) q = f l[q] := by
  induction l using List.reverseRecOn with
  | nil => simp at hq
  | append_singleton l x ih =>
    rw [tableOf_concat]
    by_cases hl : q = l.length
    · subst hl
      rw [Table.get_set_same _ _ _ (tableOf_wf f l)]
      simp
    · rw [List.length_append, List.length_singleton] at hq
      rw [Table.get_set_other _ _ hl, ih (by omega), List.getElem_append_left]

end

/-! ### The die's cache region (R290) -/

/-- Bytes written in the die's cache region, once it is placed. -/
def State.putRegion (s : State) (die off : Nat) (bs : List Byte) : State :=
  match s.regionAt die off with
  | some (c, o) => s.writeHome (.commons c o) bs true
  | none => s

theorem State.publishSet_eq (s : State) (die : Nat) (img : List Byte) : s.publishSet die img =
    (s.putRegion die ((s.setNumber die + 1) % 2 * 0x4000) img).putRegion die 0x8000 (leBytes 4 (s.setNumber die + 1)) := rfl

/-- Device memory, the teams, the blocks and the dies. -/
def State.outsideCores (s : State) : Memory × List Team × List Block × Vector DieState 4 := (s.mem, s.teams, s.blocks, s.dies)

theorem State.scrubWords_outsideCores (s : State) (site : Nat → SoftErrorSite) (off n : Nat) :
    (s.scrubWords site off n).outsideCores = s.outsideCores := by
  unfold State.scrubWords
  split
  · rfl
  · refine foldl_keeps State.outsideCores _ s fun s i => ?_
    unfold State.scrub
    split <;> rfl

theorem State.putRegion_outsideCores (s : State) (die off : Nat) (bs : List Byte) : (s.putRegion die off bs).outsideCores = s.outsideCores := by
  unfold State.putRegion
  split
  · exact s.scrubWords_outsideCores _ _ _
  · rfl

theorem State.publishSet_outsideCores (s : State) (die : Nat) (img : List Byte) : (s.publishSet die img).outsideCores = s.outsideCores := by
  rw [State.publishSet_eq, State.putRegion_outsideCores, State.putRegion_outsideCores]

/-- SET is the region's word at 0x8000. -/
theorem State.setNumber_eq (s : State) (die : Nat) : s.setNumber die = leNat (s.regionBytes die 0x8000 4) := by
  unfold State.setNumber State.regionBytes
  cases s.regionAt die 0x8000 with
  | none => rfl
  | some x => rfl

theorem State.regionAt_off {c o : Nat} (h : s.regionAt die 0 = some (c, o)) (off : Nat) : s.regionAt die off = some (c, o + off) := by
  rw [State.regionAt, Option.map_eq_some_iff] at h ⊢
  obtain ⟨b, hb, hbase⟩ := h
  obtain ⟨rfl, rfl⟩ := Prod.mk.inj hbase
  exact ⟨b, hb, by rw [Nat.add_zero]⟩

theorem State.regionBytes_at {c o : Nat} (h : s.regionAt die 0 = some (c, o)) (off n : Nat) :
    s.regionBytes die off n = Memory.readBytes (s.coreAt c).commons (o + off) n := by
  rw [State.regionBytes, State.regionAt_off h]

/-- With no soft error, bytes of the region are bytes of its core's commons. -/
theorem State.putRegion_at {c o : Nat} (hs : s.soft = []) (h : s.regionAt die 0 = some (c, o)) (off : Nat) (bs : List Byte) :
    s.putRegion die off bs = s.modCore c fun x => { x with commons := Memory.writeBytes x.commons (o + off) bs } := by
  rw [State.putRegion, State.regionAt_off h]
  exact State.writeHome_commons hs c (o + off) bs true

theorem Memory.readBytes_writeBytes_outside (m : Memory) {a b n : Nat} (bs : List Byte) (h : b + n ≤ a ∨ a + bs.length ≤ b) :
    Memory.readBytes (Memory.writeBytes m a bs) b n = Memory.readBytes m b n := by
  refine List.map_congr_left fun i hi => Memory.read_writeBytes_outside m a bs ?_
  rw [List.mem_range] at hi
  omega

section
variable (hs : s.soft = []) (hr : RegionPlaced s die) (off : Nat) (bs : List Byte)
include hs hr

theorem regionPlaced_putRegion : RegionPlaced (s.putRegion die off bs) die := by
  obtain ⟨c, o, hat, hc, hwf⟩ := hr
  refine ⟨c, o, ?_, hc, ?_⟩
  · rw [State.putRegion_at hs hat]
    exact hat
  · rw [State.putRegion_at hs hat, State.coreAt_modCore, if_pos ⟨rfl, hc⟩]
    exact Memory.wf_writeBytes _ _ bs hwf

theorem State.putRegion_soft : (s.putRegion die off bs).soft = [] := by
  obtain ⟨c, o, hat, -⟩ := hr
  rw [State.putRegion_at hs hat]
  exact hs

theorem State.regionBytes_putRegion : (s.putRegion die off bs).regionBytes die off bs.length = bs := by
  obtain ⟨c, o, hat, hc, hwf⟩ := hr
  rw [State.putRegion_at hs hat, State.regionBytes_at (s := s.modCore c _) hat, State.coreAt_modCore, if_pos ⟨rfl, hc⟩]
  exact Memory.readBytes_writeBytes _ _ bs hwf

theorem State.regionBytes_putRegion_outside {off' n : Nat} (h : off' + n ≤ off ∨ off + bs.length ≤ off') :
    (s.putRegion die off bs).regionBytes die off' n = s.regionBytes die off' n := by
  obtain ⟨c, o, hat, hc, -⟩ := hr
  rw [State.putRegion_at hs hat, State.regionBytes_at (s := s.modCore c _) hat, State.regionBytes_at hat, State.coreAt_modCore, if_pos ⟨rfl, hc⟩]
  exact Memory.readBytes_writeBytes_outside _ bs (by omega)

end

/-! ### Publication (R291) -/

/-- Bytes keep of a number what they have room for. -/
theorem leNat_leBytes_mod (n v : Nat) : leNat (leBytes n v) = v % 256 ^ n := by
  induction n generalizing v with
  | zero => simp [leBytes, leNat, Nat.mod_one]
  | succ n ih =>
    have hmod := Nat.mod_mul (x := v) (a := 256) (b := 256 ^ n)
    rw [leBytes, leNat, ih, BitVec.toNat_ofNat, pow_succ' 256 n, hmod]

/-- The slot that set n + 1 lies in does not hold set n, and SET lies past both. -/
theorem State.publishSet_publishes (hs : s.soft = []) (hr : RegionPlaced s die) {img : List Byte} (himg : img.length = 0x4000) :
    Publishes s (s.publishSet die img) die img := by
  have hset := leBytes_length 4 (s.setNumber die + 1)
  have hs1 := State.putRegion_soft hs hr ((s.setNumber die + 1) % 2 * 0x4000) img
  have hr1 := regionPlaced_putRegion hs hr ((s.setNumber die + 1) % 2 * 0x4000) img
  have hslot := State.regionBytes_putRegion hs hr ((s.setNumber die + 1) % 2 * 0x4000) img
  have hnumber := State.regionBytes_putRegion hs1 hr1 0x8000 (leBytes 4 (s.setNumber die + 1))
  rw [himg] at hslot
  rw [hset] at hnumber
  refine ⟨?_, ?_, ?_⟩ <;> rw [State.publishSet_eq]
  · rw [State.setNumber_eq, hnumber, leNat_leBytes_mod, show 256 ^ 4 = 2 ^ 32 from rfl]
  · rw [State.regionBytes_putRegion_outside hs1 hr1 _ _ (by omega), hslot]
  · rw [State.regionBytes_putRegion_outside hs1 hr1 _ _ (by omega), State.regionBytes_putRegion_outside hs hr _ _ (by omega)]

section
variable (hbase : (s1.dieAt die).rcBase = (s.dieAt die).rcBase) (hcores : s1.cores = s.cores)
include hbase hcores

theorem State.regionBytes_congr (off n : Nat) : s1.regionBytes die off n = s.regionBytes die off n := by
  rw [State.regionBytes, State.regionBytes, State.regionAt, hbase, State.regionAt]
  simp only [State.coreAt, hcores]

theorem regionPlaced_congr (h : RegionPlaced s die) : RegionPlaced s1 die := by
  obtain ⟨c, o, hat, hc, hwf⟩ := h
  exact ⟨c, o, by rwa [State.regionAt, hbase], hc, by rwa [State.coreAt, hcores]⟩

/-- Publication from a state in which the region stands as it does here. -/
theorem publishes_of_region {s' : State} {img : List Byte} (h : Publishes s1 s' die img) : Publishes s s' die img := by
  have hnumber : s1.setNumber die = s.setNumber die := by
    rw [State.setNumber_eq, State.regionBytes_congr hbase hcores, ← State.setNumber_eq]
  obtain ⟨hset, hslot, hother⟩ := h
  rw [hnumber] at hset hslot hother
  exact ⟨hset, hslot, hother.trans (State.regionBytes_congr hbase hcores _ _)⟩

end

/-! ### The optimiser step (R295) -/

/-- The batch: the 256 oldest filled slots. -/
def Tapster.batch (t : Tapster) : List Nat := (filledSlots t).take 256

/-- Every feature and every target of the sample is finite. -/
def SampleSlot.usable (x : SampleSlot) : Bool := (features x.record).all finiteF32 && x.target.all fun w => finiteF32 w.toNat

/-- The gradients of a batch's usable samples in a parameter, summed in F32 in the order of the slots. -/
def Tapster.gradientSum (t : Tapster) (l : List Nat) (q : Nat) : Word :=
  let rounded := imageOf fun i => Table.get t.master i
  let weights := (List.range paramCount).map fun i => imageParam rounded i
  ((l.map t.slot).filter SampleSlot.usable).foldl (fun acc x =>
    BitVec.ofNat 32 (fadd f32 rneEnv acc.toNat (gradient rounded weights x q).toNat).bits) 0

/-- A parameter's master weight, m and v after a step with this batch. -/
def Tapster.updated (t : Tapster) (l : List Nat) (q : Nat) : Word × Word × Word :=
  adam t (t.t + 1) (Table.get t.master q) (Table.get t.m q) (Table.get t.v q) (t.gradientSum l q)

/-- One of the three for all parameters. -/
def Tapster.column (t : Tapster) (l : List Nat) (f : Word × Word × Word → Word) : Table 32 :=
  tableOf f ((List.range paramCount).map (t.updated l))

/-- The Tapster after a step with this batch. -/
def Tapster.optimised (t : Tapster) (l : List Nat) : Tapster :=
  { t.freeSlots l with
    master := t.column l fun x => x.1, m := t.column l fun x => x.2.1, v := t.column l fun x => x.2.2, t := t.t + 1, budget := t.budget - 1,
    consume := (l.getLastD t.consume + 1) % 65536 }

section
variable (t : Tapster) (l : List Nat)

theorem Tapster.optimised_steps : (t.optimised l).steps = t.steps := t.freeSlots_steps l

theorem Tapster.optimised_lr : (t.optimised l).lr = t.lr := t.freeSlots_lr l

theorem Tapster.slot_optimised_free {l : List Nat} (h : k ∈ l) : ((t.optimised l).slot k).state = .free := t.slot_freeSlots_free h

theorem Tapster.slot_optimised_other {l : List Nat} (h : k ∉ l) : (t.optimised l).slot k = t.slot k := t.slot_freeSlots_other h

theorem Tapster.get_column (f : Word × Word × Word → Word) {q : Nat} (hq : q < paramCount) :
    Table.get (t.column l f) q = f (t.updated l q) := by
  rw [Tapster.column, get_tableOf _ _ (by simpa using hq), List.getElem_map, List.getElem_range]

theorem Tapster.optimised_updated {q : Nat} (hq : q < paramCount) :
    (Table.get (t.optimised l).master q, Table.get (t.optimised l).m q, Table.get (t.optimised l).v q) = t.updated l q := by
  rw [Tapster.optimised]
  dsimp only
  rw [t.get_column l _ hq, t.get_column l _ hq, t.get_column l _ hq]

end

/-- The set that the Tapster publishes. -/
def Tapster.image (t : Tapster) : List Byte := Memory.readBytes (imageOf fun q => Table.get t.master q) 0 0x4000

theorem Tapster.image_length (t : Tapster) : t.image.length = 0x4000 := by
  rw [Tapster.image, Memory.readBytes, List.length_map, List.length_range]

/-- Samples that were dropped are counted (R307). -/
def State.countDropped (s : State) (n : Nat) : State := (List.range n).foldl (fun s _ => s.count 5) s

theorem State.countDropped_hub (s : State) (n : Nat) : ∃ h, s.countDropped n = { s with hub := h } := by
  unfold State.countDropped
  induction List.range n generalizing s with
  | nil => exact ⟨s.hub, rfl⟩
  | cons _ l ih => exact ih (s.count 5)

/-- A step that is taken, up to publication: the batch's samples that are not usable are dropped. -/
def State.optimise (s : State) (die : Nat) (l : List Nat) : State :=
  let t := (s.dieAt die).tapster
  (s.countDropped ((l.map t.slot).filter fun x => !x.usable).length).modDie die fun d => { d with tapster := t.optimised l }

/-- Only the die, and the count of dropped samples, have changed. -/
theorem State.optimise_eq (s : State) (die : Nat) (l : List Nat) :
    ∃ h, s.optimise die l = { s with hub := h }.modDie die fun d => { d with tapster := (s.dieAt die).tapster.optimised l } := by
  obtain ⟨h, hcount⟩ := s.countDropped_hub ((l.map (s.dieAt die).tapster.slot).filter fun x => !x.usable).length
  exact ⟨h, by rw [State.optimise, hcount]⟩

theorem execTapsterOptimiserStep_taken (hdie : die < 4) (ht : (s.dieAt die).tapster = t) (hbudget : t.budget ≠ 0) (hloaded : t.loaded = true)
    (hbatch : t.batch.length = 256) :
    execTapsterOptimiserStep die s = .next ((s.optimise die t.batch).publishSet die (t.optimised t.batch).image) := by
  subst ht
  have hrest : ¬ (die ≥ 4 || (s.dieAt die).tapster.budget = 0 || !(s.dieAt die).tapster.loaded ||
      ((filledSlots (s.dieAt die).tapster).take 256).length < 256) = true := by
    rw [Tapster.batch] at hbatch
    simp [hdie, hbudget, hloaded, hbatch]
  rw [execTapsterOptimiserStep]
  dsimp -zeta only
  rw [if_neg hrest]
  rfl

/-! ### The obligation -/

/-- Settles O48: the step frees its batch (Tapster.slot_optimised_free), updates each parameter by itself (Tapster.optimised_updated), and
publishes the new set (State.publishSet_publishes). -/
theorem optimiserStep : Obligations.OptimiserStep := by
  unfold Obligations.OptimiserStep
  intro s die hdie t batch hbudget hloaded hbatch
  have hstep : execTapsterOptimiserStep die s = .next ((s.optimise die batch).publishSet die (t.optimised batch).image) :=
    execTapsterOptimiserStep_taken (t := t) hdie rfl hbudget hloaded hbatch
  clear_value batch
  obtain ⟨hub, hopt⟩ := s.optimise_eq die batch
  rw [hopt] at hstep
  set s1 := { s with hub := hub }.modDie die fun d => { d with tapster := t.optimised batch }
  have hdie1 : s1.dieAt die = { s.dieAt die with tapster := t.optimised batch } := State.dieAt_modDie _ hdie _
  have hkeeps := s1.publishSet_outsideCores die (t.optimised batch).image
  simp only [State.outsideCores, Prod.mk.injEq] at hkeeps
  obtain ⟨hmem, hteams, hblocks, hdies⟩ := hkeeps
  have hx : ((s1.publishSet die (t.optimised batch).image).dieAt die).tapster = t.optimised batch := by
    rw [State.dieAt, hdies, ← State.dieAt, hdie1]
  refine ⟨_, hstep, hmem, hteams, hblocks, ?_⟩
  rw [hx]
  refine ⟨rfl, rfl, t.optimised_steps batch, t.optimised_lr batch, fun k => t.slot_optimised_free, fun k => t.slot_optimised_other,
    fun hs hr => ?_, fun q hq => ?_⟩
  · have hbase : (s1.dieAt die).rcBase = (s.dieAt die).rcBase := by rw [hdie1]
    exact publishes_of_region hbase rfl
      (State.publishSet_publishes (s := s1) hs (regionPlaced_congr hbase rfl hr) (t.optimised batch).image_length)
  · exact t.optimised_updated batch hq

end Sys2Proof.Machine
end

section
/-! PROOF. Management requests (R306, R307, R308): who is turned away and with what status, and what an accepted command does. -/

namespace Sys2Proof.Machine

open Sys2Proof Safety

variable {s : State} {q : Datagram} {code : Nat} {needs rom : Bool} {f : State → State}

/-! ### Who is turned away (R307) -/

theorem State.turnedAway_of_unsigned (hq : Unsigned q) : s.turnedAway code needs q = if needs then some 2 else none := by
  obtain ⟨hform, hsigned⟩ := hq
  simp [State.turnedAway, hform, hsigned]

/-- A signed request of the right form: the signature comes before the sequence. -/
theorem State.turnedAway_of_isSigned (hform : isRequest q = true) (hsigned : isSigned q = true) (hlen : q.sig.length = 114) :
    s.turnedAway code needs q =
      if Config.ownerSigned (requestBytes q code) q.sig = true then (if q.seq ≤ s.hub.lastSeq then some 1 else none) else some 5 := by
  cases hv : Config.ownerSigned (requestBytes q code) q.sig <;> simp [State.turnedAway, hform, hsigned, hlen, hv]

theorem State.accepted_of_unsigned (hq : Unsigned q) : s.accepted q = s := by
  simp [State.accepted, hq.2]

theorem State.accepted_of_signed (hq : Signed s q) : s.accepted q = sequenced s q := by
  rw [State.accepted, if_pos hq.signed]
  rfl

/-! ### How a request is answered -/

/-- A part that runs an image answers every command, and the waiting ROM those that it allows (R305). -/
theorem State.request_of_turnedAway {st : Nat} (hans : s.hub.booted = true ∨ rom = true) (hturn : s.turnedAway code needs q = some st) :
    s.request code needs rom q f = s.answer code st q [] := by
  have hwaits : ¬ (!s.hub.booted && !rom) = true := by simpa using hans.resolve_left
  rw [State.request, if_neg hwaits, hturn]

theorem State.request_of_admitted (hans : s.hub.booted = true ∨ rom = true) (hturn : s.turnedAway code needs q = none) :
    s.request code needs rom q f = f s := by
  have hwaits : ¬ (!s.hub.booted && !rom) = true := by simpa using hans.resolve_left
  rw [State.request, if_neg hwaits, hturn]

theorem State.request_unsigned_open (hq : Unsigned q) (hans : s.hub.booted = true ∨ rom = true) : s.request code false rom q f = f s :=
  State.request_of_admitted hans (State.turnedAway_of_unsigned hq)

theorem State.request_unsigned_needing (hq : Unsigned q) (hans : s.hub.booted = true ∨ rom = true) :
    s.request code true rom q f = s.answer code 2 q [] :=
  State.request_of_turnedAway hans (State.turnedAway_of_unsigned hq)

theorem State.request_signed (hq : Signed s q) (hans : s.hub.booted = true ∨ rom = true) :
    s.request code needs rom q f = ifVerified s code q (f s) := by
  have hturn := State.turnedAway_of_isSigned (s := s) (code := code) (needs := needs) hq.form hq.signed hq.length
  rw [if_neg (BitVec.not_le.mpr hq.fresh)] at hturn
  rw [ifVerified]
  split_ifs with hverifies
  · exact State.request_of_admitted hans (hturn.trans (if_pos hverifies))
  · exact State.request_of_turnedAway hans (hturn.trans (if_neg hverifies))

/-- A sequence that is not new is turned away, whatever the command would do. -/
theorem State.request_stale (hform : isRequest q = true) (hsigned : isSigned q = true) (hlen : q.sig.length = 114)
    (hold : q.seq ≤ s.hub.lastSeq) (hans : s.hub.booted = true ∨ rom = true) :
    s.request code needs rom q f = ifVerified s code q (s.answer code 1 q []) := by
  have hturn := State.turnedAway_of_isSigned (s := s) (code := code) (needs := needs) hform hsigned hlen
  rw [if_pos hold] at hturn
  rw [ifVerified]
  split_ifs with hverifies
  · exact State.request_of_turnedAway hans (hturn.trans (if_pos hverifies))
  · exact State.request_of_turnedAway hans (hturn.trans (if_neg hverifies))

/-! ### The two reset commands: each leaves the other's kind alone -/

theorem execResetWarm_of_kind (hkind : leNat q.body ≠ 1) :
    execResetWarm q s = .next (s.request 4 true false q fun s =>
      if leNat q.body != 0 || q.body.isEmpty then s.answer 4 3 q [] else ((s.accepted q).answer 4 0 q []).warmReset) := by
  rw [execResetWarm, if_neg hkind]

theorem execResetFull_of_kind (hkind : leNat q.body = 1) :
    execResetFull q s = .next (s.request 4 true false q fun s => ((s.accepted q).answer 4 0 q []).fullReset) := by
  rw [execResetFull, if_neg (by simp [hkind])]

/-! ### Requests without a signature -/

theorem execIdentify_unsigned (hq : Unsigned q) :
    execIdentify q s = .next (s.answer 1 0 q ([Config.serial.toNat, s.hub.securityVersion.toNat, s.hub.farPorts.toNat] ++
      byteNats s.hub.firmware ++ [s.hub.lastSeq.toNat])) := by
  rw [execIdentify, State.request_unsigned_open hq (.inr rfl), State.accepted_of_unsigned hq]

theorem execAttest_unsigned (hq : Unsigned q) (hnonce : q.body.length = 32) :
    execAttest q s = .next (s.answer 2 0 q (byteNats (s.hub.report q.body))) := by
  rw [execAttest, State.request_unsigned_open hq (.inr rfl), if_neg (by simp [hnonce]), State.accepted_of_unsigned hq]

theorem execReadCounters_unsigned (hq : Unsigned q) (hboot : s.hub.booted = true) :
    execReadCounters q s = .next (s.answer 5 0 q (s.hub.counters.toList.map BitVec.toNat)) := by
  rw [execReadCounters, State.request_unsigned_open hq (.inl hboot), State.accepted_of_unsigned hq]

theorem execResetWarm_unsigned (hq : Unsigned q) (hboot : s.hub.booted = true) :
    execResetWarm q s = .next (if leNat q.body = 1 then s else s.answer 4 2 q []) := by
  by_cases hkind : leNat q.body = 1
  · rw [execResetWarm, if_pos hkind, if_pos hkind]
  · rw [execResetWarm_of_kind hkind, State.request_unsigned_needing hq (.inl hboot), if_neg hkind]

theorem execResetFull_unsigned (hq : Unsigned q) (hboot : s.hub.booted = true) :
    execResetFull q s = .next (if leNat q.body = 1 then s.answer 4 2 q [] else s) := by
  by_cases hkind : leNat q.body = 1
  · rw [execResetFull_of_kind hkind, State.request_unsigned_needing hq (.inl hboot), if_pos hkind]
  · rw [execResetFull, if_pos (by simpa using hkind), if_neg hkind]

/-! ### Requests with a new sequence -/

/-- An image that the ROM would accept waits for the next reset, and its digest is noted. -/
theorem execLoadImage_signed_accepted {img : List Byte} (hq : Signed s q) (himg : imageOk img = true) :
    execLoadImage q (some img) s = .next (ifVerified s 3 q (({ sequenced s q with hub := { s.hub with
      lastSeq := q.seq, nextImage := some img, digests := s.hub.digests ++ [Config.shake256 img] } } : State).answer 3 0 q [])) := by
  rw [execLoadImage, State.request_signed hq (.inr rfl), Option.filter_some, if_pos himg, State.accepted_of_signed hq]
  rfl

/-- What an image that the ROM would not accept is answered is free (log 55). -/
theorem execLoadImage_signed_refused {img : List Byte} (hq : Signed s q) (himg : imageOk img = false) :
    execLoadImage q (some img) s =
      .next (ifVerified s 3 q (s.ticked.answer 3 (Config.imageStatus s.tick % 6 + 1) q [])) := by
  rw [execLoadImage, State.request_signed hq (.inr rfl), Option.filter_some, if_neg (by simp [himg])]

theorem execResetWarm_signed (hq : Signed s q) (hboot : s.hub.booted = true) (hkind : leNat q.body = 0) (hbody : q.body ≠ []) :
    execResetWarm q s = .next (ifVerified s 4 q ((sequenced s q).answer 4 0 q []).warmReset) := by
  rw [execResetWarm_of_kind (by omega), State.request_signed hq (.inl hboot), if_neg (by simp [hkind, hbody]),
    State.accepted_of_signed hq]

theorem execResetFull_signed (hq : Signed s q) (hboot : s.hub.booted = true) (hkind : leNat q.body = 1) :
    execResetFull q s = .next (ifVerified s 4 q ((sequenced s q).answer 4 0 q []).fullReset) := by
  rw [execResetFull_of_kind hkind, State.request_signed hq (.inl hboot), State.accepted_of_signed hq]

theorem execSetPowerLimit_signed (hq : Signed s q) (hboot : s.hub.booted = true) :
    execSetPowerLimit q s = .next (ifVerified s 6 q
      (if leNat q.body < 1200 ∨ 2600 < leNat q.body then s.answer 6 3 q []
       else if s.hub.applying ≠ [] then s.answer 6 6 q []
       else ((sequenced s q).modHub fun h => h.setLimit (BitVec.ofNat 32 (leNat q.body))).answer 6 0 q [leNat q.body])) := by
  rw [execSetPowerLimit, State.request_signed hq (.inl hboot), State.accepted_of_signed hq]
  simp

/-- The newest dump of the grid is the one that is kept first (log 33). -/
theorem execRetrieveDump_signed_found {d : Dump} (hq : Signed s q) (hboot : s.hub.booted = true)
    (hd : s.hub.dumps.find? (fun d => d.gid == leNat q.body) = some d) :
    execRetrieveDump q s = .next (ifVerified s 7 q ((sequenced s q).answer 7 0 q (byteNats d.bytes))) := by
  rw [execRetrieveDump, State.request_signed hq (.inl hboot), State.accepted_of_signed hq, hd]

theorem execRetrieveDump_signed_missing (hq : Signed s q) (hboot : s.hub.booted = true)
    (hnone : s.hub.dumps.find? (fun d => d.gid == leNat q.body) = none) :
    execRetrieveDump q s = .next (ifVerified s 7 q (s.answer 7 4 q [])) := by
  rw [execRetrieveDump, State.request_signed hq (.inl hboot), hnone]

theorem execReadErrorLog_signed (hq : Signed s q) (hboot : s.hub.booted = true) :
    execReadErrorLog q s = .next (ifVerified s 8 q ((sequenced s q).answer 8 0 q (byteNats s.hub.errorLog))) := by
  rw [execReadErrorLog, State.request_signed hq (.inl hboot), State.accepted_of_signed hq]

/-! ### What is no request -/

theorem execManagementBadRequest_booted {code : BitVec 8} (hboot : s.hub.booted = true)
    (hbad : isRequest q = false ∨ code = 0 ∨ 8 < code.toNat) : execManagementBadRequest code q s = .next (s.answer code.toNat 1 q []) := by
  have hnone : ¬ ((1 ≤ code.toNat && code.toNat ≤ 8) && isRequest q) = true := by
    obtain hform | rfl | hcode := hbad
    · simp [hform]
    · simp
    · simp [Nat.not_le.mpr hcode]
  simp only [execManagementBadRequest, hboot, hnone, Bool.not_true, Bool.false_and, Bool.false_eq_true, if_false]

/-! ### Images (R305) -/

/-- Whatever becomes of an image, only the hub's fields about images change. -/
theorem Hub.tryImage_eq (h : Hub) (img : Option (List Byte)) : ∃ b ds fw v,
    h.tryImage img = { h with booted := b, digests := ds, firmware := fw, version := v } := by
  cases img with
  | none => exact ⟨h.booted, h.digests, h.firmware, h.version, rfl⟩
  | some i =>
    cases hi : imageOk i with
    | false => exact ⟨h.booted, h.digests, h.firmware, h.version, by simp [Hub.tryImage, hi]⟩
    | true => exact ⟨_, _, _, _, by rw [Hub.tryImage, hi, if_pos rfl]; rfl⟩

/-- A waiting ROM runs exactly an acceptable image. -/
theorem Hub.tryImage_booted {h : Hub} (hwaits : h.booted = false) (img : Option (List Byte)) :
    (h.tryImage img).booted = img.any imageOk := by
  cases img with
  | none => exact hwaits
  | some i => cases hi : imageOk i <;> simp [Hub.tryImage, Hub.runImage, hi, hwaits]

theorem Hub.startImage_eq (h : Hub) (img : Option (List Byte)) : ∃ b ds fw v,
    h.startImage img = { h with nextImage := none, booted := b, digests := ds, firmware := fw, version := v } :=
  Hub.tryImage_eq { h with nextImage := none } _

/-! ### The obligation -/

/-- Settles O49: State.turnedAway answers alike for every command (State.request_unsigned_open, State.request_unsigned_needing,
State.request_signed, State.request_stale), and each command has a lemma of its own for what it then does. -/
theorem management : Obligations.Management := by
  unfold Obligations.Management
  refine ⟨fun s q hq => ?unsigned, fun s q hq hboot => ?signed, fun s q hform hsigned hlen hold hboot => ?stale,
    fun s code q hboot hbad => execManagementBadRequest_booted hboot hbad, fun s => ?warm⟩
  case unsigned =>
    refine ⟨execIdentify_unsigned hq, execAttest_unsigned hq, fun img => ?_, fun hboot => ⟨execReadCounters_unsigned hq hboot,
      execResetWarm_unsigned hq hboot, execResetFull_unsigned hq hboot, ?_, ?_, ?_⟩⟩
    · exact congrArg _ (State.request_unsigned_needing hq (.inr rfl))
    · exact congrArg _ (State.request_unsigned_needing hq (.inl hboot))
    · exact congrArg _ (State.request_unsigned_needing hq (.inl hboot))
    · exact congrArg _ (State.request_unsigned_needing hq (.inl hboot))
  case signed =>
    refine ⟨fun img => ⟨Config.imageStatus s.tick % 6 + 1, _, by omega, by omega, rfl, ?_⟩, execResetWarm_signed hq hboot,
      execResetFull_signed hq hboot, fun hlow hhigh happ => ?_, fun hlow hhigh happ => ?_, execRetrieveDump_signed_missing hq hboot,
      fun hout => ?_, fun d => execRetrieveDump_signed_found hq hboot, execReadErrorLog_signed hq hboot⟩
    · cases himg : imageOk img with
      | true => exact execLoadImage_signed_accepted hq himg
      | false => exact execLoadImage_signed_refused hq himg
    · exact (execSetPowerLimit_signed hq hboot).trans (by rw [if_neg (by omega), if_neg (by simpa using happ)])
    · exact (execSetPowerLimit_signed hq hboot).trans (by rw [if_neg (by omega), if_pos happ])
    · exact (execSetPowerLimit_signed hq hboot).trans (by rw [if_pos hout])
  case stale =>
    have hturned : ∀ code rom f, s.hub.booted = true ∨ rom = true →
        (Host.Outcome.next (s.request code true rom q f) : Out) = .next (ifVerified s code q (s.answer code 1 q [])) :=
      fun code rom f hans => congrArg _ (State.request_stale hform hsigned hlen hold hans)
    exact ⟨fun img => hturned 3 true _ (.inr rfl), hturned 6 false _ (.inl hboot), hturned 7 false _ (.inl hboot),
      hturned 8 false _ (.inl hboot),
      fun hkind => (execResetWarm_of_kind (by omega)).trans (hturned 4 false _ (.inl hboot)),
      fun hkind => (execResetFull_of_kind hkind).trans (hturned 4 false _ (.inl hboot))⟩
  case warm =>
    have hhub : (s.warmReset).hub.bootCount = s.hub.bootCount + 1 ∧ (s.warmReset).hub.commanded = s.hub.commanded := by
      rw [State.warmReset]
      dsimp only
      obtain ⟨_, _, _, _, hstart⟩ := Hub.startImage_eq _ none
      rw [hstart]
      exact ⟨rfl, rfl⟩
    exact ⟨rfl, rfl, rfl, rfl, rfl, hhub⟩

end Sys2Proof.Machine
end

section
/-! PROOF. Part resets (R305, R307, R308), and throttling and the thermal reset (R309). -/

namespace Sys2Proof.Machine

open Sys2Proof Safety

variable {s : State} {h : Hub} {b : BootFetch} {die : Nat} {temp : BitVec 16} {temps : List (BitVec 16)}

/-! ### The boot ROM (R305) -/

theorem State.foldl_modDie_eq {α : Type} (l : List α) (d : α → Nat) (f : α → DieState → DieState) (s : State) :
    ∃ ds, l.foldl (fun s x => s.modDie (d x) (f x)) s = { s with dies := ds } := by
  induction l generalizing s with
  | nil => exact ⟨s.dies, rfl⟩
  | cons x l ih =>
    obtain ⟨ds, hds⟩ := ih (s.modDie (d x) (f x))
    exact ⟨ds, hds⟩

/-- What the ROM makes of the hub. -/
def Hub.boot (h : Hub) (b : BootFetch) : Hub :=
  Hub.startImage { h with bootCount := h.bootCount + 1, romRan := true, farPorts := b.farPorts, sysRate := b.sysRate, lmRate := b.lmRate } b.image

theorem State.boot_eq (s : State) (b : BootFetch) : ∃ ds, s.boot b = { s with hub := s.hub.boot b, dies := ds } :=
  State.foldl_modDie_eq (b.rcBases.zipIdx.take 4) Prod.snd (fun x y => { y with rcBase := some x.1 }) { s with hub := s.hub.boot b }

theorem Hub.boot_eq (h : Hub) (b : BootFetch) : ∃ bt ds fw v, h.boot b =
    { h with
      bootCount := h.bootCount + 1, romRan := true, farPorts := b.farPorts, sysRate := b.sysRate, lmRate := b.lmRate, nextImage := none,
      booted := bt, digests := ds, firmware := fw, version := v } :=
  Hub.startImage_eq _ _

theorem Hub.boot_booted (hwaits : h.booted = false) (b : BootFetch) :
    (h.boot b).booted = (h.nextImage.orElse fun _ => b.image).any imageOk :=
  Hub.tryImage_booted (h := { h with
    bootCount := h.bootCount + 1, romRan := true, farPorts := b.farPorts, sysRate := b.sysRate, lmRate := b.lmRate, nextImage := none })
    hwaits _

theorem execPartReset_of_bootOk (hb : bootOk b = true) : execPartReset b s = .next (s.fullReset.boot b) := by
  rw [execPartReset, if_pos hb]

theorem execBootImageRetry_waiting {img : List Byte} (hwaits : s.hub.booted = false) (hrom : s.hub.romRan = true) :
    execBootImageRetry (some img) s = .next (s.modHub fun h => h.tryImage (some img)) := by
  rw [execBootImageRetry, if_neg (by simp [hwaits, hrom])]

theorem execThermalReset_of_hot (hdie : die < 4) (hhot : 920 ≤ temp.toInt) (hb : bootOk b = true) :
    execThermalReset die temp b s =
      .next (((s.fullReset).modHub fun h => Hub.record { h with thermalResets := satInc h.thermalResets } die temp 2).boot b) := by
  rw [execThermalReset, if_pos (by simp [atLeast, hdie, hhot, hb])]

/-! ### Throttling (R309) -/

theorem hotterThan_105 (t : BitVec 16) : hotterThan t 105 = true ↔ 840 < t.toInt := decide_eq_true_iff

theorem atLeast_95 (t : BitVec 16) : atLeast t 95 = true ↔ 760 ≤ t.toInt := decide_eq_true_iff

theorem Hub.beginThrottle_commanded (h : Hub) (die : Nat) (temp : BitVec 16) : (h.beginThrottle die temp).commanded = h.commanded := by
  rw [Hub.beginThrottle]
  split_ifs <;> rfl

theorem Hub.beginThrottle_effective (h : Hub) (die : Nat) (temp : BitVec 16) : (h.beginThrottle die temp).effective = h.effective := by
  rw [Hub.beginThrottle]
  split_ifs <;> rfl

/-- Throttling that lasts goes on under the die that began it. -/
theorem Hub.beginThrottle_throttling (h : Hub) (die : Nat) (temp : BitVec 16) :
    (h.beginThrottle die temp).throttling = h.throttling.or (some die) := by
  cases hth : h.throttling <;> simp [Hub.beginThrottle, Hub.record, hth]

/-- One step down, to no less than 1,200 W. -/
theorem Hub.thermalStep_hot (h : Hub) (hhot : ∃ x ∈ temps, 840 < x.toInt) : ∃ d x, h.thermalStep temps =
    { h.beginThrottle d x with effective := if h.effective.toNat < 1300 then 1200 else h.effective - 100 } := by
  have hany : (temps.any fun t => hotterThan t 105) = true := by simpa [List.any_eq_true, hotterThan_105] using hhot
  rw [Hub.thermalStep, if_pos hany]
  dsimp only
  rw [Hub.beginThrottle_effective]
  exact ⟨_, _, rfl⟩

theorem not_any_hotterThan (hcool : ∀ x ∈ temps, x.toInt ≤ 840) : ¬ (temps.any fun t => hotterThan t 105) = true := by
  simpa [List.any_eq_true, hotterThan_105] using hcool

theorem Hub.thermalStep_warm (h : Hub) (hcool : ∀ x ∈ temps, x.toInt ≤ 840) (hwarm : ∃ x ∈ temps, 760 ≤ x.toInt) :
    h.thermalStep temps = h := by
  have hany : (temps.any fun t => atLeast t 95) = true := by simpa [List.any_eq_true, atLeast_95] using hwarm
  rw [Hub.thermalStep, if_neg (not_any_hotterThan hcool), if_pos hany]

/-- One step up, to the commanded limit at most, and throttling has ended. -/
theorem Hub.thermalStep_cool (h : Hub) (hcool : ∀ x ∈ temps, x.toInt < 760) : ∃ rs, h.thermalStep temps =
    { h with
      effective := if h.effective.toNat + 100 ≥ h.commanded.toNat then h.commanded else h.effective + 100
      throttling := none, thermal := rs } := by
  have hnone : ¬ (temps.any fun t => atLeast t 95) = true := by simpa [List.any_eq_true, atLeast_95] using hcool
  rw [Hub.thermalStep, if_neg (not_any_hotterThan fun x hx => ((hcool x hx).trans (by decide)).le), if_neg hnone]
  cases hth : h.throttling with
  | some d => exact ⟨_, rfl⟩
  | none => exact ⟨h.thermal, rfl⟩

theorem lowered_toNat (w : Word) (hw : 1200 ≤ w.toNat) :
    (if w.toNat < 1300 then (1200 : Word) else w - 100).toNat = max 1200 (w.toNat - 100) := by
  split_ifs with hlow
  · change 1200 = _
    omega
  · bv_omega

theorem raised_toNat (w c : Word) :
    (if w.toNat + 100 ≥ c.toNat then c else w + 100).toNat = min c.toNat (w.toNat + 100) := by
  split_ifs with hnear
  · omega
  · bv_omega

theorem Hub.thermalStep_commanded (h : Hub) (temps : List (BitVec 16)) : (h.thermalStep temps).commanded = h.commanded := by
  by_cases hhot : ∃ x ∈ temps, 840 < x.toInt
  · obtain ⟨d, x, hstep⟩ := h.thermalStep_hot hhot
    rw [hstep]
    exact h.beginThrottle_commanded d x
  · push Not at hhot
    by_cases hwarm : ∃ x ∈ temps, 760 ≤ x.toInt
    · rw [h.thermalStep_warm hhot hwarm]
    · push Not at hwarm
      obtain ⟨rs, hstep⟩ := h.thermalStep_cool hwarm
      rw [hstep]

theorem execThermalThrottleStart_hot (hdie : die < 4) (hhot : 840 < temp.toInt) :
    execThermalThrottleStart die temp s = .next { s with hub := s.hub.beginThrottle die temp } := by
  rw [execThermalThrottleStart, if_pos (by simp [hdie, (hotterThan_105 temp).mpr hhot])]
  rfl

theorem execThrottleStep_of_length (hlen : temps.length = 4) : execThrottleStep temps s = .next { s with hub := s.hub.thermalStep temps } := by
  rw [execThrottleStep, if_pos hlen]
  rfl

/-! ### The obligation -/

/-- Settles O50: a boot after a full reset changes only the hub and the dies (State.boot_eq, Hub.boot_eq), and a throttle step falls into
three ranges (Hub.thermalStep_hot, Hub.thermalStep_warm, Hub.thermalStep_cool). -/
theorem resetsAndHeat : Obligations.ResetsAndHeat := by
  unfold Obligations.ResetsAndHeat
  refine ⟨fun s b hb => ?reset, fun s img hwaits hrom => ?retry, fun s die temp hdie hhot hnone => ?start, fun s temps hlen => ?step,
    fun s die temp b hdie hhot hb => ?thermal⟩
  case reset =>
    refine ⟨_, execPartReset_of_bootOk hb, ?_⟩
    obtain ⟨ds, hboot⟩ := s.fullReset.boot_eq b
    have hbooted := Hub.boot_booted (h := s.fullReset.hub) rfl b
    obtain ⟨bt, dg, fw, v, hhub⟩ := s.fullReset.hub.boot_eq b
    rw [hhub] at hbooted hboot
    rw [hboot]
    exact ⟨rfl, rfl, rfl, rfl, rfl, rfl, rfl, rfl, rfl, rfl, rfl, rfl, rfl, hbooted⟩
  case retry =>
    refine ⟨_, execBootImageRetry_waiting hwaits hrom, rfl, rfl, Hub.tryImage_booted hwaits (some img), ?_⟩
    obtain ⟨_, _, _, _, htry⟩ := s.hub.tryImage_eq (some img)
    rw [State.modHub_hub, htry]
    exact ⟨rfl, rfl⟩
  case start =>
    refine ⟨_, execThermalThrottleStart_hot hdie hhot, ?_, s.hub.beginThrottle_effective die temp, ?_⟩
    · rw [Hub.beginThrottle_throttling, hnone]
      rfl
    · rw [Hub.beginThrottle, if_pos (by rw [hnone]; rfl)]
      rfl
  case step =>
    refine ⟨_, execThrottleStep_of_length hlen, s.hub.thermalStep_commanded temps, fun hhot => ?hot, s.hub.thermalStep_warm,
      fun hcool _ _ => ?cool⟩
    case hot =>
      obtain ⟨d, x, hstep⟩ := s.hub.thermalStep_hot hhot
      have hth := s.hub.beginThrottle_throttling d x
      rw [hstep]
      refine ⟨?_, fun hlasts => ?_, lowered_toNat s.hub.effective⟩
      · simp [hth]
      · rw [hth, Option.or_of_isSome hlasts]
    case cool =>
      obtain ⟨rs, hstep⟩ := s.hub.thermalStep_cool hcool
      rw [hstep]
      exact ⟨rfl, raised_toNat s.hub.effective s.hub.commanded⟩
  case thermal =>
    refine ⟨_, execThermalReset_of_hot hdie hhot hb, ?_⟩
    set s1 := (s.fullReset).modHub fun h => Hub.record { h with thermalResets := satInc h.thermalResets } die temp 2
    obtain ⟨ds, hboot⟩ := s1.boot_eq b
    obtain ⟨bt, dg, fw, v, hhub⟩ := s1.hub.boot_eq b
    rw [hboot, hhub]
    exact ⟨rfl, rfl, rfl, rfl, rfl, rfl⟩

end Sys2Proof.Machine
end
